-- ==== Sys2Proof/Word.lean ====
section
/-! DEFINITION. The words of the machine (R2, R58, R121): what the spec treats as bits is a `BitVec` of the
spec's own width. -/

namespace Sys2Proof

/-- A byte of any memory. -/
abbrev Byte := BitVec 8
/-- A 32-bit word: headers, slot words, extension words, b, n and g registers. -/
abbrev Word := BitVec 32
/-- A 64-bit scalar, matrix parameter or control register. -/
abbrev DWord := BitVec 64
/-- A vector register (R121). -/
abbrev VReg := BitVec 1024
/-- A lane predicate (R120). -/
abbrev Pred := BitVec 128
/-- A physical core number (R8). -/
abbrev CoreNo := BitVec 9
/-- A physical cluster number (R8). -/
abbrev ClusterNo := BitVec 6
/-- A compute die, which is also a melt zone (R7, R297). -/
abbrev DieNo := BitVec 2
/-- An errand record number (R314). -/
abbrev RecNo := BitVec 11

end Sys2Proof
end

