-- ==== Sys2Proof/Config.lean ====
section
/-! DEFINITION. What the spec leaves open, as constants with no body: no proof can see a value of one, so a statement that
mentions one holds for every value. Each is applied to a counter (`State.free`, or the count of package resets) or to the
operands it depends on (notes/assumptions/1.md). -/

namespace Sys2Proof.Config

/-- R3, R85 to R87, R301: how many cycles a core is held, less those the spec fixes. -/
opaque heldCycles : Nat → Nat

/-- R223, R225: which entry of a cluster's translation cache makes room, and R232: which egress lane reaches its stack next. -/
opaque cacheVictim : Nat → Nat
opaque egressPick : Nat → Nat

/-- R216: the refresh phase of a die after package reset, in ns below 64,000. -/
opaque loftPhase : Nat → DieNo → Nat

/-- R141: the written bits of a special function where the spec gives only a bound: function number, grade (0 fast, else the
iteration count), type code, rounding mode and the operand's bits. The meaning keeps the result inside the bound. -/
opaque special : Nat → Nat → Nat → Nat → Nat → Nat

/-- R277: the contents of a contained core's private state: a byte or a register by number. -/
opaque contained : Nat → Nat → Nat

/-- R220: which entry of a run of differing page-table entries a walk uses, by table address and number of the run. -/
opaque runEntry : Nat → Nat → Nat

/-- R377 and the device's fuses: serial number and signature bytes of an attestation report (R406). -/
opaque serial : DWord
opaque signature : Nat → List Byte → List Byte

/-- R312: a cluster's ring-oscillator count per microsecond as recorded at test. -/
opaque pmonTest : ClusterNo → Nat

/-- R403: the fused least SVN of a KIND, and whether the RSA and the SLH-DSA signature over bytes 0 to 63 of an image verify under the keys of
the boot ROM. -/
opaque minSvn : Nat → Nat
opaque rsaSigned : List Byte → List Byte → Bool
opaque slhSigned : List Byte → List Byte → Bool

/-- R374: whether a frame breaks the AV1 decode process, and R373: the samples it gives, by plane and place, both by the bytes of the stream up
to the frame's end; for frames whose decoding the model does not work out (notes/assumptions/33.md). -/
opaque av1Broken : List Byte → Bool
opaque av1Sample : List Byte → Nat → Nat → Nat

/-- R106: the bytes in which the element codes and the scales of an MX encoding with vd = vb meet, by count and place. -/
opaque mixedByte : Nat → Nat → Byte

/-- R14: which of the free clusters the Foreman takes. -/
opaque crewPick : Nat → Nat

/-- R279, R316: the bytes of a save area, whose layout the spec does not give, by count and place. -/
opaque saveByte : Nat → Nat → Byte

/-- R342: where the Fitter puts the residual of a cache entry, by entry, in units of 256 bytes. -/
opaque residualAddr : Nat → Nat

end Sys2Proof.Config
end

