-- ==== Sys2Proof/Syntax.lean ====
section
/-! DEFINITION. The syntax of the machine: one constructor of `Instr` for each row of the opcode table (its
operations, and the events of the device that the spec lists beside them). Fields are the fields of the encoding
(R29, R156, R324, R317); a slot word's binding-time mark (R28) is kept as the field `bt`. -/

namespace Sys2Proof

/-- A CXL port (R12, R322). -/
inductive Port where
  | a | b
  deriving DecidableEq, Repr

/-- The unit that writes a trap record: its class and its unit number (R264). -/
structure Source where
  cls : BitVec 3
  unit : BitVec 9
  deriving DecidableEq, Repr

/-- What every port write carries (R317): the port and page it arrives through, the CPU and the token. -/
structure PortWrite where
  port : Port
  errand : RecNo
  cpu : BitVec 16
  token : DWord
  deriving DecidableEq, Repr

/-- What every errand step carries (R324): the errand whose sequencer fetched it, and the barrier bit. -/
structure StepHead where
  errand : RecNo
  bar : BitVec 1
  deriving DecidableEq, Repr

/-- The call an INVOKE made (R361, R362): the calling core, its reply handle, and the call number. -/
structure CallRef where
  core : CoreNo
  reply : BitVec 6
  callno : DWord
  deriving DecidableEq, Repr

/-- S-slot register form with an operand file (R29, R71). -/
structure SReg where
  bt : BitVec 2
  d : BitVec 5
  a : BitVec 5
  b : BitVec 5
  f : BitVec 3
  deriving DecidableEq, Repr

/-- S-slot immediate form (R29). -/
structure SImm where
  bt : BitVec 2
  d : BitVec 5
  a : BitVec 5
  i : BitVec 12
  deriving DecidableEq, Repr

/-- S-slot immediate shift (R72): only imm12[5:0] is used. -/
structure SShift where
  bt : BitVec 2
  d : BitVec 5
  a : BitVec 5
  i : BitVec 6
  deriving DecidableEq, Repr

/-- S-slot one-operand register form (R72). -/
structure SUnary where
  bt : BitVec 2
  d : BitVec 5
  a : BitVec 5
  deriving DecidableEq, Repr

/-- S-slot bit-field form (R74): width `l` and position `p`. -/
structure SField where
  bt : BitVec 2
  d : BitVec 5
  a : BitVec 5
  l : BitVec 6
  p : BitVec 6
  deriving DecidableEq, Repr

/-- V-slot layout with two sources (R29): `y` is T. -/
structure VBin where
  bt : BitVec 2
  y : BitVec 3
  d : BitVec 5
  a : BitVec 5
  b : BitVec 5
  w : BitVec 2
  k : BitVec 3
  deriving DecidableEq, Repr

/-- V-slot layout with vb reserved. -/
structure VUnary where
  bt : BitVec 2
  y : BitVec 3
  d : BitVec 5
  a : BitVec 5
  w : BitVec 2
  k : BitVec 3
  deriving DecidableEq, Repr

/-- V-slot layout with T and vb reserved (R104). -/
structure VUnary0 where
  bt : BitVec 2
  d : BitVec 5
  a : BitVec 5
  w : BitVec 2
  k : BitVec 3
  deriving DecidableEq, Repr

/-- V-slot layout of a compare (R127): the destination is a predicate. -/
structure VCmp where
  bt : BitVec 2
  y : BitVec 3
  d : BitVec 3
  a : BitVec 5
  b : BitVec 5
  w : BitVec 2
  k : BitVec 3
  deriving DecidableEq, Repr

/-- V-slot layout of a special function (R140): T[1:0] gives the type, T[2] is the grade. -/
structure VSpecial where
  bt : BitVec 2
  y : BitVec 2
  d : BitVec 5
  a : BitVec 5
  w : BitVec 2
  k : BitVec 3
  deriving DecidableEq, Repr

/-- V-slot layout of VCVTB (R106): W and k are fixed, T is reserved. -/
structure VBlock where
  bt : BitVec 2
  d : BitVec 5
  a : BitVec 5
  b : BitVec 5
  deriving DecidableEq, Repr

/-- The ARITH extension word (R123). -/
structure ArithX where
  rmo : BitVec 3
  sat : BitVec 1
  deriving DecidableEq, Repr

/-- The MEM extension word (R123). -/
structure MemX where
  step : BitVec 16
  off : BitVec 16
  deriving DecidableEq, Repr

/-- The extension word of VCVT (R104). -/
structure CvtX where
  rmo : BitVec 3
  sat : BitVec 1
  src : BitVec 5
  dst : BitVec 5
  deriving DecidableEq, Repr

/-- The extension word of VCVTB (R106). -/
structure CvtBX where
  h : BitVec 1
  rmo : BitVec 3
  src : BitVec 5
  dst : BitVec 5
  deriving DecidableEq, Repr

/-- The fields of ULATCH (R156): with `tb` the panel is in handle `h`, else at the address in w`mb`. -/
structure LatchU where
  e : BitVec 2
  mb : BitVec 3
  v : BitVec 1
  tb : BitVec 1
  h : BitVec 6
  pi : BitVec 1
  rel : BitVec 1
  k : BitVec 10
  deriving DecidableEq, Repr

/-- The fields of USTEP (R156). -/
structure StepU where
  ma : BitVec 3
  v : BitVec 1
  ta : BitVec 1
  h : BitVec 6
  e : BitVec 2
  mc : BitVec 3
  pi : BitVec 1
  rel : BitVec 1
  k : BitVec 10
  rows : BitVec 7
  mp : BitVec 3
  pe : BitVec 1
  deriving DecidableEq, Repr

/-- The operations and events of the device, one constructor for each row of the opcode table. -/
inductive Instr where
  /-- LNOP (R82): Does nothing in the L slot. -/
  | lnop (bt : BitVec 2)
  /-- BR (R82): Branches always. -/
  | br (bt : BitVec 2) (o : BitVec 18)
  /-- BRZ (R82): Branches when s[sa] is zero. -/
  | brz (bt : BitVec 2) (a : BitVec 5) (o : BitVec 18)
  /-- BRNZ (R82): Branches when s[sa] is not zero. -/
  | brnz (bt : BitVec 2) (a : BitVec 5) (o : BitVec 18)
  /-- BRLT (R82): Branches when s[sa] is negative. -/
  | brlt (bt : BitVec 2) (a : BitVec 5) (o : BitVec 18)
  /-- BRGE (R82): Branches when s[sa] is not negative. -/
  | brge (bt : BitVec 2) (a : BitVec 5) (o : BitVec 18)
  /-- BRQ (R82): Branches on a q predicate, optionally negated. -/
  | brq (bt : BitVec 2) (q : BitVec 3) (n : BitVec 1) (o : BitVec 18)
  /-- BRI (R83): Transfers to the address in s[sa]. -/
  | bri (bt : BitVec 2) (a : BitVec 5)
  /-- CALL (R83): Jumps to the target and writes the return address to the link register. -/
  | call (bt : BitVec 2) (d : BitVec 5) (o : BitVec 18)
  /-- RET (R83): Returns to the address in s[sa]. -/
  | ret (bt : BitVec 2) (a : BitVec 5)
  /-- LOOP (R84): Decrements a loop counter and branches while it is nonzero. -/
  | loop (bt : BitVec 2) (c : BitVec 3) (o : BitVec 18)
  /-- LOOPR (R84): As LOOP, and rotates b0 to b7 and q0 to q7. -/
  | loopr (bt : BitVec 2) (c : BitVec 3) (o : BitVec 18)
  /-- HWAIT (R85): Holds the bundle until a handle or ring slot is FULL or FREE. -/
  | hwait (bt : BitVec 2) (g : BitVec 1) (p : BitVec 1) (h : BitVec 6)
  /-- BAR (R86): Ends the quantum and holds at a cluster barrier. -/
  | bar (bt : BitVec 2) (b : BitVec 3)
  /-- WAITV (R87): Holds the bundle while polling a yard word against a condition. -/
  | waitv (bt : BitVec 2) (a : BitVec 5) (b : BitVec 5) (c : BitVec 3) (z : BitVec 2)
  /-- HALT (R88): Ends issue; the core finishes when its engines and store buffer drain. -/
  | halt (bt : BitVec 2)
  /-- ARET (R89): Leaves the arrival handler and restores the saved state. -/
  | aret (bt : BitVec 2)
  /-- TRET (R275): Leaves the trap handler, returning to the trapping or next bundle. -/
  | tret (bt : BitVec 2) (k : BitVec 1)
  /-- SNOP (R72): Does nothing in the S slot. -/
  | snop (bt : BitVec 2)
  /-- ADD (R72): Integer add. -/
  | add (o : SReg)
  /-- SUB (R72): Integer subtract. -/
  | sub (o : SReg)
  /-- ADDI (R72): Integer add of a signed immediate. -/
  | addi (o : SImm)
  /-- MUL (R72): Low 64 bits of a product. -/
  | mul (o : SReg)
  /-- MULHS (R72): High 64 bits of a signed product. -/
  | mulhs (o : SReg)
  /-- MULHN (R72): High 64 bits of an unsigned product. -/
  | mulhn (o : SReg)
  /-- DIVS (R73): Signed quotient toward zero. -/
  | divs (o : SReg)
  /-- DIVN (R73): Unsigned quotient. -/
  | divn (o : SReg)
  /-- REMS (R73): Signed remainder. -/
  | rems (o : SReg)
  /-- REMN (R73): Unsigned remainder. -/
  | remn (o : SReg)
  /-- AND (R72): Bitwise AND. -/
  | and (o : SReg)
  /-- OR (R72): Bitwise OR. -/
  | or (o : SReg)
  /-- XOR (R72): Bitwise XOR. -/
  | xor (o : SReg)
  /-- ANDN (R72): a AND NOT b. -/
  | andn (o : SReg)
  /-- ANDI (R72): AND with a sign-extended immediate. -/
  | andi (o : SImm)
  /-- ORI (R72): OR with a sign-extended immediate. -/
  | ori (o : SImm)
  /-- XORI (R72): XOR with a sign-extended immediate. -/
  | xori (o : SImm)
  /-- SHL (R72): Shift left by b[5:0]. -/
  | shl (o : SReg)
  /-- SHR (R72): Logical shift right by b[5:0]. -/
  | shr (o : SReg)
  /-- SAR (R72): Arithmetic shift right by b[5:0]. -/
  | sar (o : SReg)
  /-- SHLI (R72): Shift left by an immediate. -/
  | shli (o : SShift)
  /-- SHRI (R72): Logical shift right by an immediate. -/
  | shri (o : SShift)
  /-- SARI (R72): Arithmetic shift right by an immediate. -/
  | sari (o : SShift)
  /-- ROR (R72): Rotate right by b[5:0]. -/
  | ror (o : SReg)
  /-- RORI (R72): Rotate right by an immediate. -/
  | rori (o : SShift)
  /-- CLZ (R72): Counts leading zeros. -/
  | clz (o : SUnary)
  /-- CTZ (R72): Counts trailing zeros. -/
  | ctz (o : SUnary)
  /-- POPC (R72): Counts one bits. -/
  | popc (o : SUnary)
  /-- BFX (R74): Extracts a bit field, zero-extended. -/
  | bfx (o : SField)
  /-- BFXS (R74): Extracts a bit field, sign-extended. -/
  | bfxs (o : SField)
  /-- BFI (R74): Inserts a bit field into sd. -/
  | bfi (o : SField)
  /-- BFXV (R74): Extracts a bit field with position and width from a register. -/
  | bfxv (bt : BitVec 2) (d : BitVec 5) (a : BitVec 5) (b : BitVec 5) (x : BitVec 1)
  /-- CEQ (R72): 1 if equal. -/
  | ceq (o : SReg)
  /-- CNE (R72): 1 if not equal. -/
  | cne (o : SReg)
  /-- CLT (R72): 1 if less, signed. -/
  | clt (o : SReg)
  /-- CLTN (R72): 1 if less, unsigned. -/
  | cltn (o : SReg)
  /-- CLE (R72): 1 if less or equal, signed. -/
  | cle (o : SReg)
  /-- CLEN (R72): 1 if less or equal, unsigned. -/
  | clen (o : SReg)
  /-- CEQI (R72): 1 if equal to an immediate. -/
  | ceqi (o : SImm)
  /-- CLTI (R72): 1 if less than an immediate, signed. -/
  | clti (o : SImm)
  /-- SEL (R75): Selects s[sa] or s[sb] by a q predicate. -/
  | sel (bt : BitVec 2) (d : BitVec 5) (a : BitVec 5) (b : BitVec 5) (q : BitVec 3)
  /-- MIN (R72): Signed minimum. -/
  | min (o : SReg)
  /-- MAX (R72): Signed maximum. -/
  | max (o : SReg)
  /-- MINN (R72): Unsigned minimum. -/
  | minn (o : SReg)
  /-- MAXN (R72): Unsigned maximum. -/
  | maxn (o : SReg)
  /-- LI (R76): Loads a sign-extended 12-bit immediate. -/
  | li (bt : BitVec 2) (d : BitVec 5) (i : BitVec 12)
  /-- LI_EXT (R76): Loads a sign-extended 32-bit immediate from the extension word. -/
  | liExt (bt : BitVec 2) (d : BitVec 5) (x : Word)
  /-- LIH (R76): Places a 32-bit extension value in the high half above s[sa][31:0]. -/
  | lih (bt : BitVec 2) (d : BitVec 5) (a : BitVec 5) (x : Word)
  /-- ADDR (R77): Forms b[B] + s[sa] + (s[sb] << K). -/
  | addr (bt : BitVec 2) (d : BitVec 5) (a : BitVec 5) (b : BitVec 5) (k : BitVec 2) (r : BitVec 3)
  /-- LDS (R78): Loads 8 bytes from the local map. -/
  | lds (o : SImm)
  /-- STS (R78): Stores 8 bytes to the local map. -/
  | sts (o : SImm)
  /-- LDSX (R78): Loads 1 to 8 bytes at a scaled index. -/
  | ldsx (bt : BitVec 2) (d : BitVec 5) (a : BitVec 5) (b : BitVec 5) (k : BitVec 2) (x : BitVec 1) (z : BitVec 2)
  /-- STSX (R78): Stores 1 to 8 bytes at a scaled index. -/
  | stsx (bt : BitVec 2) (d : BitVec 5) (a : BitVec 5) (b : BitVec 5) (k : BitVec 2) (z : BitVec 2)
  /-- GETR (R80): Reads a control register. -/
  | getr (bt : BitVec 2) (d : BitVec 5) (n : BitVec 6)
  /-- SETR (R80): Writes a control register. -/
  | setr (bt : BitVec 2) (a : BitVec 5) (n : BitVec 6)
  /-- GETG (R80): Reads a uniform register. -/
  | getg (bt : BitVec 2) (d : BitVec 5) (n : BitVec 6)
  /-- GETH (R80): Reads a handle status word. -/
  | geth (bt : BitVec 2) (d : BitVec 5) (n : BitVec 6)
  /-- SETN (R80): Writes a loop counter. -/
  | setn (bt : BitVec 2) (n : BitVec 5) (a : BitVec 5)
  /-- SETB (R80): Writes a bench base register. -/
  | setb (bt : BitVec 2) (n : BitVec 5) (a : BitVec 5)
  /-- SETQ (R80): Writes a stage predicate. -/
  | setq (bt : BitVec 2) (n : BitVec 5) (a : BitVec 5)
  /-- DRAIN (R238): Ends the quantum and optionally waits for commit and far writes at a scope. -/
  | drain (bt : BitVec 2) (w : BitVec 1) (s : BitVec 2)
  /-- INVOKE (R363): Calls a clerk through the wicket with a reply handle. -/
  | invoke (bt : BitVec 2) (a : BitVec 5) (c : BitVec 3) (h : BitVec 6)
  /-- SPRINT (R300): Asks the hub for a sprint lease. -/
  | sprint (bt : BitVec 2) (d : BitVec 5) (a : BitVec 5) (l : BitVec 2)
  /-- SPRINTX (R300): Releases the cluster's sprint lease. -/
  | sprintx (bt : BitVec 2) (d : BitVec 5)
  /-- TRAP (R276): Raises a SOFTWARE trap after its issue. -/
  | trap (bt : BitVec 2) (a : BitVec 5) (n : BitVec 12)
  /-- STATPOP (R291): Removes the oldest on-core statistics record into two registers. -/
  | statpop (bt : BitVec 2) (d : BitVec 5) (e : BitVec 5)
  /-- FMTSET (R115): Copies format-table entry images from the bench. -/
  | fmtset (bt : BitVec 2) (a : BitVec 5) (c : BitVec 6) (f : BitVec 6)
  /-- VNOP (R35): Issues nothing and idles the vector slot's sticky record. -/
  | vnop (bt : BitVec 2)
  /-- VADD (R124): Lane add. -/
  | vadd (o : VBin)
  /-- VADD_ARITH (R124): Lane add with the ARITH extension word. -/
  | vaddArith (o : VBin) (x : ArithX)
  /-- VSUB (R124): Lane subtract. -/
  | vsub (o : VBin)
  /-- VSUB_ARITH (R124): Lane subtract with the ARITH extension word. -/
  | vsubArith (o : VBin) (x : ArithX)
  /-- VMUL (R124): Lane multiply. -/
  | vmul (o : VBin)
  /-- VMUL_ARITH (R124): Lane multiply with the ARITH extension word. -/
  | vmulArith (o : VBin) (x : ArithX)
  /-- VFMA (R124): Lane fused multiply-add. -/
  | vfma (o : VBin)
  /-- VFMA_ARITH (R124): Lane fused multiply-add with the ARITH extension word. -/
  | vfmaArith (o : VBin) (x : ArithX)
  /-- VFMS (R124): Lane fused multiply-subtract. -/
  | vfms (o : VBin)
  /-- VFMS_ARITH (R124): Lane fused multiply-subtract with the ARITH extension word. -/
  | vfmsArith (o : VBin) (x : ArithX)
  /-- VMIN (R124): Lane minimum. -/
  | vmin (o : VBin)
  /-- VMAX (R124): Lane maximum. -/
  | vmax (o : VBin)
  /-- VABS (R124): Lane absolute value. -/
  | vabs (o : VUnary)
  /-- VABS_ARITH (R124): Lane absolute value with the ARITH word for SAT. -/
  | vabsArith (o : VUnary) (sat : BitVec 1)
  /-- VNEG (R124): Lane negation. -/
  | vneg (o : VUnary)
  /-- VNEG_ARITH (R124): Lane negation with the ARITH word for SAT. -/
  | vnegArith (o : VUnary) (sat : BitVec 1)
  /-- VCLAMP (R124): Clamps each lane of vd between va and vb. -/
  | vclamp (o : VBin)
  /-- VAND (R126): Lane bitwise AND. -/
  | vand (o : VBin)
  /-- VOR (R126): Lane bitwise OR. -/
  | vor (o : VBin)
  /-- VXOR (R126): Lane bitwise XOR. -/
  | vxor (o : VBin)
  /-- VSHL (R126): Lane shift left. -/
  | vshl (o : VBin)
  /-- VSHR (R126): Lane logical shift right. -/
  | vshr (o : VBin)
  /-- VSAR (R126): Lane arithmetic shift right. -/
  | vsar (o : VBin)
  /-- VCEQ (R127): Lane equality compare into a predicate. -/
  | vceq (o : VCmp)
  /-- VCLT (R127): Lane less-than compare into a predicate. -/
  | vclt (o : VCmp)
  /-- VCLE (R127): Lane less-or-equal compare into a predicate. -/
  | vcle (o : VCmp)
  /-- VCUN (R127): Lane unordered compare into a predicate. -/
  | vcun (o : VCmp)
  /-- VSEL (R128): Selects lanes of va or vb by a predicate. -/
  | vsel (o : VBin)
  /-- VCVT (R104): Converts lanes between scalar formats. -/
  | vcvt (o : VUnary0) (x : CvtX)
  /-- VCVTB (R106): Encodes lanes into MX or GQ4 blocks or decodes them. -/
  | vcvtb (o : VBlock) (x : CvtBX)
  /-- VPACK (R111): Narrows integer lanes with rounding shift and saturation. -/
  | vpack (o : VUnary) (dst : BitVec 5) (sh : BitVec 5)
  /-- VUNPK (R111): Widens narrow integers or rule codes. -/
  | vunpk (o : VUnary) (src : BitVec 5)
  /-- VSHUF (R137): Shuffles lanes by a front-bank pattern. -/
  | vshuf (o : VBin) (e : BitVec 6)
  /-- VPATLD (R138): Loads a back bank of the pattern memory from the bench. -/
  | vpatld (bt : BitVec 2) (a : BitVec 5) (e : BitVec 6)
  /-- VPATSW (R139): Exchanges front and back pattern banks. -/
  | vpatsw (bt : BitVec 2)
  /-- VRADD (R131): Pairwise tree sum of active lanes into lane 0. -/
  | vradd (o : VUnary)
  /-- VRADD_ARITH (R131): Tree sum with the ARITH extension word. -/
  | vraddArith (o : VUnary) (x : ArithX)
  /-- VRMAX (R131): Maximum of active lanes into lane 0. -/
  | vrmax (o : VUnary)
  /-- VRMIN (R131): Minimum of active lanes into lane 0. -/
  | vrmin (o : VUnary)
  /-- VBCAST (R129): Broadcasts a vector lane or scalar to every lane. -/
  | vbcast (o : VUnary) (src : BitVec 1) (l : BitVec 7)
  /-- VEXT (R129): Extracts one lane into a scalar register. -/
  | vext (bt : BitVec 2) (y : BitVec 3) (d : BitVec 5) (a : BitVec 5) (w : BitVec 2) (l : BitVec 7)
  /-- VIDX (R129): Writes each lane's index. -/
  | vidx (bt : BitVec 2) (y : BitVec 3) (d : BitVec 5) (w : BitVec 2) (k : BitVec 3)
  /-- VLD (R132): Loads contiguous lanes. -/
  | vld (o : VUnary) (x : MemX)
  /-- VST (R132): Stores contiguous lanes. -/
  | vst (o : VUnary) (x : MemX)
  /-- VLDS (R132): Loads strided lanes. -/
  | vlds (o : VBin) (x : MemX)
  /-- VSTS (R132): Stores strided lanes. -/
  | vsts (o : VBin) (x : MemX)
  /-- VGATH (R132): Gathers lanes from the bench by index. -/
  | vgath (o : VBin) (x : MemX)
  /-- VSCAT (R132): Scatters lanes into the bench by index. -/
  | vscat (o : VBin) (x : MemX)
  /-- VEXP (R140): Fast-grade e^x. -/
  | vexp (o : VSpecial)
  /-- VEXP_ACCURATE (R140): Accurate-grade e^x with the ITER word. -/
  | vexpAccurate (o : VSpecial) (n : BitVec 6)
  /-- VLOG (R140): Fast-grade natural logarithm. -/
  | vlog (o : VSpecial)
  /-- VLOG_ACCURATE (R140): Accurate-grade natural logarithm. -/
  | vlogAccurate (o : VSpecial) (n : BitVec 6)
  /-- VRCP (R140): Fast-grade reciprocal. -/
  | vrcp (o : VSpecial)
  /-- VRCP_ACCURATE (R140): Accurate-grade reciprocal. -/
  | vrcpAccurate (o : VSpecial) (n : BitVec 6)
  /-- VRSQ (R140): Fast-grade reciprocal square root. -/
  | vrsq (o : VSpecial)
  /-- VRSQ_ACCURATE (R140): Accurate-grade reciprocal square root. -/
  | vrsqAccurate (o : VSpecial) (n : BitVec 6)
  /-- VSIN (R140): Fast-grade sine. -/
  | vsin (o : VSpecial)
  /-- VSIN_ACCURATE (R140): Accurate-grade sine. -/
  | vsinAccurate (o : VSpecial) (n : BitVec 6)
  /-- VCOS (R140): Fast-grade cosine. -/
  | vcos (o : VSpecial)
  /-- VCOS_ACCURATE (R140): Accurate-grade cosine. -/
  | vcosAccurate (o : VSpecial) (n : BitVec 6)
  /-- VTANH (R140): Fast-grade tanh. -/
  | vtanh (o : VSpecial)
  /-- VTANH_ACCURATE (R140): Accurate-grade tanh. -/
  | vtanhAccurate (o : VSpecial) (n : BitVec 6)
  /-- VLGST (R140): Fast-grade logistic function. -/
  | vlgst (o : VSpecial)
  /-- VLGST_ACCURATE (R140): Accurate-grade logistic function. -/
  | vlgstAccurate (o : VSpecial) (n : BitVec 6)
  /-- KAND (R142): Predicate AND. -/
  | kand (bt : BitVec 2) (d : BitVec 3) (a : BitVec 3) (b : BitVec 3)
  /-- KOR (R142): Predicate OR. -/
  | kor (bt : BitVec 2) (d : BitVec 3) (a : BitVec 3) (b : BitVec 3)
  /-- KXOR (R142): Predicate XOR. -/
  | kxor (bt : BitVec 2) (d : BitVec 3) (a : BitVec 3) (b : BitVec 3)
  /-- KNOT (R142): Predicate NOT. -/
  | knot (bt : BitVec 2) (d : BitVec 3) (a : BitVec 3)
  /-- KSET (R142): Sets the low min(s[va], 128) predicate bits. -/
  | kset (bt : BitVec 2) (d : BitVec 3) (a : BitVec 5)
  /-- VMOV (R129): Copies lanes bit for bit. -/
  | vmov (o : VUnary)
  /-- MNOP (R172): Issues nothing and idles the M record. -/
  | mnop (bt : BitVec 2)
  /-- MCALL (R175): Queues a matrix routine with a register snapshot. -/
  | mcall (bt : BitVec 2) (n : BitVec 8)
  /-- MSETP (R173): Sets or adds to a matrix parameter register. -/
  | msetp (bt : BitVec 2) (m : BitVec 3) (a : BitVec 5) (p : BitVec 1)
  /-- MLATCH (R176): Loads an edge latch directly. -/
  | mlatch (bt : BitVec 2) (e : BitVec 2) (b : BitVec 3) (v : BitVec 1) (k : BitVec 10) (f : BitVec 1)
  /-- MACCZ (R177): Zeroes a tile and makes it live. -/
  | maccz (bt : BitVec 2) (m : BitVec 3)
  /-- MRETIRE (R178): Converts a tile and writes its image. -/
  | mretire (bt : BitVec 2) (m : BitVec 3) (a : BitVec 5) (v : BitVec 1) (f : BitVec 1) (e : BitVec 1)
  /-- MUPLD (R179): Loads a routine into the microprogram store. -/
  | mupld (bt : BitVec 2) (n : BitVec 8) (a : BitVec 5) (word : BitVec 11) (cnt : BitVec 11)
  /-- MFMT (R174): Writes the explicit format record. -/
  | mfmt (bt : BitVec 2) (a : BitVec 5) (b : BitVec 5) (c : BitVec 5) (r : BitVec 2) (s : BitVec 1)
  /-- MWAIT (R172): Holds until the matrix engine is idle. -/
  | mwait (bt : BitVec 2)
  /-- RTLOAD (R254): Loads rule-table entries from the bench. -/
  | rtload (bt : BitVec 2) (a : BitVec 5) (f : BitVec 6) (c : BitVec 6)
  /-- RGRID (R255): Defines the Loom grid. -/
  | rgrid (bt : BitVec 2) (x : BitVec 3) (w : BitVec 4) (h : BitVec 11) (c : BitVec 1) (g : BitVec 3)
  /-- RGRID_OFF (R255): Releases the Loom grid. -/
  | rgridOff (bt : BitVec 2)
  /-- RMODE (R256): Writes the rule mode. -/
  | rmode (bt : BitVec 2) (n : BitVec 1) (i : BitVec 1) (u : BitVec 1) (x : BitVec 2) (y : BitVec 2) (o : BitVec 2) (p : BitVec 1)
  /-- RSTEP (R257): Steps the grid to an absolute generation target. -/
  | rstep (bt : BitVec 2) (a : BitVec 5)
  /-- RLOAD (R258): Moves a band of rows into the grid. -/
  | rload (bt : BitVec 2) (m : BitVec 3) (y : BitVec 3) (v : BitVec 1) (r : BitVec 11)
  /-- RSTORE (R258): Moves a band of rows out of the grid. -/
  | rstore (bt : BitVec 2) (m : BitVec 3) (y : BitVec 3) (v : BitVec 1) (r : BitVec 11)
  /-- RHALOX (R259): Exports a halo strip to the bench. -/
  | rhalox (bt : BitVec 2) (s : BitVec 2) (a : BitVec 5)
  /-- RHALOI (R259): Imports a halo strip and resets the side's count. -/
  | rhaloi (bt : BitVec 2) (s : BitVec 2) (a : BitVec 5)
  /-- RCENSUS (R261): Counts interior cells by code into the bench. -/
  | rcensus (bt : BitVec 2) (a : BitVec 5)
  /-- CNOP (R211): Issues nothing and idles the copy engine's record. -/
  | cnop (bt : BitVec 2)
  /-- COPY (R197): Copies a far tile into a handle. -/
  | copy (bt : BitVec 2) (g : BitVec 1) (h : BitVec 6) (a : BitVec 5) (v : BitVec 1) (s : BitVec 3)
  /-- COPYO (R197): Copies a handle's region out to a far tile. -/
  | copyo (bt : BitVec 2) (g : BitVec 1) (h : BitVec 6) (a : BitVec 5) (v : BitVec 1) (s : BitVec 3)
  /-- GATHER (R198): Gathers far rows by index into a handle. -/
  | gather (bt : BitVec 2) (g : BitVec 1) (h : BitVec 6) (a : BitVec 5) (b : BitVec 5) (v : BitVec 1)
  /-- SCATTR (R198): Scatters a handle's rows to far rows by index. -/
  | scattr (bt : BitVec 2) (g : BitVec 1) (h : BitVec 6) (a : BitVec 5) (b : BitVec 5) (v : BitVec 1)
  /-- FILLH (R199): Fills a handle's region with one byte. -/
  | fillh (bt : BitVec 2) (g : BitVec 1) (h : BitVec 6) (a : BitVec 5)
  /-- ADVP (R200): Publishes the outbound ring's producer slot. -/
  | advp (bt : BitVec 2) (r : BitVec 3)
  /-- ADVC (R200): Releases the inbound ring's consumer slot. -/
  | advc (bt : BitVec 2) (r : BitVec 3)
  /-- FLIP (R200): Flips a handle's owner bit. -/
  | flip (bt : BitVec 2) (h : BitVec 6)
  /-- RINGDEF (R201): Defines a ring at run time. -/
  | ringdef (bt : BitVec 2) (f : BitVec 6) (l : BitVec 6) (n : BitVec 3) (o : BitVec 1)
  /-- HARM (R204): Arms a handle with an arrival-handler address. -/
  | harm (bt : BitVec 2) (h : BitVec 6) (a : BitVec 5)
  /-- HARM_OFF (R204): Disarms a handle. -/
  | harmOff (bt : BitVec 2) (h : BitVec 6)
  /-- SEND (R203): Sends a handle's region to a handle or ring slot of a crew core. -/
  | send (bt : BitVec 2) (g : BitVec 1) (d : BitVec 6) (s : BitVec 6) (b : BitVec 5)
  /-- SACC (R207): Hands index and value streams to the scatter-accumulate engine. -/
  | sacc (bt : BitVec 2) (i : BitVec 6) (v : BitVec 6) (a : BitVec 5) (o : BitVec 3)
  /-- COLL (R209): Runs one segment of a collective. -/
  | coll (bt : BitVec 2) (s : BitVec 6) (d : BitVec 6) (a : BitVec 5)
  /-- HPOIS (R202): Sets or clears a handle's poison bit. -/
  | hpois (bt : BitVec 2) (h : BitVec 6) (c : BitVec 1)
  /-- TILEF (R197): Copies tile (x, y) of a far tensor into a handle. -/
  | tilef (bt : BitVec 2) (g : BitVec 1) (h : BitVec 6) (a : BitVec 5) (b : BitVec 5) (v : BitVec 1) (s : BitVec 3)
  /-- UPASS (R157): Holds the routine for N cycles. -/
  | upass (n : BitVec 8)
  /-- ULATCH (R158): Starts loading an edge latch from an address or handle. -/
  | ulatch (u : LatchU)
  /-- USTEP (R159): Streams rows of A through a latched panel into a tile. -/
  | ustep (u : StepU)
  /-- ULOOP (R161): Counted loop within a routine. -/
  | uloop (l : BitVec 2) (count : BitVec 8) (target : BitVec 11)
  /-- UACC (R162): Adds one tile into another. -/
  | uacc (ms : BitVec 3) (md : BitVec 3)
  /-- UFMT (R157): Makes a format record active and sets the cursors. -/
  | ufmt (src : BitVec 2) (af : BitVec 5) (bf : BitVec 5)
  /-- UFETCH (R160): Starts the fetcher's copy into a tile handle. -/
  | ufetch (h : BitVec 6) (md : BitVec 3) (v : BitVec 1)
  /-- UWAIT (R160): Holds the routine until a handle is FULL. -/
  | uwait (h : BitVec 6)
  /-- UROWP (R163): Sets ROWP from a parameter copy. -/
  | urowp (mr : BitVec 3)
  /-- UEND (R157): Ends the routine and the MCALL. -/
  | uend
  /-- NOP (R327): Errand step NOP completes at once. -/
  | nop (h : StepHead)
  /-- LAUNCH (R327): Errand step LAUNCH reads the descriptor, fits the kernel and asks the Foreman for a crew. -/
  | launch (h : StepHead) (gang : BitVec 1) (prio : BitVec 3) (desc : DWord) (ublock : DWord)
  /-- WAIT (R327): Errand step WAIT holds fetch until a memory word or a step meets its condition. -/
  | wait (h : StepHead) (kind : BitVec 1) (cond : BitVec 3) (size : BitVec 1) (step : BitVec 20) (addr : DWord) (value : DWord) (mask : DWord)
  /-- SIGNAL (R327): Errand step SIGNAL writes 8 bytes at SYS and optionally sends a notice. -/
  | signal (h : StepHead) (irq : BitVec 1) (addr : DWord) (value : DWord)
  /-- XFER (R327): Errand step XFER copies bytes through the hub's copy engine. -/
  | xfer (h : StepHead) (src : DWord) (dst : DWord) (len : DWord)
  /-- LOFT (R327): Errand step LOFT claims a loft bay and fills it from the source. -/
  | loft (h : StepHead) (die : DieNo) (bay : BitVec 16) (src : DWord) (off : Word) (len : Word)
  /-- LOFT_REL (R327): Errand step LOFT with REL = 1 releases a loft bay. -/
  | loftRel (h : StepHead) (die : DieNo) (bay : BitVec 16)
  /-- JOINPT (R327): Errand step JOINPT makes the errand WAITING, fulfils the JOIN and waits for RESUME. -/
  | joinpt (h : StepHead)
  /-- GOTO (R327): Errand step GOTO sets the next fetch index. -/
  | goto (h : StepHead) (target : BitVec 20)
  /-- END (R327): Errand step END releases bays and makes the errand DONE. -/
  | endStep (h : StepHead)
  /-- START (R320): Port operation START loads the record from the control block and makes the errand RUNNING. -/
  | start (p : PortWrite) (ecb : DWord)
  /-- JOIN (R321): Port operation JOIN arms a completion word, fulfilled at once if the errand is at rest. -/
  | join (p : PortWrite) (addr : DWord) (v : DWord)
  /-- PARK (R332): Port operation PARK stops fetch and saves any running launch, parking with reason HOST. -/
  | park (p : PortWrite)
  /-- PARK_CUT (R332): PARK with CUT = 1 stops the errand at a cut. -/
  | parkCut (p : PortWrite)
  /-- RESUME (R320): Port operation RESUME returns a host-parked errand or continues past a JOINPT. -/
  | resume (p : PortWrite)
  /-- KILL (R333): Port operation KILL abandons every step, releases bays, fulfils the JOIN and makes the errand KILLED. -/
  | kill (p : PortWrite)
  /-- GANG_JOIN (R338): GANG JOIN puts the errand in a gang of at most 64 members. -/
  | gangJoin (p : PortWrite) (gang : Word)
  /-- GANG_LEAVE (R338): GANG LEAVE takes the errand out of its gang. -/
  | gangLeave (p : PortWrite)
  /-- GANG_STOP (R338): GANG STOP asks for a cut of every member of the gang. -/
  | gangStop (p : PortWrite)
  /-- GANG_GO (R338): GANG GO resumes every member after a stop. -/
  | gangGo (p : PortWrite)
  /-- HOME (R320): Port operation HOME sets the home CPU. -/
  | home (p : PortWrite)
  /-- ADOPT (R334): HOME with ADOPT takes over a failover-parked errand through the new active port. -/
  | adopt (p : PortWrite)
  /-- STEWARD_REGISTER (R335): STEWARD REGISTER makes this owner the steward thread of the errand's ASID. -/
  | stewardRegister (p : PortWrite)
  /-- ORPHAN (R335): STEWARD ORPHAN passes an exiting thread's errand to the ASID steward, or kills and reaps it. -/
  | orphan (p : PortWrite)
  /-- STEWARD_UNREGISTER (R335): STEWARD UNREGISTER removes the steward if this token holds the role. -/
  | stewardUnregister (p : PortWrite)
  /-- ACK (R270): Port operation ACK makes the unit held on the named record translate again. -/
  | ack (p : PortWrite) (cls : BitVec 3) (unit : BitVec 16) (seq : BitVec 24)
  /-- QUERY (R322): A 64-byte read of the port returns the errand's state word. -/
  | query (p : Port) (r : RecNo)
  /-- UNASSIGNED_PORT_OPERATION (R57): A port write with an unassigned operation code or nonzero reserved field sets the port status to BAD_OP and changes nothing else. -/
  | unassignedPortOperation (p : PortWrite)
  /-- FILE_READ (R367): A FILE READ call copies file pages into memory through the page cache. -/
  | fileRead (k : CallRef) (page : DWord) (addr : DWord) (bytes : DWord)
  /-- FILE_WRITE (R367): A FILE WRITE call copies memory into file pages through the page cache. -/
  | fileWrite (k : CallRef) (page : DWord) (addr : DWord) (bytes : DWord)
  /-- FILE_FLUSH (R367): A FILE FLUSH call writes back the dirty pages of a range. -/
  | fileFlush (k : CallRef) (page : DWord) (bytes : DWord)
  /-- DECODE (R372): A DECODE call queues an AV1 decode job that delivers tiles into a core's ring. -/
  | decodeCall (k : CallRef) (stream : DWord) (len : DWord) (dst : DWord) (tile : DWord) (limit : DWord)
  /-- ALLOC (R367): An ALLOC call takes the lowest fitting range from the ASID's arena. -/
  | allocCall (k : CallRef) (bytes : DWord) (align : DWord)
  /-- ALLOC_FREE (R367): An ALLOC FREE call returns a range to the arena. -/
  | allocFree (k : CallRef) (addr : DWord)
  /-- TIME (R367): A TIME call replies with the hub's nanosecond counter. -/
  | timeCall (k : CallRef)
  /-- PRINT (R367): A PRINT call appends one text record to a host ring. -/
  | printCall (k : CallRef) (ring : DWord) (len : DWord) (text : List Byte)
  /-- NOTIFY (R367): A NOTIFY call writes a word at SYS and sends a SIGNAL notice. -/
  | notifyCall (k : CallRef) (addr : DWord) (v : DWord)
  /-- STATUS (R366): A STATUS call reports the journal state of a (capability, CALLNO) key. -/
  | statusCall (k : CallRef) (callno : DWord) (cap : DWord)
  /-- BUNDLE_ISSUE (R32): One issue of a bundle: every slot reads its registers, then named and re-issued operations act and the L-slot transfer takes effect. -/
  | bundleIssue (c : CoreNo)
  /-- TIMING_RESTART (R67): Once pending writes have arrived, the core restores the restart snapshot, posts a TIMING event and re-issues interlocked. -/
  | timingRestart (c : CoreNo)
  /-- RESULT_ARRIVAL (R65): A pending register result arrives and releases hazards that wait on it. -/
  | resultArrival (c : CoreNo)
  /-- TRAP_DELIVERY (R272): A precise or pending trap is delivered: the record is written and copied to the bench, state is saved and issue goes to the handler. -/
  | trapDelivery (c : CoreNo)
  /-- TRAP_RECORD_WRITE (R269): A source writes a record to the trap ring once a slot is free, performs it at SYS and advances PROD. -/
  | trapRecordWrite (src : Source)
  /-- CONTAINMENT (R277): An uncorrectable error in a core's private state stops the core and its engines and discards its store buffer. -/
  | containment (c : CoreNo) (mem : BitVec 3)
  /-- CONTAINMENT_WAIT_TIMEOUT (R277): A core held in one wait for 10 ms after a containment is stopped by the Foreman. -/
  | containmentWaitTimeout (c : CoreNo)
  /-- HWAIT_RELEASE (R85): The handle or ring condition of a held HWAIT holds and its bundle issues. -/
  | hwaitRelease (c : CoreNo)
  /-- BARRIER_RELEASE (R86): Every participant has arrived and their quanta have committed, so the held BAR bundles issue. -/
  | barrierRelease (cl : ClusterNo) (b : BitVec 3)
  /-- WAITV_POLL (R87): A poll of WAITV ends the quantum and reads the yard word, releasing the bundle when the condition holds. -/
  | waitvPoll (c : CoreNo)
  /-- DRAIN_HOLD_END (R238): The commit and far writes a DRAIN waits for are done, so the next bundle issues. -/
  | drainHoldEnd (c : CoreNo)
  /-- MWAIT_RELEASE (R172): The matrix engine's queue is empty and all accepted work complete, so MWAIT releases. -/
  | mwaitRelease (c : CoreNo)
  /-- SPRINT_ANSWER (R301): The hub's answer to SPRINT or SPRINTX reaches the core, s[sd] is written and the held bundle issues. -/
  | sprintAnswer (c : CoreNo)
  /-- QUANTUM_COMMIT (R229): Cluster quantum k commits, applying buffered yard stores in core order. -/
  | quantumCommit (cl : ClusterNo)
  /-- LOFT_REFRESH (R216): A loft bank's 1 µs refresh slot in the 64 µs cycle begins or ends. -/
  | loftRefresh (die : DieNo)
  /-- MATRIX_OPERATION_START (R153): The next queued matrix or rule operation starts in the engine. -/
  | matrixOperationStart (c : CoreNo)
  /-- LATCH_LOAD_COMPLETE (R158): A latch load started by ULATCH or MLATCH completes. -/
  | latchLoadComplete (c : CoreNo) (e : BitVec 2)
  /-- MAXRED_EXPIRY (R169): With a pre-emption request pending, the count passes MAXRED and the engine accepts no further operation. -/
  | maxredExpiry (c : CoreNo)
  /-- COPY_COMMAND_START (R189): A copy engine starts walking the next command of its queue. -/
  | copyCommandStart (c : CoreNo) (eng : BitVec 1)
  /-- FILL_COMPLETE (R182): Every byte of a fill has landed and the handle flips to FULL. -/
  | fillComplete (c : CoreNo) (h : BitVec 6)
  /-- HANDLE_DRAIN_COMPLETE (R193): Every write of an outbound command is performed, and the handle goes DRAINING to FREE. -/
  | handleDrainComplete (c : CoreNo) (h : BitVec 6)
  /-- SEND_DELIVERY (R203): A SEND reaches its receiver, waits for a free destination, fills it or is refused. -/
  | sendDelivery (c : CoreNo) (eng : BitVec 1)
  /-- SACC_ROUND (R208): Round k of the scatter-accumulate engine runs packets from each core in order after commit k. -/
  | saccRound (cl : ClusterNo)
  /-- COLL_SEGMENT_COMPLETE (R209): All participants' segments are gathered and the folded result is delivered to every hD. -/
  | collSegmentComplete (group : Word) (seg : Word)
  /-- CHETIA_FLIT (R285): A link receiver takes a 64-byte flit, discarding any already delivered sequence number. -/
  | chetiaFlit (port : BitVec 4) (seq : Nat) (payload : BitVec 512)
  /-- HOST_HBM_ACCESS (R222): A host reaches HBM as CXL host-managed device memory with back-invalidation. -/
  | hostHbmAccess (pa : DWord) (wr : Option (List Byte))
  /-- INVAL (R225): A write to INVAL queues one invalidation, or is dropped and sets DROP. -/
  | inval (p : Port) (v : DWord)
  /-- INVALIDATION_COMPLETE (R225): An invalidation completes once caches have dropped matching entries and their accesses are performed, and DONE increments. -/
  | invalidationComplete
  /-- STAT_RECORD_DRAIN (R288): With DRN = 1, in a cycle with no S-slot operation, the oldest statistics record moves to the HBM ring. -/
  | statRecordDrain (c : CoreNo)
  /-- STATISTICS_WINDOW (R290): A statistics window of LEN cc ends and every threshold sum restarts at zero. -/
  | statisticsWindow (c : CoreNo)
  /-- SLICE_END (R336): A Foreman slice ends, and the Foreman reconsiders grants and pre-emptions. -/
  | sliceEnd
  /-- SAVE_COMPLETE (R279): Every core and yard of the crew is written to the save area, and the errand becomes PARKED. -/
  | saveComplete (r : RecNo)
  /-- LAUNCH_COMPLETE (R88): Every core of the crew has finished, so the launch completes and the crew is released. -/
  | launchComplete (r : RecNo)
  /-- CUT_REACHED (R283): Every core has stopped at the cut target with no engine work in flight. -/
  | cutReached (r : RecNo)
  /-- CUT_TIMEOUT (R283): A cut not reached within 100 ms fails, and the cores go on. -/
  | cutTimeout (r : RecNo)
  /-- LEASE_REQUEST_DECISION (R296): The hub lease arbiter decides a sprint request when it arrives. -/
  | leaseRequestDecision (c : CoreNo)
  /-- LEASE_EXPIRY (R303): A lease's time runs out, so the clock falls, XCNT counts, and LEASE_EXPIRY becomes pending where LXE = 1. -/
  | leaseExpiry (cl : ClusterNo)
  /-- MELT_SAMPLE (R302): A 100 µs melt sample updates MELT and may revoke leases or end refreeze. -/
  | meltSample (z : DieNo) (permil : BitVec 10)
  /-- CLOCK_STEP (R294): The cluster clock steps to a new target after the regulator reaches the required voltage. -/
  | clockStep (cl : ClusterNo)
  /-- DROOP_SAMPLE (R305): The droop monitor's per-cycle comparison raises the current-pressure level on a sag. -/
  | droopSample (cl : ClusterNo) (sag : BitVec 10)
  /-- PRESSURE_DECAY (R305): After 10 µs without a sag that called for it, the pressure level falls by one. -/
  | pressureDecay (cl : ClusterNo)
  /-- SENSITIVITY_WINDOW (R308): At the end of a 50 µs window the base clock may move one step by sensitivity. -/
  | sensitivityWindow (cl : ClusterNo)
  /-- TEMPERATURE_SAMPLE (R309): A 10 µs temperature sample may enter or leave throttling, subject to the dwell. -/
  | temperatureSample (cl : ClusterNo) (t : BitVec 12)
  /-- SLACK_WINDOW (R310): At the end of a 50 µs window a COLL cluster's slack cap moves one step. -/
  | slackWindow (cl : ClusterNo)
  /-- CORRECTED_MEMORY_ERROR (R312): A corrected memory error is counted against the cluster's limit. -/
  | correctedMemoryError (cl : ClusterNo)
  /-- HOST_LEASE_EXPIRY (R334): The active port's lease reaches zero, so the steward fails over to the standby port. -/
  | hostLeaseExpiry
  /-- RENEW (R334): Writing RENEW sets the port's host lease to 10 ms, or makes the first writing port active. -/
  | renew (p : Port)
  /-- STEWARD_LEASE_RENEW (R369): Every 500 µs the leading steward renews the steward lease for 2 ms. -/
  | stewardLeaseRenew
  /-- STEWARD_LEASE_EXPIRY (R369): At expiry an unrenewed leader stops its leader duties. -/
  | stewardLeaseExpiry
  /-- STEWARD_LEASE_TAKEOVER (R369): A follower at rank r tries to take the lease by atomic compare r × 100 µs after expiry. -/
  | stewardLeaseTakeover (rank : BitVec 3)
  /-- FITTER_JOB (R339): A Fitter engine takes a launch, forms the key, and uses a cached residual or fits the kernel. -/
  | fitterJob (e : BitVec 2)
  /-- FIT_BUDGET_EXPIRY (R348): The 2 ms fitting budget runs out and the kernel runs unspecialised with reason TIME. -/
  | fitBudgetExpiry (e : BitVec 2)
  /-- WAIT_POLL (R327): An unmet WAIT step rereads its word, at least every 2 µs and on each port write. -/
  | waitPoll (r : RecNo)
  /-- STEP_COMPLETION (R325): A step that took time completes, releasing barrier steps and fetch. -/
  | stepCompletion (r : RecNo) (idx : BitVec 20)
  /-- WICKET_ACCEPT (R363): A checked INVOKE call enters the wicket queue once there is room, and its reply handle becomes FILLING. -/
  | wicketAccept
  /-- CLERK_SWITCH (R368): CLERKSW GO verifies the new clerk image, drains calls, starts it and replays NOT_DONE entries. -/
  | clerkSwitch (p : Port) (cap : BitVec 3) (img : BitVec 40)
  /-- CLERK_SWITCH_FORCED (R368): CLERKSW GO with FORCE starts the verified new image at once and replays the journal. -/
  | clerkSwitchForced (p : Port) (cap : BitVec 3) (img : BitVec 40)
  /-- CLERK_SWITCH_TIMEOUT (R368): 10 ms after a switch began, the new clerk image starts whether calls have finished or not. -/
  | clerkSwitchTimeout (cap : BitVec 3)
  /-- PAGE_CACHE_READ_COMPLETE (R371): An NVMe read completes, the entry becomes VALID or ERROR, and held accesses replay or fault. -/
  | pageCacheReadComplete (idx : BitVec 40) (data : Option (List Byte))
  /-- DECODE_JOB_START (R372): A queued DECODE job reaches the head and starts on the lowest free decoder. -/
  | decodeJobStart
  /-- DECODE_TILE (R373): A decoder delivers one tile as a fill of the ring handle at P; `tile` is its number among the job's, from 0. -/
  | decodeTile (d : BitVec 4) (tile : Nat)
  /-- DECODE_JOB_END (R374): A decode job ends and its reply gives frames delivered, frames poisoned and tiles; `unsupported`: at
a sequence header outside the decoder's support, else at the stream's end. -/
  | decodeJobEnd (d : BitVec 4) (unsupported : Bool)
  /-- PACKAGE_RESET (R409): PKGRST_N is asserted and the package resets as the reset table gives. -/
  | packageReset
  /-- RAIL_FAULT (R401): A rail leaves tolerance and the package resets as on PKGRST_N. -/
  | railFault
  /-- BOOT (R404): After PKGRST_N rises, images are verified and started, HBM is trained and READY is set; `hbm`: training and loft initialisation
succeed. -/
  | boot (hbm : Bool)
  /-- HOT_RESET (R409): A hot reset or FLR of one CXL port resets its notice registers and, on the active port, ends its lease. -/
  | hotReset (p : Port)
  /-- ATTEST_GO (R405): Writing GO to ATCTL starts an attestation report unless one is being made. -/
  | attestGo (p : Port)
  /-- ATTEST_REPORT_COMPLETE (R406): The doubly signed report is performed at SYS and BUSY falls. -/
  | attestReportComplete
  /-- FLUSH (R353): Writing FLUSH drops every Fitter cache entry for later lookups. -/
  | flush (p : Port)
  /-- FITKID (R353): Writing FITKID drops the cache entries with that KID. -/
  | fitkid (p : Port) (kid : DWord)
  /-- REGISTER_WRITE (R4): A write to a register with no behaviour of its own replaces or clears fields per its access codes. -/
  | registerWrite (p : Port) (off : BitVec 20) (v : DWord)
  /-- FITTING_COMPLETE (R339): A Fitter engine finishes fitting a kernel within its budget, stores the residual and the launch is handed to the Foreman. -/
  | fittingComplete (e : BitVec 2)
  /-- MATRIX_OPERATION_COMPLETE (R153): A running matrix or rule operation (or one RSTEP generation) completes, which is a retirement point and frees the engine. -/
  | matrixOperationComplete (c : CoreNo)
  /-- LINK_PEER_LOST (R210): A Chetia link peer is lost, aborting every collective segment that depends on it. -/
  | linkPeerLost (port : BitVec 4)
  /-- PROCESS_MONITOR_SAMPLE (R312): The cluster's ring-oscillator count is sampled each microsecond, setting the regulator voltage and fencing the cluster when it falls more than 8 % below its test value. -/
  | processMonitorSample (cl : ClusterNo) (count : BitVec 16)
  deriving DecidableEq, Repr

end Sys2Proof
end

