-- ==== Sys2Proof/WellFormed.lean ====
section
/-! DEFINITION. Which terms of `Instr` the spec gives an encoding with a meaning. `Instr.assigned` is R31: every field value is one the card
lists; `Instr.shaped` is R28, R29 and R30: no BT = 0b11, no W = 0b11, and no value in a field that
another field of the instruction makes reserved. `Instr.wf` is both. Events have no encoding; their
parameters are checked against the ranges the spec gives. -/

namespace Sys2Proof

/-- Element bits of a V-slot type or scalar format code (R29, R90); 0 for the block formats and beyond. -/
def formatBits (code : Nat) : Nat :=
  match code with
  | 0 => 32 | 1 => 16 | 2 => 16 | 3 => 32 | 4 => 16 | 5 => 8 | 6 => 32 | 7 => 8 | 8 => 8 | 9 => 8
  | 10 => 8 | 11 => 8 | 12 => 4 | 13 => 4 | 14 => 2 | 15 => 4
  | _ => 0

/-- Vector bits of a W field (R29). -/
def widthBits (w : BitVec 2) : Nat :=
  match w.toNat with
  | 0 => 256 | 1 => 512 | 2 => 1024 | _ => 0

/-- Lanes n := W / eb (R119). -/
def lanes (w : BitVec 2) (code : Nat) : Nat := widthBits w / formatBits code

def isFloatCode (code : Nat) : Bool := code == 0 || code == 1 || code == 2 || code == 8 || code == 9
/-- Integer element types of the V slots: i32, i16, i8, n32, n8. -/
def isIntType (y : Nat) : Bool := 3 ≤ y && y ≤ 7

/-- R71: SBF 6 and 7 are unassigned, and so is an sb beyond its file. -/
def fileOk (f : BitVec 3) (b : BitVec 5) : Bool :=
  match f.toNat with
  | 0 => true
  | 1 => b.toNat < 6
  | 2 => b.toNat < 8
  | 3 => b.toNat < 8
  | 4 => true
  | 5 => true
  | _ => false

/-- R104, R123: RMO 5 to 7 are unassigned. -/
def rmoOk (r : BitVec 3) : Bool := r.toNat ≤ 4

/-- R124: the ARITH word on type `y`; a rounding mode is unassigned on integer types. -/
def arithOk (y : BitVec 3) (x : ArithX) : Bool :=
  rmoOk x.rmo && !(isIntType y.toNat && x.rmo.toNat != 0)

/-- R143, R144: the (A, B) pairs the array accepts. -/
def pairOk (a b : Nat) : Bool :=
  (a == 1 && b == 1) || (a == 2 && b == 2)
    || ((a == 8 || a == 9) && (b == 8 || b == 9))
    || ((a == 5 || a == 7) && b == 5)
    || ((a == 10 || a == 11) && (b == 10 || b == 11))
    || (a == 12 && b == 12)
    || ((a == 1 || a == 8 || a == 9) && b == 13)

/-- R144: C is a format code from 0 to 9. -/
def resultOk (c : Nat) : Bool := c ≤ 9

/-- R106: the legal pairs of VCVTB, with the fields H and RMO the pair admits. -/
def blockPairOk (x : CvtBX) : Bool :=
  let s := x.src.toNat
  let d := x.dst.toNat
  let mx := fun n => n == 10 || n == 11 || n == 12
  let fl := fun n => n == 0 || n == 1
  let gq := s == 13 || d == 13
  ((fl s && (mx d || d == 13)) || ((mx s || s == 13) && fl d))
    && rmoOk x.rmo
    && (!gq || x.rmo.toNat == 0)
    && (x.h.toNat == 0 || (s == 0 && d == 13) || (s == 13 && d == 0))

/-- R111: narrow integer destinations of VPACK and sources of VUNPK. -/
def packCode (c : Nat) : Bool := c == 4 || c == 5 || c == 7 || c == 14 || c == 15

def packOk (y : BitVec 3) (dst : BitVec 5) (sh : BitVec 5) : Bool :=
  isIntType y.toNat && packCode dst.toNat && formatBits dst.toNat < formatBits y.toNat
    && sh.toNat < formatBits y.toNat

def unpackOk (y : BitVec 3) (src : BitVec 5) : Bool :=
  isIntType y.toNat && packCode src.toNat && formatBits src.toNat < formatBits y.toNat

/-- R196: a ring number 8 to 63 where RG = 1 is unassigned. -/
def ringOk (g : BitVec 1) (h : BitVec 6) : Bool := g.toNat == 0 || h.toNat < 8

/-- R240: the interior fits between its first tile and the end of the store. -/
def gridFits (t w h cw : Nat) : Bool := w * h * cw ≤ (8 - t) * 2 ^ 19

def memTypeOk (y : BitVec 3) : Bool := y.toNat == 0 || y.toNat == 3 || y.toNat == 6

/-- R31 and the cards: every field value is one the card gives a meaning. -/
def Instr.assigned : Instr → Bool
  | .add o | .sub o | .mul o | .mulhs o | .mulhn o | .divs o | .divn o | .rems o | .remn o | .and o | .or o
  | .xor o | .andn o | .shl o | .shr o | .sar o | .ror o | .ceq o | .cne o | .clt o | .cltn o | .cle o | .clen o
  | .min o | .max o | .minn o | .maxn o => fileOk o.f o.b
  | .loop _ c _ | .loopr _ c _ => c.toNat < 6
  | .hwait _ g _ h => ringOk g h
  | .waitv _ _ _ c z => c.toNat < 6 && 2 ≤ z.toNat
  | .getr _ _ n => n.toNat < 32
  | .setr _ _ n => n.toNat < 32
  | .setn _ n _ => n.toNat < 6
  | .setb _ n _ | .setq _ n _ => n.toNat < 8
  | .drain _ w s => w.toNat == 0 || s.toNat == 0
  | .invoke _ _ c _ => c.toNat != 0
  | .sprint _ _ _ l => l.toNat != 0
  | .statpop _ d e => d.toNat != e.toNat || d.toNat == 0
  | .fmtset _ _ c f => f.toNat + (c.toNat + 1) ≤ 64
  | .vaddArith o x | .vsubArith o x | .vmulArith o x | .vfmaArith o x | .vfmsArith o x => arithOk o.y x
  | .vraddArith o x => arithOk o.y x
  | .vabs o | .vneg o => o.y.toNat ≤ 5
  | .vabsArith o _ | .vnegArith o _ => o.y.toNat ≤ 5
  | .vshl o | .vshr o => isIntType o.y.toNat
  | .vsar o => 3 ≤ o.y.toNat && o.y.toNat ≤ 5
  | .vceq o | .vclt o | .vcle o => o.d.toNat != 0
  | .vcun o => o.d.toNat != 0 && o.y.toNat ≤ 2
  | .vcvt _ x => rmoOk x.rmo && x.src.toNat ≤ 9 && x.dst.toNat ≤ 9
  | .vcvtb _ x => blockPairOk x
  | .vpack o dst sh => packOk o.y dst sh
  | .vunpk o src => unpackOk o.y src
  | .vbcast o src l => src.toNat == 1 || l.toNat < lanes o.w o.y.toNat || o.w.toNat == 3
  | .vext _ y _ _ w l => l.toNat < lanes w y.toNat || w.toNat == 3
  | .vgath o _ | .vscat o _ => memTypeOk o.y
  | .vexp o | .vlog o | .vrcp o | .vrsq o | .vsin o | .vcos o | .vtanh o | .vlgst o => o.y.toNat != 3
  | .vexpAccurate o n | .vlogAccurate o n | .vrcpAccurate o n | .vrsqAccurate o n | .vsinAccurate o n
  | .vcosAccurate o n | .vtanhAccurate o n | .vlgstAccurate o n =>
    o.y.toNat != 3 && 8 ≤ n.toNat && n.toNat ≤ 32
  | .kand _ d _ _ | .kor _ d _ _ | .kxor _ d _ _ => d.toNat != 0
  | .knot _ d _ => d.toNat != 0
  | .kset _ d _ => d.toNat != 0
  | .mupld _ _ _ word cnt => word.toNat + (cnt.toNat + 1) ≤ 2048
  | .mfmt _ a b c _ _ => pairOk a.toNat b.toNat && resultOk c.toNat
  | .rtload _ _ f c => f.toNat * 64 + (c.toNat + 1) * 64 ≤ 4096
  | .rgrid _ x w h c _ =>
    gridFits x.toNat ((w.toNat + 1) * 128) (h.toNat + 1) (if c.toNat = 0 then 2 else 4)
  | .rmode _ n i _ x y _ _ => x.toNat != 3 && y.toNat != 3 && !(i.toNat == 0 && n.toNat == 1)
  | .copy _ g h _ _ _ | .copyo _ g h _ _ _ => ringOk g h
  | .gather _ g h _ _ _ | .scattr _ g h _ _ _ => ringOk g h
  | .fillh _ g h _ => ringOk g h
  | .ringdef _ f l _ _ => f.toNat + (l.toNat + 1) ≤ 64
  | .send _ g d _ _ => ringOk g d
  | .sacc _ _ _ _ o => o.toNat < 6
  | .tilef _ g h _ _ _ s => ringOk g h && s.toNat == 0
  | .ufmt src _ _ => src.toNat != 3
  | .wait _ _ cond _ _ _ _ _ => cond.toNat < 4
  | .launch _ _ _ desc ublock => desc.toNat % 64 == 0 && ublock.toNat % 8 == 0
  | .signal _ _ ad _ => ad.toNat % 8 == 0
  | .xfer _ _ _ len => 1 ≤ len.toNat && len.toNat ≤ 2 ^ 40
  | .loft _ _ bay _ off len => bay.toNat < 384 && off.toNat + len.toNat ≤ 2 ^ 20
  | .loftRel _ _ bay => bay.toNat < 384
  | .meltSample _ permil => permil.toNat ≤ 1000
  | .stewardLeaseTakeover rank => 1 ≤ rank.toNat && rank.toNat ≤ 4
  | .clerkSwitch _ cap _ | .clerkSwitchForced _ cap _ => cap.toNat != 0
  | .clerkSwitchTimeout cap => cap.toNat != 0
  | .containment _ mem => mem.toNat ≤ 4
  | .join _ ad _ => ad.toNat % 8 == 0 && ad.toNat < 2 ^ 57
  | _ => true

/-- BT = 0b11 is no binding-time mark (R28). -/
def btOk (bt : BitVec 2) : Bool := bt.toNat != 3
/-- W = 0b11 is no width (R29). -/
def wOk (w : BitVec 2) : Bool := w.toNat != 3

/-- R28, R29, R30: the mark and the width of a slot word, and the fields that another field makes reserved. -/
def Instr.shaped : Instr → Bool
  | .lnop bt | .br bt .. | .brz bt .. | .brnz bt .. | .brlt bt .. | .brge bt .. | .brq bt .. | .bri bt ..
  | .call bt .. | .ret bt .. | .loop bt .. | .loopr bt .. | .hwait bt .. | .bar bt .. | .waitv bt ..
  | .halt bt | .aret bt | .tret bt .. | .snop bt | .sel bt .. | .bfxv bt .. | .li bt .. | .liExt bt ..
  | .lih bt .. | .addr bt .. | .ldsx bt .. | .stsx bt .. | .getr bt .. | .setr bt ..
  | .getg bt .. | .geth bt .. | .setn bt .. | .setb bt .. | .setq bt .. | .drain bt .. | .invoke bt ..
  | .sprint bt .. | .sprintx bt .. | .trap bt .. | .statpop bt .. | .fmtset bt .. | .vnop bt | .vpatsw bt
  | .vpatld bt .. | .kand bt .. | .kor bt .. | .kxor bt .. | .knot bt .. | .kset bt .. | .mnop bt
  | .mcall bt .. | .msetp bt .. | .mlatch bt .. | .maccz bt .. | .mretire bt .. | .mupld bt ..
  | .mfmt bt .. | .mwait bt | .rtload bt .. | .rgrid bt .. | .rgridOff bt
  | .rmode bt .. | .rstep bt .. | .rload bt .. | .rstore bt .. | .rhalox bt ..
  | .rhaloi bt .. | .rcensus bt .. | .cnop bt | .copy bt .. | .copyo bt .. | .gather bt ..
  | .scattr bt .. | .fillh bt .. | .advp bt .. | .advc bt .. | .flip bt .. | .ringdef bt ..
  | .harm bt .. | .harmOff bt .. | .send bt .. | .sacc bt .. | .coll bt .. | .hpois bt ..
  | .tilef bt .. => btOk bt
  | .add o | .sub o | .mul o | .mulhs o | .mulhn o | .divs o | .divn o | .rems o | .remn o | .and o | .or o
  | .xor o | .andn o | .shl o | .shr o | .sar o | .ror o | .ceq o | .cne o | .clt o | .cltn o | .cle o | .clen o
  | .min o | .max o | .minn o | .maxn o => btOk o.bt
  | .addi o | .andi o | .ori o | .xori o | .ceqi o | .clti o | .lds o | .sts o => btOk o.bt
  | .shli o | .shri o | .sari o | .rori o => btOk o.bt
  | .clz o | .ctz o | .popc o => btOk o.bt
  | .bfx o | .bfxs o | .bfi o => btOk o.bt
  | .vadd o | .vsub o | .vmul o | .vfma o | .vfms o | .vmin o | .vmax o | .vclamp o | .vand o | .vor o | .vxor o
  | .vshl o | .vshr o | .vsar o | .vsel o => btOk o.bt && wOk o.w
  | .vaddArith o _ | .vsubArith o _ | .vmulArith o _ | .vfmaArith o _ | .vfmsArith o _ => btOk o.bt && wOk o.w
  | .vabs o | .vneg o | .vradd o | .vrmax o | .vrmin o | .vmov o => btOk o.bt && wOk o.w
  | .vidx bt _ _ w _ => btOk bt && wOk w
  | .vabsArith o _ | .vnegArith o _ => btOk o.bt && wOk o.w
  | .vraddArith o _ => btOk o.bt && wOk o.w
  | .vceq o | .vclt o | .vcle o | .vcun o => btOk o.bt && wOk o.w
  | .vcvt o _ => btOk o.bt && wOk o.w
  | .vcvtb o _ => btOk o.bt
  | .vpack o _ _ => btOk o.bt && wOk o.w
  | .vunpk o _ => btOk o.bt && wOk o.w
  | .vshuf o _ => btOk o.bt && wOk o.w
  | .vbcast o src l => btOk o.bt && wOk o.w && (src.toNat == 0 || l.toNat == 0)
  | .vext bt _ _ _ w _ => btOk bt && wOk w
  | .vld o _ | .vst o _ => btOk o.bt && wOk o.w
  | .vlds o _ | .vsts o _ | .vgath o _ | .vscat o _ => btOk o.bt && wOk o.w
  | .vexp o | .vlog o | .vrcp o | .vrsq o | .vsin o | .vcos o | .vtanh o | .vlgst o => btOk o.bt && wOk o.w
  | .vexpAccurate o _ | .vlogAccurate o _ | .vrcpAccurate o _ | .vrsqAccurate o _ | .vsinAccurate o _
  | .vcosAccurate o _ | .vtanhAccurate o _ | .vlgstAccurate o _ => btOk o.bt && wOk o.w
  | .ulatch u => if u.tb.toNat == 0 then u.h.toNat == 0 && u.rel.toNat == 0 else u.mb.toNat == 0 && u.v.toNat == 0
  | .ustep u => (if u.ta.toNat == 0 then u.h.toNat == 0 && u.rel.toNat == 0 else u.ma.toNat == 0 && u.v.toNat == 0)
      && (u.pe.toNat == 1 || u.mp.toNat == 0)
  | .ufmt src af bf => src.toNat == 2 || (af.toNat == 0 && bf.toNat == 0)
  | .wait _ kind _ _ step ad value mask =>
    if kind.toNat == 0 then step.toNat == 0 else ad.toNat == 0 && value.toNat == 0 && mask.toNat == 0
  | _ => true

/-- A well-formed instruction: the spec gives it an encoding and a meaning. -/
def Instr.wf (i : Instr) : Bool := i.assigned && i.shaped

end Sys2Proof
end

