-- ==== Sys2Proof/Decode.lean ====
section
/-! DEFINITION. Decoding: headers (R23, R26), slot words with their extension words (R28 to R31, R50 to R55),
micro-ops (R156), errand steps (R56, R324), port writes (R57, R317, R320), BAR 0 writes with an event of their own and
argument blocks (R362); and the encoder, written from the same tables. Every decoder is total and refuses by name:
`unassigned` is R31 and R55, `reserved` is R28 and R30. -/

namespace Sys2Proof

/-- Bits lo + n - 1 : lo of a number. -/
def fld {n : Nat} (w lo : Nat) : BitVec n := BitVec.ofNat n (w / 2 ^ lo)

/-- A field in its place. -/
def put {n : Nat} (v : BitVec n) (lo : Nat) : Nat := v.toNat * 2 ^ lo

/-- The sum of the fields of a word and of its fixed bits. -/
def word (base : Nat) (fs : List Nat) : Option Nat := some (fs.foldl (· + ·) base)

/-- A reserved field is zero (R30). -/
def zero (w lo n : Nat) : Bool := w / 2 ^ lo % 2 ^ n == 0

/-- An instruction as its fields give it, with whether its reserved bits are zero and its X bit is right (R30). -/
structure Form where
  instr : Instr
  clear : Bool
  deriving DecidableEq, Repr

/-- What decoding answers: the instruction; a reserved bit, a wrong X bit, BT or W of 0b11 (`reserved`, R28 to R30); an
opcode or a field value without a meaning (`unassigned`, R31, R55). -/
inductive Decoded where
  | ok (i : Instr)
  | reserved
  | unassigned
  deriving DecidableEq, Repr

/-- R42, R46: an unassigned encoding goes before a reserved bit. -/
def formResult : Option Form → Decoded
  | none => .unassigned
  | some f => if !f.instr.assigned then .unassigned else if f.clear && f.instr.shaped then .ok f.instr else .reserved

/-- R50, R81, R275: the L-slot word `w`. `none`: an unassigned opcode. -/
def decodeLForm (w : Nat) (x : Option Nat) : Option Form :=
  match w / 2 ^ 23 % 64 with
  | 0 => some ⟨.lnop (fld w 29), zero w 0 23 && x.isNone⟩
  | 1 => some ⟨.br (fld w 29) (fld w 0), zero w 18 5 && x.isNone⟩
  | 2 => some ⟨.brz (fld w 29) (fld w 18) (fld w 0), x.isNone⟩
  | 3 => some ⟨.brnz (fld w 29) (fld w 18) (fld w 0), x.isNone⟩
  | 4 => some ⟨.brlt (fld w 29) (fld w 18) (fld w 0), x.isNone⟩
  | 5 => some ⟨.brge (fld w 29) (fld w 18) (fld w 0), x.isNone⟩
  | 6 => some ⟨.brq (fld w 29) (fld w 20) (fld w 19) (fld w 0), zero w 18 1 && x.isNone⟩
  | 7 => some ⟨.bri (fld w 29) (fld w 18), zero w 0 18 && x.isNone⟩
  | 8 => some ⟨.call (fld w 29) (fld w 18) (fld w 0), x.isNone⟩
  | 9 => some ⟨.ret (fld w 29) (fld w 18), zero w 0 18 && x.isNone⟩
  | 10 => some ⟨.loop (fld w 29) (fld w 20) (fld w 0), zero w 18 2 && x.isNone⟩
  | 11 => some ⟨.loopr (fld w 29) (fld w 20) (fld w 0), zero w 18 2 && x.isNone⟩
  | 12 => some ⟨.hwait (fld w 29) (fld w 22) (fld w 21) (fld w 15), zero w 0 15 && x.isNone⟩
  | 13 => some ⟨.bar (fld w 29) (fld w 20), zero w 0 20 && x.isNone⟩
  | 14 => some ⟨.waitv (fld w 29) (fld w 18) (fld w 13) (fld w 10) (fld w 8), zero w 0 8 && x.isNone⟩
  | 15 => some ⟨.halt (fld w 29), zero w 0 23 && x.isNone⟩
  | 16 => some ⟨.aret (fld w 29), zero w 0 23 && x.isNone⟩
  | 17 => some ⟨.tret (fld w 29) (fld w 22), zero w 0 22 && x.isNone⟩
  | _ => none

/-- R51, R70 to R80 and the cards: the S-slot word `w` with extension `x`. `none`: an unassigned opcode. -/
def decodeSForm (w : Nat) (x : Option Nat) : Option Form :=
  match w / 2 ^ 22 % 128 with
  | 0 => some ⟨.snop (fld w 29), zero w 0 22 && x.isNone⟩
  | 1 => some ⟨.add ⟨fld w 29, fld w 17, fld w 12, fld w 7, fld w 0⟩, zero w 3 4 && x.isNone⟩
  | 2 => some ⟨.sub ⟨fld w 29, fld w 17, fld w 12, fld w 7, fld w 0⟩, zero w 3 4 && x.isNone⟩
  | 3 => some ⟨.addi ⟨fld w 29, fld w 17, fld w 12, fld w 0⟩, x.isNone⟩
  | 4 => some ⟨.mul ⟨fld w 29, fld w 17, fld w 12, fld w 7, fld w 0⟩, zero w 3 4 && x.isNone⟩
  | 5 => some ⟨.mulhs ⟨fld w 29, fld w 17, fld w 12, fld w 7, fld w 0⟩, zero w 3 4 && x.isNone⟩
  | 6 => some ⟨.mulhn ⟨fld w 29, fld w 17, fld w 12, fld w 7, fld w 0⟩, zero w 3 4 && x.isNone⟩
  | 7 => some ⟨.divs ⟨fld w 29, fld w 17, fld w 12, fld w 7, fld w 0⟩, zero w 3 4 && x.isNone⟩
  | 8 => some ⟨.divn ⟨fld w 29, fld w 17, fld w 12, fld w 7, fld w 0⟩, zero w 3 4 && x.isNone⟩
  | 9 => some ⟨.rems ⟨fld w 29, fld w 17, fld w 12, fld w 7, fld w 0⟩, zero w 3 4 && x.isNone⟩
  | 10 => some ⟨.remn ⟨fld w 29, fld w 17, fld w 12, fld w 7, fld w 0⟩, zero w 3 4 && x.isNone⟩
  | 11 => some ⟨.and ⟨fld w 29, fld w 17, fld w 12, fld w 7, fld w 0⟩, zero w 3 4 && x.isNone⟩
  | 12 => some ⟨.or ⟨fld w 29, fld w 17, fld w 12, fld w 7, fld w 0⟩, zero w 3 4 && x.isNone⟩
  | 13 => some ⟨.xor ⟨fld w 29, fld w 17, fld w 12, fld w 7, fld w 0⟩, zero w 3 4 && x.isNone⟩
  | 14 => some ⟨.andn ⟨fld w 29, fld w 17, fld w 12, fld w 7, fld w 0⟩, zero w 3 4 && x.isNone⟩
  | 15 => some ⟨.andi ⟨fld w 29, fld w 17, fld w 12, fld w 0⟩, x.isNone⟩
  | 16 => some ⟨.ori ⟨fld w 29, fld w 17, fld w 12, fld w 0⟩, x.isNone⟩
  | 17 => some ⟨.xori ⟨fld w 29, fld w 17, fld w 12, fld w 0⟩, x.isNone⟩
  | 18 => some ⟨.shl ⟨fld w 29, fld w 17, fld w 12, fld w 7, fld w 0⟩, zero w 3 4 && x.isNone⟩
  | 19 => some ⟨.shr ⟨fld w 29, fld w 17, fld w 12, fld w 7, fld w 0⟩, zero w 3 4 && x.isNone⟩
  | 20 => some ⟨.sar ⟨fld w 29, fld w 17, fld w 12, fld w 7, fld w 0⟩, zero w 3 4 && x.isNone⟩
  | 21 => some ⟨.shli ⟨fld w 29, fld w 17, fld w 12, fld w 0⟩, zero w 6 6 && x.isNone⟩
  | 22 => some ⟨.shri ⟨fld w 29, fld w 17, fld w 12, fld w 0⟩, zero w 6 6 && x.isNone⟩
  | 23 => some ⟨.sari ⟨fld w 29, fld w 17, fld w 12, fld w 0⟩, zero w 6 6 && x.isNone⟩
  | 24 => some ⟨.ror ⟨fld w 29, fld w 17, fld w 12, fld w 7, fld w 0⟩, zero w 3 4 && x.isNone⟩
  | 25 => some ⟨.rori ⟨fld w 29, fld w 17, fld w 12, fld w 0⟩, zero w 6 6 && x.isNone⟩
  | 26 => some ⟨.clz ⟨fld w 29, fld w 17, fld w 12⟩, zero w 0 12 && x.isNone⟩
  | 27 => some ⟨.ctz ⟨fld w 29, fld w 17, fld w 12⟩, zero w 0 12 && x.isNone⟩
  | 28 => some ⟨.popc ⟨fld w 29, fld w 17, fld w 12⟩, zero w 0 12 && x.isNone⟩
  | 29 => some ⟨.bfx ⟨fld w 29, fld w 17, fld w 12, fld w 6, fld w 0⟩, x.isNone⟩
  | 30 => some ⟨.bfxs ⟨fld w 29, fld w 17, fld w 12, fld w 6, fld w 0⟩, x.isNone⟩
  | 31 => some ⟨.bfi ⟨fld w 29, fld w 17, fld w 12, fld w 6, fld w 0⟩, x.isNone⟩
  | 32 => some ⟨.bfxv (fld w 29) (fld w 17) (fld w 12) (fld w 7) (fld w 0), zero w 1 6 && x.isNone⟩
  | 33 => some ⟨.ceq ⟨fld w 29, fld w 17, fld w 12, fld w 7, fld w 0⟩, zero w 3 4 && x.isNone⟩
  | 34 => some ⟨.cne ⟨fld w 29, fld w 17, fld w 12, fld w 7, fld w 0⟩, zero w 3 4 && x.isNone⟩
  | 35 => some ⟨.clt ⟨fld w 29, fld w 17, fld w 12, fld w 7, fld w 0⟩, zero w 3 4 && x.isNone⟩
  | 36 => some ⟨.cltn ⟨fld w 29, fld w 17, fld w 12, fld w 7, fld w 0⟩, zero w 3 4 && x.isNone⟩
  | 37 => some ⟨.cle ⟨fld w 29, fld w 17, fld w 12, fld w 7, fld w 0⟩, zero w 3 4 && x.isNone⟩
  | 38 => some ⟨.clen ⟨fld w 29, fld w 17, fld w 12, fld w 7, fld w 0⟩, zero w 3 4 && x.isNone⟩
  | 39 => some ⟨.ceqi ⟨fld w 29, fld w 17, fld w 12, fld w 0⟩, x.isNone⟩
  | 40 => some ⟨.clti ⟨fld w 29, fld w 17, fld w 12, fld w 0⟩, x.isNone⟩
  | 41 => some ⟨.sel (fld w 29) (fld w 17) (fld w 12) (fld w 7) (fld w 0), zero w 3 4 && x.isNone⟩
  | 42 => some ⟨.min ⟨fld w 29, fld w 17, fld w 12, fld w 7, fld w 0⟩, zero w 3 4 && x.isNone⟩
  | 43 => some ⟨.max ⟨fld w 29, fld w 17, fld w 12, fld w 7, fld w 0⟩, zero w 3 4 && x.isNone⟩
  | 44 => some ⟨.minn ⟨fld w 29, fld w 17, fld w 12, fld w 7, fld w 0⟩, zero w 3 4 && x.isNone⟩
  | 45 => some ⟨.maxn ⟨fld w 29, fld w 17, fld w 12, fld w 7, fld w 0⟩, zero w 3 4 && x.isNone⟩
  | 46 =>
    if x.isNone then some ⟨.li (fld w 29) (fld w 17) (fld w 0), zero w 12 5 && x.isNone⟩
    else some ⟨.liExt (fld w 29) (fld w 17) (fld (x.getD 0) 0), zero w 0 17 && x.isSome⟩
  | 47 => some ⟨.lih (fld w 29) (fld w 17) (fld w 12) (fld (x.getD 0) 0), zero w 0 12 && x.isSome⟩
  | 48 => some ⟨.addr (fld w 29) (fld w 17) (fld w 12) (fld w 7) (fld w 3) (fld w 0), zero w 5 2 && x.isNone⟩
  | 49 => some ⟨.lds ⟨fld w 29, fld w 17, fld w 12, fld w 0⟩, x.isNone⟩
  | 50 => some ⟨.sts ⟨fld w 29, fld w 17, fld w 12, fld w 0⟩, x.isNone⟩
  | 51 => some ⟨.ldsx (fld w 29) (fld w 17) (fld w 12) (fld w 7) (fld w 3) (fld w 2) (fld w 0), zero w 5 2 && x.isNone⟩
  | 52 => some ⟨.stsx (fld w 29) (fld w 17) (fld w 12) (fld w 7) (fld w 3) (fld w 0), zero w 5 2 && zero w 2 1 && x.isNone⟩
  | 53 => some ⟨.getr (fld w 29) (fld w 17) (fld w 0), zero w 6 6 && zero w 12 5 && x.isNone⟩
  | 54 => some ⟨.setr (fld w 29) (fld w 12) (fld w 0), zero w 6 6 && zero w 17 5 && x.isNone⟩
  | 55 => some ⟨.getg (fld w 29) (fld w 17) (fld w 0), zero w 6 6 && zero w 12 5 && x.isNone⟩
  | 56 => some ⟨.geth (fld w 29) (fld w 17) (fld w 0), zero w 6 6 && zero w 12 5 && x.isNone⟩
  | 57 => some ⟨.setn (fld w 29) (fld w 17) (fld w 12), zero w 0 12 && x.isNone⟩
  | 58 => some ⟨.setb (fld w 29) (fld w 17) (fld w 12), zero w 0 12 && x.isNone⟩
  | 59 => some ⟨.setq (fld w 29) (fld w 17) (fld w 12), zero w 0 12 && x.isNone⟩
  | 60 => some ⟨.drain (fld w 29) (fld w 2) (fld w 0), zero w 3 19 && x.isNone⟩
  | 61 => some ⟨.invoke (fld w 29) (fld w 12) (fld w 6) (fld w 0), zero w 17 5 && zero w 9 3 && x.isNone⟩
  | 62 => some ⟨.sprint (fld w 29) (fld w 17) (fld w 12) (fld w 0), zero w 2 10 && x.isNone⟩
  | 63 => some ⟨.sprintx (fld w 29) (fld w 17), zero w 0 17 && x.isNone⟩
  | 64 => some ⟨.trap (fld w 29) (fld w 12) (fld w 0), zero w 17 5 && x.isNone⟩
  | 65 => some ⟨.statpop (fld w 29) (fld w 17) (fld w 0), zero w 5 12 && x.isNone⟩
  | 66 => some ⟨.fmtset (fld w 29) (fld w 12) (fld w 6) (fld w 0), zero w 17 5 && x.isNone⟩
  | _ => none

/-- R52, R104 to R111, R119 to R142: the V-slot word `w` with extension `x`. `none`: an unassigned opcode. -/
def decodeVForm (w : Nat) (x : Option Nat) : Option Form :=
  match w / 2 ^ 23 % 64 with
  | 0 => some ⟨.vnop (fld w 29), zero w 0 23 && x.isNone⟩
  | 1 =>
    if x.isNone then some ⟨.vadd ⟨fld w 29, fld w 20, fld w 15, fld w 10, fld w 5, fld w 3, fld w 0⟩, x.isNone⟩
    else some ⟨.vaddArith ⟨fld w 29, fld w 20, fld w 15, fld w 10, fld w 5, fld w 3, fld w 0⟩ ⟨fld (x.getD 0) 1, fld (x.getD 0) 0⟩, x.isSome && zero (x.getD 0) 4 28⟩
  | 2 =>
    if x.isNone then some ⟨.vsub ⟨fld w 29, fld w 20, fld w 15, fld w 10, fld w 5, fld w 3, fld w 0⟩, x.isNone⟩
    else some ⟨.vsubArith ⟨fld w 29, fld w 20, fld w 15, fld w 10, fld w 5, fld w 3, fld w 0⟩ ⟨fld (x.getD 0) 1, fld (x.getD 0) 0⟩, x.isSome && zero (x.getD 0) 4 28⟩
  | 3 =>
    if x.isNone then some ⟨.vmul ⟨fld w 29, fld w 20, fld w 15, fld w 10, fld w 5, fld w 3, fld w 0⟩, x.isNone⟩
    else some ⟨.vmulArith ⟨fld w 29, fld w 20, fld w 15, fld w 10, fld w 5, fld w 3, fld w 0⟩ ⟨fld (x.getD 0) 1, fld (x.getD 0) 0⟩, x.isSome && zero (x.getD 0) 4 28⟩
  | 4 =>
    if x.isNone then some ⟨.vfma ⟨fld w 29, fld w 20, fld w 15, fld w 10, fld w 5, fld w 3, fld w 0⟩, x.isNone⟩
    else some ⟨.vfmaArith ⟨fld w 29, fld w 20, fld w 15, fld w 10, fld w 5, fld w 3, fld w 0⟩ ⟨fld (x.getD 0) 1, fld (x.getD 0) 0⟩, x.isSome && zero (x.getD 0) 4 28⟩
  | 5 =>
    if x.isNone then some ⟨.vfms ⟨fld w 29, fld w 20, fld w 15, fld w 10, fld w 5, fld w 3, fld w 0⟩, x.isNone⟩
    else some ⟨.vfmsArith ⟨fld w 29, fld w 20, fld w 15, fld w 10, fld w 5, fld w 3, fld w 0⟩ ⟨fld (x.getD 0) 1, fld (x.getD 0) 0⟩, x.isSome && zero (x.getD 0) 4 28⟩
  | 6 => some ⟨.vmin ⟨fld w 29, fld w 20, fld w 15, fld w 10, fld w 5, fld w 3, fld w 0⟩, x.isNone⟩
  | 7 => some ⟨.vmax ⟨fld w 29, fld w 20, fld w 15, fld w 10, fld w 5, fld w 3, fld w 0⟩, x.isNone⟩
  | 8 =>
    if x.isNone then some ⟨.vabs ⟨fld w 29, fld w 20, fld w 15, fld w 10, fld w 3, fld w 0⟩, zero w 5 5 && x.isNone⟩
    else some ⟨.vabsArith ⟨fld w 29, fld w 20, fld w 15, fld w 10, fld w 3, fld w 0⟩ (fld (x.getD 0) 0), zero w 5 5 && x.isSome && zero (x.getD 0) 1 31⟩
  | 9 =>
    if x.isNone then some ⟨.vneg ⟨fld w 29, fld w 20, fld w 15, fld w 10, fld w 3, fld w 0⟩, zero w 5 5 && x.isNone⟩
    else some ⟨.vnegArith ⟨fld w 29, fld w 20, fld w 15, fld w 10, fld w 3, fld w 0⟩ (fld (x.getD 0) 0), zero w 5 5 && x.isSome && zero (x.getD 0) 1 31⟩
  | 10 => some ⟨.vclamp ⟨fld w 29, fld w 20, fld w 15, fld w 10, fld w 5, fld w 3, fld w 0⟩, x.isNone⟩
  | 11 => some ⟨.vand ⟨fld w 29, fld w 20, fld w 15, fld w 10, fld w 5, fld w 3, fld w 0⟩, x.isNone⟩
  | 12 => some ⟨.vor ⟨fld w 29, fld w 20, fld w 15, fld w 10, fld w 5, fld w 3, fld w 0⟩, x.isNone⟩
  | 13 => some ⟨.vxor ⟨fld w 29, fld w 20, fld w 15, fld w 10, fld w 5, fld w 3, fld w 0⟩, x.isNone⟩
  | 14 => some ⟨.vshl ⟨fld w 29, fld w 20, fld w 15, fld w 10, fld w 5, fld w 3, fld w 0⟩, x.isNone⟩
  | 15 => some ⟨.vshr ⟨fld w 29, fld w 20, fld w 15, fld w 10, fld w 5, fld w 3, fld w 0⟩, x.isNone⟩
  | 16 => some ⟨.vsar ⟨fld w 29, fld w 20, fld w 15, fld w 10, fld w 5, fld w 3, fld w 0⟩, x.isNone⟩
  | 17 => some ⟨.vceq ⟨fld w 29, fld w 20, fld w 15, fld w 10, fld w 5, fld w 3, fld w 0⟩, zero w 18 2 && x.isNone⟩
  | 18 => some ⟨.vclt ⟨fld w 29, fld w 20, fld w 15, fld w 10, fld w 5, fld w 3, fld w 0⟩, zero w 18 2 && x.isNone⟩
  | 19 => some ⟨.vcle ⟨fld w 29, fld w 20, fld w 15, fld w 10, fld w 5, fld w 3, fld w 0⟩, zero w 18 2 && x.isNone⟩
  | 20 => some ⟨.vcun ⟨fld w 29, fld w 20, fld w 15, fld w 10, fld w 5, fld w 3, fld w 0⟩, zero w 18 2 && x.isNone⟩
  | 21 => some ⟨.vsel ⟨fld w 29, fld w 20, fld w 15, fld w 10, fld w 5, fld w 3, fld w 0⟩, x.isNone⟩
  | 22 => some ⟨.vcvt ⟨fld w 29, fld w 15, fld w 10, fld w 3, fld w 0⟩ ⟨fld (x.getD 0) 11, fld (x.getD 0) 10, fld (x.getD 0) 5, fld (x.getD 0) 0⟩, zero w 20 3 && zero w 5 5 && x.isSome && zero (x.getD 0) 14 18⟩
  | 23 => if w % 8 != 0 || w / 2 ^ 3 % 4 != 2 then none else some ⟨.vcvtb ⟨fld w 29, fld w 15, fld w 10, fld w 5⟩ ⟨fld (x.getD 10) 13, fld (x.getD 10) 10, fld (x.getD 10) 5, fld (x.getD 10) 0⟩, zero w 20 3 && x.isSome && zero (x.getD 0) 14 18⟩
  | 24 => some ⟨.vpack ⟨fld w 29, fld w 20, fld w 15, fld w 10, fld w 3, fld w 0⟩ (fld (x.getD 14) 0) (fld (x.getD 14) 5), zero w 5 5 && x.isSome && zero (x.getD 0) 10 22⟩
  | 25 => some ⟨.vunpk ⟨fld w 29, fld w 20, fld w 15, fld w 10, fld w 3, fld w 0⟩ (fld (x.getD 14) 0), zero w 5 5 && x.isSome && zero (x.getD 0) 5 27⟩
  | 26 => some ⟨.vshuf ⟨fld w 29, fld w 20, fld w 15, fld w 10, fld w 5, fld w 3, fld w 0⟩ (fld (x.getD 0) 0), x.isSome && zero (x.getD 0) 6 26⟩
  | 27 => if w / 2 ^ 3 % 4 != 2 then none else some ⟨.vpatld (fld w 29) (fld w 10) (fld (x.getD 0) 0), zero w 20 3 && zero w 15 5 && zero w 5 5 && zero w 0 3 && x.isSome && zero (x.getD 0) 6 26⟩
  | 28 => some ⟨.vpatsw (fld w 29), zero w 0 23 && x.isNone⟩
  | 29 =>
    if x.isNone then some ⟨.vradd ⟨fld w 29, fld w 20, fld w 15, fld w 10, fld w 3, fld w 0⟩, zero w 5 5 && x.isNone⟩
    else some ⟨.vraddArith ⟨fld w 29, fld w 20, fld w 15, fld w 10, fld w 3, fld w 0⟩ ⟨fld (x.getD 0) 1, fld (x.getD 0) 0⟩, zero w 5 5 && x.isSome && zero (x.getD 0) 4 28⟩
  | 30 => some ⟨.vrmax ⟨fld w 29, fld w 20, fld w 15, fld w 10, fld w 3, fld w 0⟩, zero w 5 5 && x.isNone⟩
  | 31 => some ⟨.vrmin ⟨fld w 29, fld w 20, fld w 15, fld w 10, fld w 3, fld w 0⟩, zero w 5 5 && x.isNone⟩
  | 32 => some ⟨.vbcast ⟨fld w 29, fld w 20, fld w 15, fld w 10, fld w 3, fld w 0⟩ (fld (x.getD 0) 7) (fld (x.getD 0) 0), zero w 5 5 && x.isSome && zero (x.getD 0) 8 24⟩
  | 33 => some ⟨.vext (fld w 29) (fld w 20) (fld w 15) (fld w 10) (fld w 3) (fld (x.getD 0) 0), zero w 5 5 && zero w 0 3 && x.isSome && zero (x.getD 0) 7 25⟩
  | 34 => some ⟨.vidx (fld w 29) (fld w 20) (fld w 15) (fld w 3) (fld w 0), zero w 5 10 && x.isNone⟩
  | 35 => some ⟨.vld ⟨fld w 29, fld w 20, fld w 15, fld w 10, fld w 3, fld w 0⟩ ⟨fld (x.getD 0) 16, fld (x.getD 0) 0⟩, zero w 5 5 && x.isSome⟩
  | 36 => some ⟨.vst ⟨fld w 29, fld w 20, fld w 15, fld w 10, fld w 3, fld w 0⟩ ⟨fld (x.getD 0) 16, fld (x.getD 0) 0⟩, zero w 5 5 && x.isSome⟩
  | 37 => some ⟨.vlds ⟨fld w 29, fld w 20, fld w 15, fld w 10, fld w 5, fld w 3, fld w 0⟩ ⟨fld (x.getD 0) 16, fld (x.getD 0) 0⟩, x.isSome⟩
  | 38 => some ⟨.vsts ⟨fld w 29, fld w 20, fld w 15, fld w 10, fld w 5, fld w 3, fld w 0⟩ ⟨fld (x.getD 0) 16, fld (x.getD 0) 0⟩, x.isSome⟩
  | 39 => some ⟨.vgath ⟨fld w 29, fld w 20, fld w 15, fld w 10, fld w 5, fld w 3, fld w 0⟩ ⟨fld (x.getD 0) 16, fld (x.getD 0) 0⟩, x.isSome⟩
  | 40 => some ⟨.vscat ⟨fld w 29, fld w 20, fld w 15, fld w 10, fld w 5, fld w 3, fld w 0⟩ ⟨fld (x.getD 0) 16, fld (x.getD 0) 0⟩, x.isSome⟩
  | 41 =>
    if w / 2 ^ 22 % 2 == 0 then some ⟨.vexp ⟨fld w 29, fld w 20, fld w 15, fld w 10, fld w 3, fld w 0⟩, zero w 5 5 && x.isNone⟩
    else some ⟨.vexpAccurate ⟨fld w 29, fld w 20, fld w 15, fld w 10, fld w 3, fld w 0⟩ (fld (x.getD 8) 0), zero w 5 5 && x.isSome && zero (x.getD 0) 6 26⟩
  | 42 =>
    if w / 2 ^ 22 % 2 == 0 then some ⟨.vlog ⟨fld w 29, fld w 20, fld w 15, fld w 10, fld w 3, fld w 0⟩, zero w 5 5 && x.isNone⟩
    else some ⟨.vlogAccurate ⟨fld w 29, fld w 20, fld w 15, fld w 10, fld w 3, fld w 0⟩ (fld (x.getD 8) 0), zero w 5 5 && x.isSome && zero (x.getD 0) 6 26⟩
  | 43 =>
    if w / 2 ^ 22 % 2 == 0 then some ⟨.vrcp ⟨fld w 29, fld w 20, fld w 15, fld w 10, fld w 3, fld w 0⟩, zero w 5 5 && x.isNone⟩
    else some ⟨.vrcpAccurate ⟨fld w 29, fld w 20, fld w 15, fld w 10, fld w 3, fld w 0⟩ (fld (x.getD 8) 0), zero w 5 5 && x.isSome && zero (x.getD 0) 6 26⟩
  | 44 =>
    if w / 2 ^ 22 % 2 == 0 then some ⟨.vrsq ⟨fld w 29, fld w 20, fld w 15, fld w 10, fld w 3, fld w 0⟩, zero w 5 5 && x.isNone⟩
    else some ⟨.vrsqAccurate ⟨fld w 29, fld w 20, fld w 15, fld w 10, fld w 3, fld w 0⟩ (fld (x.getD 8) 0), zero w 5 5 && x.isSome && zero (x.getD 0) 6 26⟩
  | 45 =>
    if w / 2 ^ 22 % 2 == 0 then some ⟨.vsin ⟨fld w 29, fld w 20, fld w 15, fld w 10, fld w 3, fld w 0⟩, zero w 5 5 && x.isNone⟩
    else some ⟨.vsinAccurate ⟨fld w 29, fld w 20, fld w 15, fld w 10, fld w 3, fld w 0⟩ (fld (x.getD 8) 0), zero w 5 5 && x.isSome && zero (x.getD 0) 6 26⟩
  | 46 =>
    if w / 2 ^ 22 % 2 == 0 then some ⟨.vcos ⟨fld w 29, fld w 20, fld w 15, fld w 10, fld w 3, fld w 0⟩, zero w 5 5 && x.isNone⟩
    else some ⟨.vcosAccurate ⟨fld w 29, fld w 20, fld w 15, fld w 10, fld w 3, fld w 0⟩ (fld (x.getD 8) 0), zero w 5 5 && x.isSome && zero (x.getD 0) 6 26⟩
  | 47 =>
    if w / 2 ^ 22 % 2 == 0 then some ⟨.vtanh ⟨fld w 29, fld w 20, fld w 15, fld w 10, fld w 3, fld w 0⟩, zero w 5 5 && x.isNone⟩
    else some ⟨.vtanhAccurate ⟨fld w 29, fld w 20, fld w 15, fld w 10, fld w 3, fld w 0⟩ (fld (x.getD 8) 0), zero w 5 5 && x.isSome && zero (x.getD 0) 6 26⟩
  | 48 =>
    if w / 2 ^ 22 % 2 == 0 then some ⟨.vlgst ⟨fld w 29, fld w 20, fld w 15, fld w 10, fld w 3, fld w 0⟩, zero w 5 5 && x.isNone⟩
    else some ⟨.vlgstAccurate ⟨fld w 29, fld w 20, fld w 15, fld w 10, fld w 3, fld w 0⟩ (fld (x.getD 8) 0), zero w 5 5 && x.isSome && zero (x.getD 0) 6 26⟩
  | 49 => some ⟨.kand (fld w 29) (fld w 15) (fld w 10) (fld w 5), zero w 20 3 && zero w 18 2 && zero w 13 2 && zero w 8 2 && zero w 3 2 && zero w 0 3 && x.isNone⟩
  | 50 => some ⟨.kor (fld w 29) (fld w 15) (fld w 10) (fld w 5), zero w 20 3 && zero w 18 2 && zero w 13 2 && zero w 8 2 && zero w 3 2 && zero w 0 3 && x.isNone⟩
  | 51 => some ⟨.kxor (fld w 29) (fld w 15) (fld w 10) (fld w 5), zero w 20 3 && zero w 18 2 && zero w 13 2 && zero w 8 2 && zero w 3 2 && zero w 0 3 && x.isNone⟩
  | 52 => some ⟨.knot (fld w 29) (fld w 15) (fld w 10), zero w 20 3 && zero w 18 2 && zero w 13 2 && zero w 3 7 && zero w 0 3 && x.isNone⟩
  | 53 => some ⟨.kset (fld w 29) (fld w 15) (fld w 10), zero w 20 3 && zero w 18 2 && zero w 3 7 && zero w 0 3 && x.isNone⟩
  | 54 => some ⟨.vmov ⟨fld w 29, fld w 20, fld w 15, fld w 10, fld w 3, fld w 0⟩, zero w 5 5 && x.isNone⟩
  | _ => none

/-- R53, R171, R253: the M-slot word `w` with extension `x`. `none`: an unassigned opcode. -/
def decodeMForm (w : Nat) (x : Option Nat) : Option Form :=
  match w / 2 ^ 23 % 64 with
  | 0 => some ⟨.mnop (fld w 29), zero w 0 23 && x.isNone⟩
  | 1 => some ⟨.mcall (fld w 29) (fld w 15), zero w 0 15 && x.isNone⟩
  | 2 => some ⟨.msetp (fld w 29) (fld w 20) (fld w 15) (fld w 14), zero w 0 14 && x.isNone⟩
  | 3 => some ⟨.mlatch (fld w 29) (fld w 21) (fld w 18) (fld w 17) (fld w 7) (fld w 6), zero w 0 6 && x.isNone⟩
  | 4 => some ⟨.maccz (fld w 29) (fld w 20), zero w 0 20 && x.isNone⟩
  | 5 => some ⟨.mretire (fld w 29) (fld w 20) (fld w 15) (fld w 14) (fld w 13) (fld w 12), zero w 0 12 && x.isNone⟩
  | 6 => some ⟨.mupld (fld w 29) (fld w 15) (fld w 10) (fld (x.getD 0) 0) (fld (x.getD 0) 11), zero w 0 10 && x.isSome && zero (x.getD 0) 22 10⟩
  | 7 => some ⟨.mfmt (fld w 29) (fld w 18) (fld w 13) (fld w 8) (fld w 6) (fld w 5), zero w 0 5 && x.isNone⟩
  | 8 => some ⟨.mwait (fld w 29), zero w 0 23 && x.isNone⟩
  | 16 => some ⟨.rtload (fld w 29) (fld w 18) (fld w 12) (fld w 6), zero w 0 6 && x.isNone⟩
  | 17 =>
    if w / 2 ^ 22 % 2 == 0 then some ⟨.rgrid (fld w 29) (fld w 19) (fld w 15) (fld w 4) (fld w 3) (fld w 0), x.isNone⟩
    else some ⟨.rgridOff (fld w 29), zero w 0 22 && x.isNone⟩
  | 18 => some ⟨.rmode (fld w 29) (fld w 22) (fld w 21) (fld w 20) (fld w 18) (fld w 16) (fld w 14) (fld w 13), zero w 0 13 && x.isNone⟩
  | 19 => some ⟨.rstep (fld w 29) (fld w 18), zero w 0 18 && x.isNone⟩
  | 20 => some ⟨.rload (fld w 29) (fld w 20) (fld w 17) (fld w 16) (fld w 5), zero w 0 5 && x.isNone⟩
  | 21 => some ⟨.rstore (fld w 29) (fld w 20) (fld w 17) (fld w 16) (fld w 5), zero w 0 5 && x.isNone⟩
  | 22 => some ⟨.rhalox (fld w 29) (fld w 21) (fld w 16), zero w 0 16 && x.isNone⟩
  | 23 => some ⟨.rhaloi (fld w 29) (fld w 21) (fld w 16), zero w 0 16 && x.isNone⟩
  | 24 => some ⟨.rcensus (fld w 29) (fld w 18), zero w 0 18 && x.isNone⟩
  | _ => none

/-- R54, R196: the C-slot word `w`. `none`: an unassigned opcode. -/
def decodeCForm (w : Nat) (x : Option Nat) : Option Form :=
  match w / 2 ^ 23 % 64 with
  | 0 => some ⟨.cnop (fld w 29), zero w 0 23 && x.isNone⟩
  | 1 => some ⟨.copy (fld w 29) (fld w 22) (fld w 16) (fld w 11) (fld w 5) (fld w 2), zero w 6 5 && zero w 0 2 && x.isNone⟩
  | 2 => some ⟨.copyo (fld w 29) (fld w 22) (fld w 16) (fld w 11) (fld w 5) (fld w 2), zero w 6 5 && zero w 0 2 && x.isNone⟩
  | 3 => some ⟨.gather (fld w 29) (fld w 22) (fld w 16) (fld w 11) (fld w 6) (fld w 5), zero w 0 5 && x.isNone⟩
  | 4 => some ⟨.scattr (fld w 29) (fld w 22) (fld w 16) (fld w 11) (fld w 6) (fld w 5), zero w 0 5 && x.isNone⟩
  | 5 => some ⟨.fillh (fld w 29) (fld w 22) (fld w 16) (fld w 11), zero w 0 11 && x.isNone⟩
  | 6 => some ⟨.advp (fld w 29) (fld w 16), zero w 19 4 && zero w 0 16 && x.isNone⟩
  | 7 => some ⟨.advc (fld w 29) (fld w 16), zero w 19 4 && zero w 0 16 && x.isNone⟩
  | 8 => some ⟨.flip (fld w 29) (fld w 16), zero w 22 1 && zero w 0 16 && x.isNone⟩
  | 9 => some ⟨.ringdef (fld w 29) (fld w 16) (fld w 10) (fld w 7) (fld w 6), zero w 22 1 && zero w 0 6 && x.isNone⟩
  | 10 =>
    if w / 2 ^ 10 % 2 == 0 then some ⟨.harm (fld w 29) (fld w 16) (fld w 11), zero w 22 1 && zero w 0 10 && x.isNone⟩
    else some ⟨.harmOff (fld w 29) (fld w 16), zero w 22 1 && zero w 11 5 && zero w 0 10 && x.isNone⟩
  | 11 => some ⟨.send (fld w 29) (fld w 22) (fld w 16) (fld w 10) (fld w 5), zero w 0 5 && x.isNone⟩
  | 12 => some ⟨.sacc (fld w 29) (fld w 16) (fld w 10) (fld w 5) (fld w 2), zero w 22 1 && zero w 0 2 && x.isNone⟩
  | 13 => some ⟨.coll (fld w 29) (fld w 16) (fld w 10) (fld w 5), zero w 22 1 && zero w 0 5 && x.isNone⟩
  | 14 => some ⟨.hpois (fld w 29) (fld w 16) (fld w 15), zero w 22 1 && zero w 0 15 && x.isNone⟩
  | 15 => some ⟨.tilef (fld w 29) (fld w 22) (fld w 16) (fld w 11) (fld w 6) (fld w 5) (fld w 2), zero w 0 2 && x.isNone⟩
  | _ => none

/-- R156: the micro-op word `w`. `none`: an unassigned opcode. -/
def decodeUForm (w : Nat) : Option Form :=
  match w / 2 ^ 60 % 16 with
  | 0 => some ⟨.upass (fld w 52), zero w 0 52⟩
  | 1 => some ⟨.ulatch ⟨fld w 58, fld w 55, fld w 54, fld w 53, fld w 47, fld w 46, fld w 45, fld w 35⟩, zero w 0 35⟩
  | 2 => some ⟨.ustep ⟨fld w 57, fld w 56, fld w 55, fld w 49, fld w 47, fld w 44, fld w 43, fld w 42, fld w 32, fld w 25, fld w 22, fld w 21⟩, zero w 0 21⟩
  | 3 => some ⟨.uloop (fld w 58) (fld w 50) (fld w 39), zero w 0 39⟩
  | 4 => some ⟨.uacc (fld w 57) (fld w 54), zero w 0 54⟩
  | 5 => some ⟨.ufmt (fld w 58) (fld w 53) (fld w 48), zero w 0 48⟩
  | 6 => some ⟨.ufetch (fld w 54) (fld w 51) (fld w 50), zero w 0 50⟩
  | 7 => some ⟨.uwait (fld w 54), zero w 0 54⟩
  | 8 => some ⟨.urowp (fld w 57), zero w 0 57⟩
  | 9 => some ⟨.uend, zero w 0 60⟩
  | _ => none

/-- R56, R324: the step `w` of errand `r`. `none`: an unassigned opcode. -/
def decodeEForm (r : RecNo) (w : Nat) : Option Form :=
  let hd : StepHead := ⟨r, fld w 8⟩
  match w / 2 ^ 0 % 256 with
  | 0 => some ⟨.nop hd, zero w 9 247⟩
  | 1 => some ⟨.launch hd (fld w 9) (fld w 10) (fld w 64) (fld w 128), zero w 13 51 && zero w 192 64⟩
  | 2 => some ⟨.wait hd (fld w 16) (fld w 17) (fld w 20) (fld w 32) (fld w 64) (fld w 128) (fld w 192), zero w 9 7 && zero w 21 11 && zero w 52 12⟩
  | 3 => some ⟨.signal hd (fld w 9) (fld w 64) (fld w 128), zero w 10 54 && zero w 192 64⟩
  | 4 => some ⟨.xfer hd (fld w 64) (fld w 128) (fld w 192), zero w 9 55⟩
  | 5 =>
    if w / 2 ^ 16 % 2 == 0 then some ⟨.loft hd (fld w 24) (fld w 32) (fld w 64) (fld w 128) (fld w 160), zero w 9 7 && zero w 17 7 && zero w 26 6 && zero w 48 16 && zero w 192 64⟩
    else some ⟨.loftRel hd (fld w 24) (fld w 32), zero w 9 7 && zero w 17 7 && zero w 26 6 && zero w 48 208⟩
  | 6 => some ⟨.joinpt hd, zero w 9 247⟩
  | 7 => some ⟨.goto hd (fld w 32), zero w 9 23 && zero w 52 12 && zero w 64 192⟩
  | 8 => some ⟨.endStep hd, zero w 9 247⟩
  | _ => none

/-- R57, R317, R320: the port write `w` to page `r` through port `p`. `none`: an unassigned opcode. DESIGN CHOICE (notes/assumptions/52.md): a
write with code 0x3, which R57 gives to the read QUERY, is one. -/
def decodePForm (p : Port) (r : RecNo) (w : Nat) : Option Form :=
  let hd : PortWrite := ⟨p, r, fld w 16, fld w 64⟩
  match w / 2 ^ 0 % 16 with
  | 1 =>
    if w / 2 ^ 32 % 256 == 0 then some ⟨.start hd (fld w 128), zero w 4 12 && zero w 40 24 && zero w 192 320⟩ else
    none
  | 2 =>
    if w / 2 ^ 32 % 256 == 0 then some ⟨.join hd (fld w 128) (fld w 192), zero w 4 12 && zero w 40 24 && zero w 256 256⟩ else
    none
  | 4 =>
    if w / 2 ^ 32 % 256 == 0 then some ⟨.park hd, zero w 4 12 && zero w 40 24 && zero w 128 384⟩ else
    if w / 2 ^ 32 % 256 == 1 then some ⟨.parkCut hd, zero w 4 12 && zero w 40 24 && zero w 128 384⟩ else
    none
  | 5 =>
    if w / 2 ^ 32 % 256 == 0 then some ⟨.resume hd, zero w 4 12 && zero w 40 24 && zero w 128 384⟩ else
    none
  | 6 =>
    if w / 2 ^ 32 % 256 == 0 then some ⟨.kill hd, zero w 4 12 && zero w 40 24 && zero w 128 384⟩ else
    none
  | 7 =>
    if w / 2 ^ 32 % 256 == 0 then some ⟨.gangJoin hd (fld w 128), zero w 4 12 && zero w 40 24 && zero w 160 352⟩ else
    if w / 2 ^ 32 % 256 == 1 then some ⟨.gangLeave hd, zero w 4 12 && zero w 40 24 && zero w 128 384⟩ else
    if w / 2 ^ 32 % 256 == 2 then some ⟨.gangStop hd, zero w 4 12 && zero w 40 24 && zero w 128 384⟩ else
    if w / 2 ^ 32 % 256 == 3 then some ⟨.gangGo hd, zero w 4 12 && zero w 40 24 && zero w 128 384⟩ else
    none
  | 8 =>
    if w / 2 ^ 32 % 256 == 0 then some ⟨.home hd, zero w 4 12 && zero w 40 24 && zero w 128 384⟩ else
    if w / 2 ^ 32 % 256 == 1 then some ⟨.adopt hd, zero w 4 12 && zero w 40 24 && zero w 128 384⟩ else
    none
  | 9 =>
    if w / 2 ^ 32 % 256 == 0 then some ⟨.stewardRegister hd, zero w 4 12 && zero w 40 24 && zero w 128 384⟩ else
    if w / 2 ^ 32 % 256 == 1 then some ⟨.orphan hd, zero w 4 12 && zero w 40 24 && zero w 128 384⟩ else
    if w / 2 ^ 32 % 256 == 2 then some ⟨.stewardUnregister hd, zero w 4 12 && zero w 40 24 && zero w 128 384⟩ else
    none
  | 10 =>
    if w / 2 ^ 32 % 256 == 0 then some ⟨.ack hd (fld w 128) (fld w 136) (fld w 160), zero w 4 12 && zero w 40 24 && zero w 131 5 && zero w 152 8 && zero w 184 8 && zero w 192 320⟩ else
    none
  | _ => none

/-- The bits of an L-slot word, its first word lowest. -/
def encodeL : Instr → Option Nat
  | .lnop bt => word 0x0 [put bt 29]
  | .br bt o => word 0x800000 [put bt 29, put o 0]
  | .brz bt a o => word 0x1000000 [put bt 29, put a 18, put o 0]
  | .brnz bt a o => word 0x1800000 [put bt 29, put a 18, put o 0]
  | .brlt bt a o => word 0x2000000 [put bt 29, put a 18, put o 0]
  | .brge bt a o => word 0x2800000 [put bt 29, put a 18, put o 0]
  | .brq bt q n o => word 0x3000000 [put bt 29, put q 20, put n 19, put o 0]
  | .bri bt a => word 0x3800000 [put bt 29, put a 18]
  | .call bt d o => word 0x4000000 [put bt 29, put d 18, put o 0]
  | .ret bt a => word 0x4800000 [put bt 29, put a 18]
  | .loop bt c o => word 0x5000000 [put bt 29, put c 20, put o 0]
  | .loopr bt c o => word 0x5800000 [put bt 29, put c 20, put o 0]
  | .hwait bt g p h => word 0x6000000 [put bt 29, put g 22, put p 21, put h 15]
  | .bar bt b => word 0x6800000 [put bt 29, put b 20]
  | .waitv bt a b c z => word 0x7000000 [put bt 29, put a 18, put b 13, put c 10, put z 8]
  | .halt bt => word 0x7800000 [put bt 29]
  | .aret bt => word 0x8000000 [put bt 29]
  | .tret bt k => word 0x8800000 [put bt 29, put k 22]
  | _ => none

/-- The bits of an S-slot word with its extension word, its first word lowest. -/
def encodeS : Instr → Option Nat
  | .snop bt => word 0x0 [put bt 29]
  | .add i => word 0x400000 [put i.bt 29, put i.d 17, put i.a 12, put i.b 7, put i.f 0]
  | .sub i => word 0x800000 [put i.bt 29, put i.d 17, put i.a 12, put i.b 7, put i.f 0]
  | .addi i => word 0xc00000 [put i.bt 29, put i.d 17, put i.a 12, put i.i 0]
  | .mul i => word 0x1000000 [put i.bt 29, put i.d 17, put i.a 12, put i.b 7, put i.f 0]
  | .mulhs i => word 0x1400000 [put i.bt 29, put i.d 17, put i.a 12, put i.b 7, put i.f 0]
  | .mulhn i => word 0x1800000 [put i.bt 29, put i.d 17, put i.a 12, put i.b 7, put i.f 0]
  | .divs i => word 0x1c00000 [put i.bt 29, put i.d 17, put i.a 12, put i.b 7, put i.f 0]
  | .divn i => word 0x2000000 [put i.bt 29, put i.d 17, put i.a 12, put i.b 7, put i.f 0]
  | .rems i => word 0x2400000 [put i.bt 29, put i.d 17, put i.a 12, put i.b 7, put i.f 0]
  | .remn i => word 0x2800000 [put i.bt 29, put i.d 17, put i.a 12, put i.b 7, put i.f 0]
  | .and i => word 0x2c00000 [put i.bt 29, put i.d 17, put i.a 12, put i.b 7, put i.f 0]
  | .or i => word 0x3000000 [put i.bt 29, put i.d 17, put i.a 12, put i.b 7, put i.f 0]
  | .xor i => word 0x3400000 [put i.bt 29, put i.d 17, put i.a 12, put i.b 7, put i.f 0]
  | .andn i => word 0x3800000 [put i.bt 29, put i.d 17, put i.a 12, put i.b 7, put i.f 0]
  | .andi i => word 0x3c00000 [put i.bt 29, put i.d 17, put i.a 12, put i.i 0]
  | .ori i => word 0x4000000 [put i.bt 29, put i.d 17, put i.a 12, put i.i 0]
  | .xori i => word 0x4400000 [put i.bt 29, put i.d 17, put i.a 12, put i.i 0]
  | .shl i => word 0x4800000 [put i.bt 29, put i.d 17, put i.a 12, put i.b 7, put i.f 0]
  | .shr i => word 0x4c00000 [put i.bt 29, put i.d 17, put i.a 12, put i.b 7, put i.f 0]
  | .sar i => word 0x5000000 [put i.bt 29, put i.d 17, put i.a 12, put i.b 7, put i.f 0]
  | .shli i => word 0x5400000 [put i.bt 29, put i.d 17, put i.a 12, put i.i 0]
  | .shri i => word 0x5800000 [put i.bt 29, put i.d 17, put i.a 12, put i.i 0]
  | .sari i => word 0x5c00000 [put i.bt 29, put i.d 17, put i.a 12, put i.i 0]
  | .ror i => word 0x6000000 [put i.bt 29, put i.d 17, put i.a 12, put i.b 7, put i.f 0]
  | .rori i => word 0x6400000 [put i.bt 29, put i.d 17, put i.a 12, put i.i 0]
  | .clz i => word 0x6800000 [put i.bt 29, put i.d 17, put i.a 12]
  | .ctz i => word 0x6c00000 [put i.bt 29, put i.d 17, put i.a 12]
  | .popc i => word 0x7000000 [put i.bt 29, put i.d 17, put i.a 12]
  | .bfx i => word 0x7400000 [put i.bt 29, put i.d 17, put i.a 12, put i.l 6, put i.p 0]
  | .bfxs i => word 0x7800000 [put i.bt 29, put i.d 17, put i.a 12, put i.l 6, put i.p 0]
  | .bfi i => word 0x7c00000 [put i.bt 29, put i.d 17, put i.a 12, put i.l 6, put i.p 0]
  | .bfxv bt d a b x => word 0x8000000 [put bt 29, put d 17, put a 12, put b 7, put x 0]
  | .ceq i => word 0x8400000 [put i.bt 29, put i.d 17, put i.a 12, put i.b 7, put i.f 0]
  | .cne i => word 0x8800000 [put i.bt 29, put i.d 17, put i.a 12, put i.b 7, put i.f 0]
  | .clt i => word 0x8c00000 [put i.bt 29, put i.d 17, put i.a 12, put i.b 7, put i.f 0]
  | .cltn i => word 0x9000000 [put i.bt 29, put i.d 17, put i.a 12, put i.b 7, put i.f 0]
  | .cle i => word 0x9400000 [put i.bt 29, put i.d 17, put i.a 12, put i.b 7, put i.f 0]
  | .clen i => word 0x9800000 [put i.bt 29, put i.d 17, put i.a 12, put i.b 7, put i.f 0]
  | .ceqi i => word 0x9c00000 [put i.bt 29, put i.d 17, put i.a 12, put i.i 0]
  | .clti i => word 0xa000000 [put i.bt 29, put i.d 17, put i.a 12, put i.i 0]
  | .sel bt d a b q => word 0xa400000 [put bt 29, put d 17, put a 12, put b 7, put q 0]
  | .min i => word 0xa800000 [put i.bt 29, put i.d 17, put i.a 12, put i.b 7, put i.f 0]
  | .max i => word 0xac00000 [put i.bt 29, put i.d 17, put i.a 12, put i.b 7, put i.f 0]
  | .minn i => word 0xb000000 [put i.bt 29, put i.d 17, put i.a 12, put i.b 7, put i.f 0]
  | .maxn i => word 0xb400000 [put i.bt 29, put i.d 17, put i.a 12, put i.b 7, put i.f 0]
  | .li bt d i => word 0xb800000 [put bt 29, put d 17, put i 0]
  | .liExt bt d x => word 0x8b800000 [put bt 29, put d 17, put x 32]
  | .lih bt d a x => word 0x8bc00000 [put bt 29, put d 17, put a 12, put x 32]
  | .addr bt d a b k r => word 0xc000000 [put bt 29, put d 17, put a 12, put b 7, put k 3, put r 0]
  | .lds i => word 0xc400000 [put i.bt 29, put i.d 17, put i.a 12, put i.i 0]
  | .sts i => word 0xc800000 [put i.bt 29, put i.d 17, put i.a 12, put i.i 0]
  | .ldsx bt d a b k x z => word 0xcc00000 [put bt 29, put d 17, put a 12, put b 7, put k 3, put x 2, put z 0]
  | .stsx bt d a b k z => word 0xd000000 [put bt 29, put d 17, put a 12, put b 7, put k 3, put z 0]
  | .getr bt d n => word 0xd400000 [put bt 29, put d 17, put n 0]
  | .setr bt a n => word 0xd800000 [put bt 29, put a 12, put n 0]
  | .getg bt d n => word 0xdc00000 [put bt 29, put d 17, put n 0]
  | .geth bt d n => word 0xe000000 [put bt 29, put d 17, put n 0]
  | .setn bt n a => word 0xe400000 [put bt 29, put n 17, put a 12]
  | .setb bt n a => word 0xe800000 [put bt 29, put n 17, put a 12]
  | .setq bt n a => word 0xec00000 [put bt 29, put n 17, put a 12]
  | .drain bt w s => word 0xf000000 [put bt 29, put w 2, put s 0]
  | .invoke bt a c h => word 0xf400000 [put bt 29, put a 12, put c 6, put h 0]
  | .sprint bt d a l => word 0xf800000 [put bt 29, put d 17, put a 12, put l 0]
  | .sprintx bt d => word 0xfc00000 [put bt 29, put d 17]
  | .trap bt a n => word 0x10000000 [put bt 29, put a 12, put n 0]
  | .statpop bt d e => word 0x10400000 [put bt 29, put d 17, put e 0]
  | .fmtset bt a c f => word 0x10800000 [put bt 29, put a 12, put c 6, put f 0]
  | _ => none

/-- The bits of a V-slot word with its extension word, its first word lowest. -/
def encodeV : Instr → Option Nat
  | .vnop bt => word 0x0 [put bt 29]
  | .vadd i => word 0x800000 [put i.bt 29, put i.y 20, put i.d 15, put i.a 10, put i.b 5, put i.w 3, put i.k 0]
  | .vaddArith i e => word 0x80800000 [put i.bt 29, put i.y 20, put i.d 15, put i.a 10, put i.b 5, put i.w 3, put i.k 0, put e.rmo 33, put e.sat 32]
  | .vsub i => word 0x1000000 [put i.bt 29, put i.y 20, put i.d 15, put i.a 10, put i.b 5, put i.w 3, put i.k 0]
  | .vsubArith i e => word 0x81000000 [put i.bt 29, put i.y 20, put i.d 15, put i.a 10, put i.b 5, put i.w 3, put i.k 0, put e.rmo 33, put e.sat 32]
  | .vmul i => word 0x1800000 [put i.bt 29, put i.y 20, put i.d 15, put i.a 10, put i.b 5, put i.w 3, put i.k 0]
  | .vmulArith i e => word 0x81800000 [put i.bt 29, put i.y 20, put i.d 15, put i.a 10, put i.b 5, put i.w 3, put i.k 0, put e.rmo 33, put e.sat 32]
  | .vfma i => word 0x2000000 [put i.bt 29, put i.y 20, put i.d 15, put i.a 10, put i.b 5, put i.w 3, put i.k 0]
  | .vfmaArith i e => word 0x82000000 [put i.bt 29, put i.y 20, put i.d 15, put i.a 10, put i.b 5, put i.w 3, put i.k 0, put e.rmo 33, put e.sat 32]
  | .vfms i => word 0x2800000 [put i.bt 29, put i.y 20, put i.d 15, put i.a 10, put i.b 5, put i.w 3, put i.k 0]
  | .vfmsArith i e => word 0x82800000 [put i.bt 29, put i.y 20, put i.d 15, put i.a 10, put i.b 5, put i.w 3, put i.k 0, put e.rmo 33, put e.sat 32]
  | .vmin i => word 0x3000000 [put i.bt 29, put i.y 20, put i.d 15, put i.a 10, put i.b 5, put i.w 3, put i.k 0]
  | .vmax i => word 0x3800000 [put i.bt 29, put i.y 20, put i.d 15, put i.a 10, put i.b 5, put i.w 3, put i.k 0]
  | .vabs i => word 0x4000000 [put i.bt 29, put i.y 20, put i.d 15, put i.a 10, put i.w 3, put i.k 0]
  | .vabsArith i satX => word 0x84000000 [put i.bt 29, put i.y 20, put i.d 15, put i.a 10, put i.w 3, put i.k 0, put satX 32]
  | .vneg i => word 0x4800000 [put i.bt 29, put i.y 20, put i.d 15, put i.a 10, put i.w 3, put i.k 0]
  | .vnegArith i satX => word 0x84800000 [put i.bt 29, put i.y 20, put i.d 15, put i.a 10, put i.w 3, put i.k 0, put satX 32]
  | .vclamp i => word 0x5000000 [put i.bt 29, put i.y 20, put i.d 15, put i.a 10, put i.b 5, put i.w 3, put i.k 0]
  | .vand i => word 0x5800000 [put i.bt 29, put i.y 20, put i.d 15, put i.a 10, put i.b 5, put i.w 3, put i.k 0]
  | .vor i => word 0x6000000 [put i.bt 29, put i.y 20, put i.d 15, put i.a 10, put i.b 5, put i.w 3, put i.k 0]
  | .vxor i => word 0x6800000 [put i.bt 29, put i.y 20, put i.d 15, put i.a 10, put i.b 5, put i.w 3, put i.k 0]
  | .vshl i => word 0x7000000 [put i.bt 29, put i.y 20, put i.d 15, put i.a 10, put i.b 5, put i.w 3, put i.k 0]
  | .vshr i => word 0x7800000 [put i.bt 29, put i.y 20, put i.d 15, put i.a 10, put i.b 5, put i.w 3, put i.k 0]
  | .vsar i => word 0x8000000 [put i.bt 29, put i.y 20, put i.d 15, put i.a 10, put i.b 5, put i.w 3, put i.k 0]
  | .vceq i => word 0x8800000 [put i.bt 29, put i.y 20, put i.d 15, put i.a 10, put i.b 5, put i.w 3, put i.k 0]
  | .vclt i => word 0x9000000 [put i.bt 29, put i.y 20, put i.d 15, put i.a 10, put i.b 5, put i.w 3, put i.k 0]
  | .vcle i => word 0x9800000 [put i.bt 29, put i.y 20, put i.d 15, put i.a 10, put i.b 5, put i.w 3, put i.k 0]
  | .vcun i => word 0xa000000 [put i.bt 29, put i.y 20, put i.d 15, put i.a 10, put i.b 5, put i.w 3, put i.k 0]
  | .vsel i => word 0xa800000 [put i.bt 29, put i.y 20, put i.d 15, put i.a 10, put i.b 5, put i.w 3, put i.k 0]
  | .vcvt i e => word 0x8b000000 [put i.bt 29, put i.d 15, put i.a 10, put i.w 3, put i.k 0, put e.rmo 43, put e.sat 42, put e.src 37, put e.dst 32]
  | .vcvtb i e => word 0x8b800010 [put i.bt 29, put i.d 15, put i.a 10, put i.b 5, put e.h 45, put e.rmo 42, put e.src 37, put e.dst 32]
  | .vpack i dstX shX => word 0x8c000000 [put i.bt 29, put i.y 20, put i.d 15, put i.a 10, put i.w 3, put i.k 0, put dstX 32, put shX 37]
  | .vunpk i srcX => word 0x8c800000 [put i.bt 29, put i.y 20, put i.d 15, put i.a 10, put i.w 3, put i.k 0, put srcX 32]
  | .vshuf i eX => word 0x8d000000 [put i.bt 29, put i.y 20, put i.d 15, put i.a 10, put i.b 5, put i.w 3, put i.k 0, put eX 32]
  | .vpatld bt a eX => word 0x8d800010 [put bt 29, put a 10, put eX 32]
  | .vpatsw bt => word 0xe000000 [put bt 29]
  | .vradd i => word 0xe800000 [put i.bt 29, put i.y 20, put i.d 15, put i.a 10, put i.w 3, put i.k 0]
  | .vraddArith i e => word 0x8e800000 [put i.bt 29, put i.y 20, put i.d 15, put i.a 10, put i.w 3, put i.k 0, put e.rmo 33, put e.sat 32]
  | .vrmax i => word 0xf000000 [put i.bt 29, put i.y 20, put i.d 15, put i.a 10, put i.w 3, put i.k 0]
  | .vrmin i => word 0xf800000 [put i.bt 29, put i.y 20, put i.d 15, put i.a 10, put i.w 3, put i.k 0]
  | .vbcast i srcX lX => word 0x90000000 [put i.bt 29, put i.y 20, put i.d 15, put i.a 10, put i.w 3, put i.k 0, put srcX 39, put lX 32]
  | .vext bt y d a w lX => word 0x90800000 [put bt 29, put y 20, put d 15, put a 10, put w 3, put lX 32]
  | .vidx bt y d w k => word 0x11000000 [put bt 29, put y 20, put d 15, put w 3, put k 0]
  | .vld i e => word 0x91800000 [put i.bt 29, put i.y 20, put i.d 15, put i.a 10, put i.w 3, put i.k 0, put e.step 48, put e.off 32]
  | .vst i e => word 0x92000000 [put i.bt 29, put i.y 20, put i.d 15, put i.a 10, put i.w 3, put i.k 0, put e.step 48, put e.off 32]
  | .vlds i e => word 0x92800000 [put i.bt 29, put i.y 20, put i.d 15, put i.a 10, put i.b 5, put i.w 3, put i.k 0, put e.step 48, put e.off 32]
  | .vsts i e => word 0x93000000 [put i.bt 29, put i.y 20, put i.d 15, put i.a 10, put i.b 5, put i.w 3, put i.k 0, put e.step 48, put e.off 32]
  | .vgath i e => word 0x93800000 [put i.bt 29, put i.y 20, put i.d 15, put i.a 10, put i.b 5, put i.w 3, put i.k 0, put e.step 48, put e.off 32]
  | .vscat i e => word 0x94000000 [put i.bt 29, put i.y 20, put i.d 15, put i.a 10, put i.b 5, put i.w 3, put i.k 0, put e.step 48, put e.off 32]
  | .vexp i => word 0x14800000 [put i.bt 29, put i.y 20, put i.d 15, put i.a 10, put i.w 3, put i.k 0]
  | .vexpAccurate i nX => word 0x94c00000 [put i.bt 29, put i.y 20, put i.d 15, put i.a 10, put i.w 3, put i.k 0, put nX 32]
  | .vlog i => word 0x15000000 [put i.bt 29, put i.y 20, put i.d 15, put i.a 10, put i.w 3, put i.k 0]
  | .vlogAccurate i nX => word 0x95400000 [put i.bt 29, put i.y 20, put i.d 15, put i.a 10, put i.w 3, put i.k 0, put nX 32]
  | .vrcp i => word 0x15800000 [put i.bt 29, put i.y 20, put i.d 15, put i.a 10, put i.w 3, put i.k 0]
  | .vrcpAccurate i nX => word 0x95c00000 [put i.bt 29, put i.y 20, put i.d 15, put i.a 10, put i.w 3, put i.k 0, put nX 32]
  | .vrsq i => word 0x16000000 [put i.bt 29, put i.y 20, put i.d 15, put i.a 10, put i.w 3, put i.k 0]
  | .vrsqAccurate i nX => word 0x96400000 [put i.bt 29, put i.y 20, put i.d 15, put i.a 10, put i.w 3, put i.k 0, put nX 32]
  | .vsin i => word 0x16800000 [put i.bt 29, put i.y 20, put i.d 15, put i.a 10, put i.w 3, put i.k 0]
  | .vsinAccurate i nX => word 0x96c00000 [put i.bt 29, put i.y 20, put i.d 15, put i.a 10, put i.w 3, put i.k 0, put nX 32]
  | .vcos i => word 0x17000000 [put i.bt 29, put i.y 20, put i.d 15, put i.a 10, put i.w 3, put i.k 0]
  | .vcosAccurate i nX => word 0x97400000 [put i.bt 29, put i.y 20, put i.d 15, put i.a 10, put i.w 3, put i.k 0, put nX 32]
  | .vtanh i => word 0x17800000 [put i.bt 29, put i.y 20, put i.d 15, put i.a 10, put i.w 3, put i.k 0]
  | .vtanhAccurate i nX => word 0x97c00000 [put i.bt 29, put i.y 20, put i.d 15, put i.a 10, put i.w 3, put i.k 0, put nX 32]
  | .vlgst i => word 0x18000000 [put i.bt 29, put i.y 20, put i.d 15, put i.a 10, put i.w 3, put i.k 0]
  | .vlgstAccurate i nX => word 0x98400000 [put i.bt 29, put i.y 20, put i.d 15, put i.a 10, put i.w 3, put i.k 0, put nX 32]
  | .kand bt d a b => word 0x18800000 [put bt 29, put d 15, put a 10, put b 5]
  | .kor bt d a b => word 0x19000000 [put bt 29, put d 15, put a 10, put b 5]
  | .kxor bt d a b => word 0x19800000 [put bt 29, put d 15, put a 10, put b 5]
  | .knot bt d a => word 0x1a000000 [put bt 29, put d 15, put a 10]
  | .kset bt d a => word 0x1a800000 [put bt 29, put d 15, put a 10]
  | .vmov i => word 0x1b000000 [put i.bt 29, put i.y 20, put i.d 15, put i.a 10, put i.w 3, put i.k 0]
  | _ => none

/-- The bits of an M-slot word with its extension word, its first word lowest. -/
def encodeM : Instr → Option Nat
  | .mnop bt => word 0x0 [put bt 29]
  | .mcall bt n => word 0x800000 [put bt 29, put n 15]
  | .msetp bt m a p => word 0x1000000 [put bt 29, put m 20, put a 15, put p 14]
  | .mlatch bt e b v k f => word 0x1800000 [put bt 29, put e 21, put b 18, put v 17, put k 7, put f 6]
  | .maccz bt m => word 0x2000000 [put bt 29, put m 20]
  | .mretire bt m a v f e => word 0x2800000 [put bt 29, put m 20, put a 15, put v 14, put f 13, put e 12]
  | .mupld bt n a wordX cntX => word 0x83000000 [put bt 29, put n 15, put a 10, put wordX 32, put cntX 43]
  | .mfmt bt a b c r s => word 0x3800000 [put bt 29, put a 18, put b 13, put c 8, put r 6, put s 5]
  | .mwait bt => word 0x4000000 [put bt 29]
  | .rtload bt a f c => word 0x8000000 [put bt 29, put a 18, put f 12, put c 6]
  | .rgrid bt x w h c g => word 0x8800000 [put bt 29, put x 19, put w 15, put h 4, put c 3, put g 0]
  | .rgridOff bt => word 0x8c00000 [put bt 29]
  | .rmode bt n i u x y o p => word 0x9000000 [put bt 29, put n 22, put i 21, put u 20, put x 18, put y 16, put o 14, put p 13]
  | .rstep bt a => word 0x9800000 [put bt 29, put a 18]
  | .rload bt m y v r => word 0xa000000 [put bt 29, put m 20, put y 17, put v 16, put r 5]
  | .rstore bt m y v r => word 0xa800000 [put bt 29, put m 20, put y 17, put v 16, put r 5]
  | .rhalox bt s a => word 0xb000000 [put bt 29, put s 21, put a 16]
  | .rhaloi bt s a => word 0xb800000 [put bt 29, put s 21, put a 16]
  | .rcensus bt a => word 0xc000000 [put bt 29, put a 18]
  | _ => none

/-- The bits of a C-slot word, its first word lowest. -/
def encodeC : Instr → Option Nat
  | .cnop bt => word 0x0 [put bt 29]
  | .copy bt g h a v s => word 0x800000 [put bt 29, put g 22, put h 16, put a 11, put v 5, put s 2]
  | .copyo bt g h a v s => word 0x1000000 [put bt 29, put g 22, put h 16, put a 11, put v 5, put s 2]
  | .gather bt g h a b v => word 0x1800000 [put bt 29, put g 22, put h 16, put a 11, put b 6, put v 5]
  | .scattr bt g h a b v => word 0x2000000 [put bt 29, put g 22, put h 16, put a 11, put b 6, put v 5]
  | .fillh bt g h a => word 0x2800000 [put bt 29, put g 22, put h 16, put a 11]
  | .advp bt r => word 0x3000000 [put bt 29, put r 16]
  | .advc bt r => word 0x3800000 [put bt 29, put r 16]
  | .flip bt h => word 0x4000000 [put bt 29, put h 16]
  | .ringdef bt f l n o => word 0x4800000 [put bt 29, put f 16, put l 10, put n 7, put o 6]
  | .harm bt h a => word 0x5000000 [put bt 29, put h 16, put a 11]
  | .harmOff bt h => word 0x5000400 [put bt 29, put h 16]
  | .send bt g d s b => word 0x5800000 [put bt 29, put g 22, put d 16, put s 10, put b 5]
  | .sacc bt i v a o => word 0x6000000 [put bt 29, put i 16, put v 10, put a 5, put o 2]
  | .coll bt s d a => word 0x6800000 [put bt 29, put s 16, put d 10, put a 5]
  | .hpois bt h c => word 0x7000000 [put bt 29, put h 16, put c 15]
  | .tilef bt g h a b v s => word 0x7800000 [put bt 29, put g 22, put h 16, put a 11, put b 6, put v 5, put s 2]
  | _ => none

/-- The bits of a micro-op (R156), its first word lowest. -/
def encodeU : Instr → Option Nat
  | .upass n => word 0x0 [put n 52]
  | .ulatch i => word 0x1000000000000000 [put i.e 58, put i.mb 55, put i.v 54, put i.tb 53, put i.h 47, put i.pi 46, put i.rel 45, put i.k 35]
  | .ustep i => word 0x2000000000000000 [put i.ma 57, put i.v 56, put i.ta 55, put i.h 49, put i.e 47, put i.mc 44, put i.pi 43, put i.rel 42, put i.k 32, put i.rows 25, put i.mp 22, put i.pe 21]
  | .uloop l count target => word 0x3000000000000000 [put l 58, put count 50, put target 39]
  | .uacc ms md => word 0x4000000000000000 [put ms 57, put md 54]
  | .ufmt src af bf => word 0x5000000000000000 [put src 58, put af 53, put bf 48]
  | .ufetch h md v => word 0x6000000000000000 [put h 54, put md 51, put v 50]
  | .uwait h => word 0x7000000000000000 [put h 54]
  | .urowp mr => word 0x8000000000000000 [put mr 57]
  | .uend => word 0x9000000000000000 []
  | _ => none

/-- The bits of a step (R324), its first word lowest. -/
def encodeE : Instr → Option Nat
  | .nop hd => word 0x0 [put hd.bar 8]
  | .launch hd gang prio desc ublock => word 0x1 [put gang 9, put prio 10, put desc 64, put ublock 128, put hd.bar 8]
  | .wait hd kind cond size step ad value mask => word 0x2 [put kind 16, put cond 17, put size 20, put step 32, put ad 64, put value 128, put mask 192, put hd.bar 8]
  | .signal hd irq ad value => word 0x3 [put irq 9, put ad 64, put value 128, put hd.bar 8]
  | .xfer hd src dst len => word 0x4 [put src 64, put dst 128, put len 192, put hd.bar 8]
  | .loft hd die bay src off len => word 0x5 [put die 24, put bay 32, put src 64, put off 128, put len 160, put hd.bar 8]
  | .loftRel hd die bay => word 0x10005 [put die 24, put bay 32, put hd.bar 8]
  | .joinpt hd => word 0x6 [put hd.bar 8]
  | .goto hd target => word 0x7 [put target 32, put hd.bar 8]
  | .endStep hd => word 0x8 [put hd.bar 8]
  | _ => none

/-- The bits of a port write (R317), its first word lowest. -/
def encodeP : Instr → Option Nat
  | .start hd ecb => word 0x1 [put ecb 128, put hd.cpu 16, put hd.token 64]
  | .join hd ad v => word 0x2 [put ad 128, put v 192, put hd.cpu 16, put hd.token 64]
  | .park hd => word 0x4 [put hd.cpu 16, put hd.token 64]
  | .parkCut hd => word 0x100000004 [put hd.cpu 16, put hd.token 64]
  | .resume hd => word 0x5 [put hd.cpu 16, put hd.token 64]
  | .kill hd => word 0x6 [put hd.cpu 16, put hd.token 64]
  | .gangJoin hd gang => word 0x7 [put gang 128, put hd.cpu 16, put hd.token 64]
  | .gangLeave hd => word 0x100000007 [put hd.cpu 16, put hd.token 64]
  | .gangStop hd => word 0x200000007 [put hd.cpu 16, put hd.token 64]
  | .gangGo hd => word 0x300000007 [put hd.cpu 16, put hd.token 64]
  | .home hd => word 0x8 [put hd.cpu 16, put hd.token 64]
  | .adopt hd => word 0x100000008 [put hd.cpu 16, put hd.token 64]
  | .stewardRegister hd => word 0x9 [put hd.cpu 16, put hd.token 64]
  | .orphan hd => word 0x100000009 [put hd.cpu 16, put hd.token 64]
  | .stewardUnregister hd => word 0x200000009 [put hd.cpu 16, put hd.token 64]
  | .ack hd cls unit seq => word 0xa [put cls 128, put unit 136, put seq 160, put hd.cpu 16, put hd.token 64]
  | _ => none
/-- The seven slots of a bundle in the order of R19. -/
inductive Slot where
  | l | s | v0 | v1 | m | c0 | c1
  deriving DecidableEq, Repr

/-- The bit of a slot in the presence mask and in a slot mask (R19, R263). -/
def Slot.index : Slot → Nat
  | .l => 0 | .s => 1 | .v0 => 2 | .v1 => 3 | .m => 4 | .c0 => 5 | .c1 => 6

def Slot.all : List Slot := [.l, .s, .v0, .v1, .m, .c0, .c1]

/-- The form a slot word has in its slot, `x` its extension word where X = 1. -/
def decodeForm (sl : Slot) (w : Nat) (x : Option Nat) : Option Form :=
  match sl with
  | .l => decodeLForm w x
  | .s => decodeSForm w x
  | .v0 | .v1 => decodeVForm w x
  | .m => decodeMForm w x
  | .c0 | .c1 => decodeCForm w x

/-- Decoding of a slot word. -/
def decodeSlot (sl : Slot) (w : Nat) (x : Option Nat) : Decoded := formResult (decodeForm sl w x)

/-- The OP field of a slot word, as a trap record gives it (R29, R263). -/
def slotOpcode (sl : Slot) (w : Nat) : Nat :=
  match sl with
  | .s => w / 2 ^ 22 % 128
  | _ => w / 2 ^ 23 % 64

/-- Decoding of a micro-op word (R155, R156). -/
def decodeMicro (w : Nat) : Decoded := formResult (decodeUForm w)

/-- Decoding of the 32 bytes of a step of errand `r` (R56, R324). -/
def decodeStep (r : RecNo) (w : Nat) : Decoded := formResult (decodeEForm r w)

/-- Decoding of the 64 bytes of a port write (R57, R317): refused ones are UNASSIGNED_PORT_OPERATION. -/
def decodePortWrite (p : Port) (r : RecNo) (w : Nat) : Instr :=
  match formResult (decodePForm p r w) with
  | .ok i => i
  | _ => .unassignedPortOperation ⟨p, r, fld w 16, fld w 64⟩

/-- A 64-bit write to BAR 0 of a port, as the operation or event it is. -/
inductive Bar0Write where
  | renew
  | inval (v : DWord)
  | flush
  | fitkid (kid : DWord)
  | attestGo
  | clerkSwitch (cap : BitVec 3) (img : BitVec 40)
  | clerkSwitchForced (cap : BitVec 3) (img : BitVec 40)
  | register (off : BitVec 20) (v : DWord)
  deriving DecidableEq, Repr

/-- R225, R331, R353, R368, R405: the BAR 0 writes that are events of their own; every other is REGISTER_WRITE. -/
def decodeBar0Write (off : BitVec 20) (v : DWord) : Bar0Write :=
  let o := off.toNat
  if o == 0x1000 && v.toNat % 2 == 1 then .renew
  else if o == 0x2008 then .inval v
  else if o == 0x3000 && v.toNat % 2 == 1 then .flush
  else if o == 0x3008 then .fitkid v
  else if o == 0x0210 && v.toNat % 2 == 1 then .attestGo
  else if 0x5108 ≤ o && o ≤ 0x5138 && o % 8 == 0 && v.toNat % 2 == 1 then
    let cap : BitVec 3 := BitVec.ofNat 3 ((o - 0x5100) / 8)
    if v.toNat / 2 % 2 == 1 then .clerkSwitchForced cap (fld v.toNat 12) else .clerkSwitch cap (fld v.toNat 12)
  else .register off v

/-- The call a clerk takes from an argument block (R362, R366, R367, R372): `a` the words A0 to A6 and `text` bytes 24 to
63. `none` is an OP without a meaning, which is answered with BADARG. -/
def decodeCallBlock (cap : BitVec 3) (k : CallRef) (a : Nat → DWord) (text : List Byte) : Option Instr :=
  let op := (a 0).toNat % 256
  match cap.toNat with
  | 1 => match op with
    | 0 => some (.fileRead k (a 1) (a 2) (a 3))
    | 1 => some (.fileWrite k (a 1) (a 2) (a 3))
    | 2 => some (.fileFlush k (a 1) (a 3))
    | _ => none
  | 2 => some (.decodeCall k (a 0) (a 1) (a 2) (a 3) (a 4))
  | 3 => match op with
    | 0 => some (.allocCall k (a 1) (a 2))
    | 1 => some (.allocFree k (a 1))
    | _ => none
  | 4 => some (.timeCall k)
  | 5 => some (.printCall k (a 0) (a 1) text)
  | 6 => some (.notifyCall k (a 0) (a 1))
  | 7 => some (.statusCall k (a 0) (a 1))
  | _ => none

/-- The fields of a bundle header (R23). -/
structure Header where
  ae : Bool
  cut : BitVec 8
  qb : Bool
  rp : Bool
  rpt : BitVec 4
  stop : Bool
  p : BitVec 7
  deriving DecidableEq, Repr

/-- A word where a header may stand: a pad word (R24), a header, or neither (R26). -/
inductive HeaderWord where
  | pad
  | header (h : Header)
  | bad
  deriving DecidableEq, Repr

/-- The fields of a header word, whether or not it meets R26. -/
def headerFields (w : Nat) : Header :=
  ⟨w / 2 ^ 22 % 2 == 1, fld w 14, w / 2 ^ 13 % 2 == 1, w / 2 ^ 12 % 2 == 1, fld w 8, w / 2 ^ 7 % 2 == 1, fld w 0⟩

/-- R23, R24, R26. -/
def decodeHeader (w : Nat) : HeaderWord :=
  if w == 2 ^ 23 then .pad
  else if w / 2 ^ 24 % 256 != 0 || w / 2 ^ 23 % 2 == 1 || (w / 2 ^ 13 % 2 == 0 && w / 2 ^ 14 % 256 != 0) then .bad
  else .header (headerFields w)

/-- The header word of a header (R23). -/
def Header.encode (h : Header) : Nat :=
  h.ae.toNat * 2 ^ 22 + h.cut.toNat * 2 ^ 14 + h.qb.toNat * 2 ^ 13 + h.rp.toNat * 2 ^ 12 + h.rpt.toNat * 2 ^ 8
    + h.stop.toNat * 2 ^ 7 + h.p.toNat

/-- The words of an instruction, each with its width in bits (R22, R156, R317, R324): `none` for an event, which has no
encoding. -/
def encode (i : Instr) : Option Nat :=
  (encodeL i).orElse fun _ => (encodeS i).orElse fun _ => (encodeV i).orElse fun _ => (encodeM i).orElse fun _ =>
    (encodeC i).orElse fun _ => (encodeU i).orElse fun _ => (encodeE i).orElse fun _ => encodeP i

/-- The slot whose word decodes, trying S, V0, L, M, C0 in turn: a slot word does not name its slot, so a word alone is read in
the first slot that gives it a meaning. -/
def tableSlot (w : Nat) (x : Option Nat) : Option (Slot × Instr) :=
  let try1 := fun sl => match decodeSlot sl w x with | .ok i => some (sl, i) | _ => none
  (try1 .s).orElse fun _ => (try1 .v0).orElse fun _ => (try1 .l).orElse fun _ => (try1 .m).orElse fun _ => try1 .c0

/-- The instruction the decoder reads from an opcode-table word of `nbits` bits: 32 bits are a slot word (with an
extension word of zeros where X = 1), 64 bits a slot word with its extension word, or else a micro-op. -/
def decodeTableWord (nbits w : Nat) : Option Instr :=
  if nbits ≤ 64 then
    let w0 := w % 2 ^ 32
    let x := if w0 / 2 ^ 31 == 1 then some (w / 2 ^ 32 % 2 ^ 32) else none
    let slot := if nbits ≤ 32 || x.isSome then (tableSlot w0 x).map (·.2) else none
    match slot with
    | some i => some i
    | none => if nbits ≤ 32 then none else match decodeMicro (w % 2 ^ 64) with | .ok i => some i | _ => none
  else match decodeStep 0 (w % 2 ^ 256) with
    | .ok i => some i
    | _ => none

end Sys2Proof
end

