-- ==== Sys2Proof/Machine/State.lean ====
section
/-! DEFINITION. The state of the package as plain data: every register, memory, queue and status the spec names (R7 to R12
and the chapters), the few fields the model adds for itself (`State.agenda`, `turn`, `free`, `cur`), and the state
after package reset (R409). Defaults of fields are reset values: of kernel start where the spec gives one, else as
notes/assumptions/2.md and 3.md say. -/

namespace Sys2Proof.Machine

/-- A sparse memory: (address, byte) pairs, addresses strictly rising, no byte 0; an unlisted address reads as 0. -/
abbrev Mem := List Host.Cell

/-- A sparse register block: (offset, value) pairs, offsets strictly rising; an unlisted one holds its reset value. -/
abbrev RegBlock := List (Nat × DWord)

/-- Why the machine stops. The step raises no fault today: every trap of the spec is taken as the spec says. -/
inductive Fault where
  /-- Raised by no meaning: kept so that a stop the spec would call for has a type. Safe: the machine goes no further. -/
  | stuck (why : String)
  deriving DecidableEq, Repr

/-- Why the model has no next state for an operation. -/
inductive Refusal where
  /-- Raised only by an arm of `exec` whose instruction has no meaning yet. Safe: nothing is claimed of it. -/
  | notModelled (mnemonic : String)
  deriving DecidableEq, Repr

/-! ### Records -/

/-- The four ways a trap is taken (R266). -/
inductive TrapKind where
  | precise | after | held | coreStop
  deriving DecidableEq, Repr

/-- A trap record (R263), field by field. -/
structure TrapRecord where
  seq : BitVec 24 := 0
  unit : BitVec 9 := 0
  cls : BitVec 3 := 0
  cause : BitVec 5 := 0
  errno : BitVec 16 := 0
  xaddr : DWord := 0
  oaddr : DWord := 0
  iter : BitVec 60 := 0
  av : Bool := false
  loc : Bool := false
  faddr : BitVec 57 := 0
  prog : DWord := 0
  issue : BitVec 4 := 0
  nest : Bool := false
  aux : BitVec 12 := 0
  uv : Bool := false
  uidx : BitVec 11 := 0
  rout : BitVec 8 := 0
  hv : Bool := false
  hnd : BitVec 6 := 0
  op : BitVec 7 := 0
  slots : BitVec 7 := 0
  stamp : DWord := 0
  deriving DecidableEq, Repr

/-- The bundle an operation is charged to (R35, R167): executed address, original address and iteration vector, with the
slot and opcode that a record of it names. -/
structure Charge where
  xaddr : DWord := 0
  oaddr : DWord := 0
  iter : BitVec 60 := 0
  slot : Nat := 0
  op : Nat := 0
  deriving DecidableEq, Repr

/-- A statistics event before it becomes a record (R286, R287). -/
structure StatEvent where
  cls : Nat
  count : Nat
  detail : Nat
  src : Nat
  addr : DWord
  deriving DecidableEq, Repr

/-! ### The core -/

/-- A write to a register that has not arrived (R65). -/
inductive RegWrite where
  | s (i : BitVec 5) (v : DWord)
  | arr (i : BitVec 3) (v : DWord)
  | b (i : BitVec 3) (v : Word)
  | q (i : BitVec 3) (v : BitVec 1)
  | n (i : BitVec 3) (v : Word)
  | v (i : BitVec 5) (v : VReg)
  | k (i : BitVec 3) (v : Pred)
  | m (i : BitVec 3) (v : DWord)
  /-- A control register, as SETR writes it (R80). -/
  | ctl (i : BitVec 6) (v : DWord)
  /-- The back bank of a pattern entry (R138). -/
  | pat (e : BitVec 6) (v : VReg)
  deriving DecidableEq, Repr

/-- The results of one operation on their way: `due` is the cycle they arrive in (R65); the flags and events arrive
with them (R101, R288). -/
structure Pending where
  due : Nat
  writes : List RegWrite
  flags : BitVec 4 := 0
  events : List StatEvent := []
  /-- The result of a load, whose lateness counts as held for memory (R308). -/
  load : Bool := false
  deriving DecidableEq, Repr

/-- A sticky record (R35): the recorded operation, its re-issue count, its opcode, and whether it was named with a legal tile
address (R145). -/
structure Sticky where
  instr : Option Instr := none
  j : Nat := 0
  op : Nat := 0
  tileOk : Bool := true
  deriving DecidableEq, Repr

/-- The five sticky records (R35), in the order V0, V1, M, C0, C1. -/
structure Stickies where
  v0 : Sticky := {}
  v1 : Sticky := {}
  m : Sticky := {}
  c0 : Sticky := {}
  c1 : Sticky := {}
  deriving DecidableEq, Repr

/-- A restart snapshot (R40). -/
structure Snapshot where
  pc : DWord := 0
  stickies : Stickies := {}
  deriving DecidableEq, Repr

/-- What a diversion to a handler saves (R205, R272). -/
structure HandlerCtx where
  /-- Kind P: TRET goes back to the trapping issue, and SKIP has an effect (R275). -/
  precise : Bool := false
  ret : DWord := 0
  retIssue : Nat := 0
  next : DWord := 0
  stickies : Stickies := {}
  snapshot : Snapshot := {}
  /-- STOP of the bundle before the diversion, which applies to the first bundle after the return (R39). -/
  stop : Bool := false
  /-- The barrier at which the held bundle has arrived, and whether it had been released: its arrival stands (R86). -/
  arrived : Option (BitVec 3) := none
  released : Bool := false
  /-- A restart's bundle has yet to issue again (R67). -/
  restarted : Bool := false
  deriving DecidableEq, Repr

/-- The control registers that hold a value of their own (R61). COREID, CLUSTERID, CREW, ERRID and TRAPRING are of the
launch; BADDR, MELT, LEASE.LVL and USEC, CLK, LOFTREF, SPEC.ORIG and ORIGADDR are live. -/
structure Ctl where
  cycle : DWord := 0
  mode : BitVec 5 := 0
  trapvec : DWord := 0
  statcfg : DWord := 0
  statwin : DWord := 0
  statthr : Vector DWord 5 := Vector.replicate 5 0
  fb : BitVec 6 := 0
  flev : BitVec 3 := 0
  rowp : BitVec 7 := 0
  genCount : Word := 0
  hln : BitVec 4 := 0
  hls : BitVec 4 := 0
  hle : BitVec 4 := 0
  hlw : BitVec 4 := 0
  rnd : BitVec 2 := 0
  quantEnd : Word := 0
  bound : BitVec 4 := 0
  flags : BitVec 4 := 0
  /-- LEASE.XCNT and LEASE.REV (R298). -/
  xcnt : BitVec 8 := 0
  rev : Bool := false
  /-- ARRSTAT.CNT (R206); HND of the running handler. -/
  arrCnt : BitVec 8 := 0
  arrHnd : BitVec 6 := 0
  deriving DecidableEq, Repr

/-- The values that act on the hardware until the next bundle starts (R61). -/
structure InForce where
  mode : BitVec 5 := 0
  fb : BitVec 6 := 0
  flev : BitVec 3 := 0
  bound : BitVec 4 := 0
  statcfg : DWord := 0
  statwin : DWord := 0
  statthr : Vector DWord 5 := Vector.replicate 5 0
  deriving DecidableEq, Repr

/-- What holds a core's issue (R38, R85 to R87, R239, R301, R283). -/
inductive Hold where
  | none
  /-- An engine, a destination or SETR GEN cannot accept yet (R38, R184, R249): tried again. -/
  | accept
  /-- The store buffer cannot take a store yet (R228): tried again. -/
  | buffer
  /-- INVOKE waits for room in the wicket's queue (R363). -/
  | wicket
  | hwait
  | mwait
  | bar (b : BitVec 3)
  | waitv
  /-- After a DRAIN of scope `scope` that ended quantum `k`, with `wait` (R238): the counts of the commands of
  C0 and C1 and of matrix operations accepted at or before it. -/
  | drain (scope : BitVec 2) (k : Nat) (c0 c1 m : Nat)
  | sprint
  /-- Fetch met a page fault (R49, R270). -/
  | fetch
  /-- The cut target is reached, or not known yet (R283). -/
  | cut
  /-- VPATSW waits for pattern loads of earlier issues, the last of which arrives in this cycle (R139). -/
  | until (cycle : Nat)
  deriving DecidableEq, Repr

/-- How a core stands (R88, R274, R277). -/
inductive CoreStatus where
  | off | running | halted | stopped | contained
  deriving DecidableEq, Repr

/-- A handle (R181, R185). -/
structure Handle where
  base : Word := 0
  size : Word := 0
  st : BitVec 2 := 0
  o : BitVec 1 := 1
  psn : BitVec 1 := 0
  err : BitVec 4 := 0
  landed : BitVec 20 := 0
  rd : BitVec 20 := 0
  arm : Bool := false
  entry : DWord := 0
  ring : Option (BitVec 3) := none
  /-- The poison came of a collective's abort (R210): a read of the region traps COLLECTIVE_ABORT. -/
  abort : Bool := false
  /-- The fill in flight is UFETCH's own: it becomes FULL with O = 1 (R160). -/
  fetch : Bool := false
  /-- An arrival is pending for the handle (R204). -/
  arrival : Bool := false
  deriving DecidableEq, Repr

/-- A ring (R187). -/
structure Ring where
  f : BitVec 6
  l : BitVec 7
  out : Bool
  p : BitVec 7 := 0
  c : BitVec 7 := 0
  deriving DecidableEq, Repr

/-- A format record (R112, R144, R174). -/
structure FmtRec where
  af : BitVec 5 := 0
  bf : BitVec 5 := 0
  cf : BitVec 5 := 0
  rm : BitVec 2 := 0
  sat : BitVec 1 := 0
  asb : DWord := 0
  bsb : DWord := 0
  bssb : DWord := 0
  deriving DecidableEq, Repr

/-- The source a latch keeps for a reload (R152). -/
structure LatchSource where
  addr : DWord := 0
  virt : Bool := false
  /-- Loaded from a handle's region. -/
  handle : Option (BitVec 6) := none
  bsc : DWord := 0
  bssc : DWord := 0
  bc : Nat := 0
  charge : Charge := {}
  /-- MODE.PSN as the operation that loaded it took it (R63). -/
  psnTrap : Bool := false
  /-- Routine and micro-op index of the load, where there was one. -/
  micro : Option (BitVec 8 × BitVec 11) := none
  deriving DecidableEq, Repr

/-- An edge latch (R152). -/
structure Latch where
  valid : Bool := false
  loading : Bool := false
  fmt : BitVec 5 := 0
  k : Nat := 0
  panel : List Byte := []
  scales : List Byte := []
  supers : List Word := []
  source : LatchSource := {}
  deriving DecidableEq, Repr

/-- A queued matrix or rule operation with the copies it took at its issue (R153, R249). -/
structure MatOp where
  instr : Instr
  /-- The re-issue count that steps its addresses (R171, R253). -/
  j : Nat := 0
  tileOk : Bool := true
  m : Vector DWord 8 := Vector.replicate 8 0
  expl : FmtRec := {}
  cur : FmtRec := {}
  /-- The value of the scalar register it names. -/
  a : DWord := 0
  bound : BitVec 4 := 0
  psnTrap : Bool := false
  charge : Charge := {}
  /-- Rows that an RLOAD, RSTORE or MRETIRE under way has completed (R258, R178). -/
  rows : Nat := 0
  deriving DecidableEq, Repr

/-- A routine under way (R155, R161). -/
structure Routine where
  rout : BitVec 8 := 0
  first : Nat := 0
  len : Nat := 0
  idx : Nat := 0
  w : Vector DWord 8 := Vector.replicate 8 0
  active : FmtRec := {}
  asc : DWord := 0
  bsc : DWord := 0
  bssc : DWord := 0
  bc : Nat := 0
  /-- `none` is disarmed. -/
  lc : Vector (Option Nat) 4 := Vector.replicate 4 none
  /-- Early promotions of the USTEP under way, whether it has started, and whether it has met poison (R165, R160). -/
  early : Nat := 0
  begun : Bool := false
  poisoned : Bool := false
  deriving DecidableEq, Repr

/-- An engine access held on a page fault, with the record that names it (R168, R193, R270). -/
structure HeldFault where
  va : DWord := 0
  wr : Bool := false
  cls : BitVec 3 := 0
  seq : BitVec 24 := 0
  /-- Held on a file page being read (R371): released without an ACK. -/
  file : Option (BitVec 40) := none
  deriving DecidableEq, Repr

/-- The Loom's grid (R240). -/
structure Grid where
  tile : Nat
  width : Nat
  height : Nat
  cw : Nat
  halo : Nat
  deriving DecidableEq, Repr

/-- The rule mode (R256). -/
structure RuleMode where
  nb : BitVec 1 := 0
  ix : BitVec 1 := 0
  up : BitVec 1 := 0
  bx : BitVec 2 := 0
  by_ : BitVec 2 := 0
  toff : BitVec 2 := 0
  po : BitVec 1 := 0
  deriving DecidableEq, Repr

/-- A copy engine's command with what it copied at acceptance (R189, R191). -/
structure CopyCmd where
  instr : Instr
  /-- The bench handle it fills or drains. -/
  h : BitVec 6 := 0
  /-- The descriptor (R190), after TILEF's and the re-issue's adjustment. -/
  desc : BitVec 512 := 0
  base : Int := 0
  extent : List Int := []
  index : List Word := []
  virt : Bool := false
  inbound : Bool := true
  /-- Elements done, and the counts of R185. -/
  pos : Nat := 0
  landed : Nat := 0
  rd : Nat := 0
  started : Bool := false
  /-- Every byte has moved: the flip is still to come. -/
  moved : Bool := false
  poison : Bool := false
  fill : Byte := 0
  /-- SEND: the receiver's COREID, and its handle or ring. -/
  rank : Nat := 0
  toRing : Bool := false
  dest : BitVec 6 := 0
  fault : Option HeldFault := none
  charge : Charge := {}
  /-- Routine and micro-op index of the UFETCH it is of (R167), and MODE.PSN as the routine took it (R63, R160). -/
  micro : Option (BitVec 8 × BitVec 11) := none
  psnTrap : Bool := false
  /-- Until when a loft refresh holds its reads (R216). -/
  lateUntil : Nat := 0
  /-- Its number among the commands of C0 and C1 (R203). -/
  no : Nat := 0
  deriving DecidableEq, Repr

/-- A copy engine (R189): its queue, and how many commands it has accepted and completed. -/
structure CopyEngine where
  queue : List CopyCmd := []
  accepted : Nat := 0
  completed : Nat := 0
  deriving DecidableEq, Repr

/-- A yard store in the store buffer (R228): its quantum, its entries and its bytes by yard offset. -/
structure BufStore where
  quantum : Nat
  entries : Nat
  bytes : List (Nat × Byte)
  deriving DecidableEq, Repr

/-- A pending trap of kind A, by its order of delivery (R272): 0 M, 1 C0, 2 C1, 3 lease, 4 threshold, 5 SOFTWARE. -/
structure PendingTrap where
  source : Nat
  record : TrapRecord
  /-- The record has already been handed to the ring (engine faults are written when met, R167). -/
  written : Bool := false
  deriving DecidableEq, Repr

/-- The launch-fixed fields of SPEC (R349). -/
structure SpecStatus where
  dem : BitVec 8 := 0
  mark : BitVec 8 := 0
  unr : BitVec 8 := 0
  reason : BitVec 4 := 0
  state : BitVec 2 := 0
  deriving DecidableEq, Repr

/-- A residual bundle with its back-map entry (R342, R354). -/
structure ResBundle where
  addr : DWord
  orig : DWord
  iter : BitVec 60 := 0
  words : List Word
  /-- The word after the original bundle, which a CALL links (R344), and whether its direct branch is a demoted one, which
  takes its target from the original bundle (R347). -/
  origNext : DWord := 0
  demoted : Bool := false
  /-- The opcode of an S slot that the Fitter has rewritten, as it was: a record that names the slot gives that one (R357). -/
  sOp : Option Nat := none
  /-- What follows it in the residual is not the next original bundle's (R344): SKIP goes on in the original code (R275). -/
  cut : Bool := false
  deriving DecidableEq, Repr

/-- What fixes a core's launch (R9, R59, R64, R268, R349). -/
structure Launch where
  errand : RecNo := 0
  asid : BitVec 12 := 0
  rank : Nat := 0
  size : Nat := 0
  sx : BitVec 7 := 0
  sy : BitVec 7 := 0
  trapring : DWord := 0
  statring : DWord := 0
  maxred : Nat := 0
  code : DWord := 0
  csize : Nat := 0
  constLo : Nat := 0
  constHi : Nat := 0
  spec : SpecStatus := {}
  /-- The residual the launch runs, by its cache entry (R339). -/
  residual : Option Nat := none
  deriving DecidableEq, Repr

/-- A core's part in a cut or stop (R282, R283). -/
structure CutState where
  lap : Nat := 0
  lc : Option (BitVec 8) := none
  /-- Asked to stop: the next cut ahead it reported, and the target once it is known. -/
  asked : Option (Nat × Nat) := none
  target : Option (Nat × Nat) := none
  /-- Stopped, with its quantum ended (R283.3) or for a save (R279). -/
  stopped : Bool := false
  /-- The quiet bundle last begun has issues still to come (R283.3). -/
  within : Bool := false
  deriving DecidableEq, Repr

/-- The matrix engine and the Loom (R143 to R180, R240 to R262). -/
structure Matrix where
  queue : List MatOp := []
  running : Option MatOp := none
  routine : Option Routine := none
  latches : Vector Latch 4 := Vector.replicate 4 {}
  /-- The microprogram store, eight bytes a word (R154), and its directory of first words and lengths (0: empty). -/
  ustore : Mem := []
  udir : Vector (BitVec 11 × BitVec 12) 256 := Vector.replicate 256 (0, 0)
  acc : Mem := []
  live : BitVec 8 := 0
  gridTiles : BitVec 8 := 0
  expl : FmtRec := { af := 1, bf := 1 }
  fmtTable : Vector (BitVec 256) 64 := Vector.replicate 64 0
  grid : Option Grid := none
  halo : Mem := []
  rules : Mem := []
  mode : RuleMode := {}
  fault : Option HeldFault := none
  /-- UFETCH's copies (R160). -/
  fetches : List CopyCmd := []
  /-- CYCLE at the last retirement point, and whether the queue is closed: by MAXRED (R169), or for the reload of
  the latches after a save (R152). -/
  retiredAt : Nat := 0
  closed : Bool := false
  reloading : Bool := false
  accepted : Nat := 0
  completed : Nat := 0
  deriving DecidableEq, Repr

/-- A word of code that an instruction cache holds (R11): the memory it is of (0 HBM, 1 host memory, 2 a residual), its address there, and
the word as it was fetched. -/
structure CodeWord where
  mem : Nat
  addr : Nat
  word : Nat
  deriving DecidableEq, Repr

/-- A core (R10, R58 and the chapters). -/
structure Core where
  s : Vector DWord 32 := Vector.replicate 32 0
  b : Vector Word 8 := Vector.replicate 8 0
  q : Vector (BitVec 1) 8 := Vector.replicate 8 0
  n : Vector Word 6 := Vector.replicate 6 0
  g : Vector Word 64 := Vector.replicate 64 0
  arr : Vector DWord 8 := Vector.replicate 8 0
  v : Vector VReg 32 := Vector.replicate 32 0
  k : Vector Pred 8 := Vector.replicate 8 0
  m : Vector DWord 8 := Vector.replicate 8 0
  patFront : Vector VReg 64
  patBack : Vector VReg 64
  ctl : Ctl := {}
  inForce : InForce := {}
  pc : DWord := 0
  /-- Which issue of a bundle with RPT > 0 comes next (R33). -/
  issue : Nat := 0
  /-- STOP of the last bundle: it applies to the next (R37). -/
  stop : Bool := false
  /-- R67: interlocked until the next bundle with RP = 1. -/
  interlocked : Bool := false
  /-- The bundle a restart went back to has not issued yet (R67). -/
  restarted : Bool := false
  pend : List Pending := []
  sticky : Stickies := {}
  snapshot : Snapshot := {}
  /-- A TIMING trap waits for its restart (R67), since this cycle. -/
  restart : Option Nat := none
  trapCtx : Option HandlerCtx := none
  arrCtx : Option HandlerCtx := none
  pendingA : List PendingTrap := []
  /-- Records waiting for the trap ring, oldest first, and SEQ of classes 0 to 3 (R264, R269). -/
  records : List TrapRecord := []
  seq : Vector (BitVec 24) 4 := Vector.replicate 4 0
  status : CoreStatus := .off
  hold : Hold := .none
  holdSince : Nat := 0
  /-- The wall-clock time at which the hold began (R277). -/
  holdAt : Nat := 0
  /-- The wait of the held issue is met: the bundle issues (R85 to R87). -/
  released : Bool := false
  /-- Arrivals at each of the eight barriers since kernel start, the first first: the cycle of each and the quantum it ended, and the barrier
  at which the held bundle has arrived (R86). -/
  arrivals : Vector (List (Nat × Nat)) 8 := Vector.replicate 8 []
  arrived : Option (BitVec 3) := none
  /-- The next bundle issues in this cycle at the earliest, after FMTSET (R116) or VPATSW (R139). -/
  notBefore : Nat := 0
  /-- A TRET has come back into the middle of a repeated bundle: pending traps go first (R275). -/
  returned : Bool := false
  /-- Classes 0 to 3 whose oldest record has found the trap ring full (R269). -/
  ringHeld : BitVec 4 := 0
  /-- SPRINT or SPRINTX awaiting its answer (R301): destination, requested microseconds and level (0 for SPRINTX). -/
  request : Option (BitVec 5 × DWord × BitVec 2) := none
  answer : Option DWord := none
  /-- The destination is in the arrival bank, as it was named at the issue (R32, R60). -/
  answerArr : Bool := false
  /-- A diversion waits for the answer, which goes to one of s24 to s31 (R60). -/
  divertDue : Bool := false
  fetchFault : Option HeldFault := none
  /-- The instruction cache (R11, R69). -/
  icache : List CodeWord := []
  bench : Mem := []
  buffer : List BufStore := []
  /-- The 64 handles (R181) and the eight rings (R187). -/
  handles : Vector Handle 64 := Vector.replicate 64 {}
  rings : Vector (Option Ring) 8 := Vector.replicate 8 none
  c0 : CopyEngine := {}
  c1 : CopyEngine := {}
  matrix : Matrix := {}
  statRing : List (DWord × DWord) := []
  statSums : Vector Nat 5 := Vector.replicate 5 0
  statFired : BitVec 5 := 0
  statStart : Nat := 0
  cut : CutState := {}
  /-- Stopped for a save or a cut, it has ended its quantum (R230). -/
  stopEnded : Bool := false
  launch : Option Launch := none
  /-- The context of the issue under way: bundle address, slot, re-issue count, header and where the next bundle is. -/
  baddr : DWord := 0
  nextPc : DWord := 0
  nextIssue : Nat := 0
  slot : Nat := 0
  reissue : Nat := 0
  tileOk : Bool := true
  /-- Cycles this core issued in, and was held for memory, in the sensitivity window (R308). -/
  issued : Nat := 0
  heldMem : Nat := 0
  deriving DecidableEq, Repr

/-! ### Clusters and dies -/

/-- A lease (R295). -/
structure Lease where
  level : BitVec 2
  ends : Nat
  deriving DecidableEq, Repr

/-- A command of the scatter-accumulate engine (R207, R208). -/
structure SaccCmd where
  core : CoreNo
  eng : BitVec 1
  hi : BitVec 6
  hv : BitVec 6
  base : DWord
  opc : BitVec 3
  /-- The quantum it was issued in, which is the round it joins. -/
  round : Nat
  /-- Elements applied. -/
  pos : Nat := 0
  charge : Charge := {}
  deriving DecidableEq, Repr

/-- A translation cache's entry (R223): the virtual range of an ASID that a page-table entry governs, and the entry as it was read. -/
structure CachedPage where
  asid : BitVec 12
  base : Nat
  size : Nat
  pte : Nat
  deriving DecidableEq, Repr

/-- An access that a yard bank serves (R214): the bank, the cycle, and the requester: 3i, 3i + 1 and 3i + 2 the core side, C0 and C1 of the
core with local index i, 24 the scatter-accumulate engine. -/
structure BankUse where
  bank : Nat
  cycle : Nat
  requester : Nat
  deriving DecidableEq, Repr

/-- A cluster (R8, R292 to R313). -/
structure Cluster where
  yard : Mem := []
  /-- The accesses of the yard's banks that a core's cycle has not passed (R214). -/
  bankUses : List BankUse := []
  /-- Quanta committed since kernel start (R229). -/
  committed : Nat := 0
  sacc : List SaccCmd := []
  saccRounds : Nat := 0
  lease : Option Lease := none
  /-- The base clock chosen by sensitivity (R308), the slack cap (none: no cap), and the clock now running. -/
  base : Nat := 800
  /-- SENS as it acts in the window (R311), and when the window began; the slack window's start. -/
  sens : DWord := 0x02BC012C03200190
  windowAt : Nat := 0
  slackAt : Nat := 0
  cap : Option Nat := none
  mhz : Nat := 800
  throttled : Bool := false
  throttleAt : Option Nat := none
  tmax : BitVec 12 := 0
  pressure : BitVec 2 := 0
  pressureAt : Nat := 0
  droopSplits : Nat := 0
  pmon : BitVec 16 := 0
  /-- Times of the corrected errors of the last hour, and of the P3 time in the last second (R312). -/
  corrected : List Nat := []
  p3Since : Option Nat := none
  p3Spans : List (Nat × Nat) := []
  fenced : Bool := false
  /-- Largest slack seen in the window, whether COLL was issued, and the throttling marks of three windows (R310). -/
  slack : Option Int := none
  collSeen : Bool := false
  throttleMarks : BitVec 3 := 0
  /-- The translation cache (R223). -/
  tlb : List CachedPage := []
  deriving DecidableEq, Repr

/-- A compute die: its loft (R215, R216) and its melt zone (R296, R297, R302). -/
structure Die where
  loft : Mem := []
  /-- The errand that holds each bay. -/
  bays : Vector (Option RecNo) 384 := Vector.replicate 384 none
  melt : BitVec 10 := 0
  refreeze : Bool := false
  lastHot : Nat := 0
  deriving DecidableEq, Repr

/-! ### The hub -/

/-- An errand's state and wait reason (R315, R322). -/
inductive ErrandState where
  | idle | running | waiting | parked | faulted | done | killed
  deriving DecidableEq, Repr

inductive WaitReason where
  | none | wait | joinpt | preempt | host | failover | gang
  deriving DecidableEq, Repr

/-- A step in flight (R325): its index, the step, and its progress. -/
structure StepInFlight where
  index : Nat
  /-- Tells it from another execution of the same step, which fetch may reach again by GOTO. -/
  no : Nat := 0
  instr : Instr
  /-- R338: a LAUNCH with GANG = 1 of a member of a gang. -/
  gang : Bool := false
  started : Bool := false
  /-- Bytes moved by an XFER or LOFT. -/
  pos : Nat := 0
  fault : Option HeldFault := none
  /-- Its effect is made: STEP_COMPLETION is still to come. -/
  finished : Bool := false
  deriving DecidableEq, Repr

/-- A capability of the journal (R365): NOT_DONE, DONE with its reply, or REFUSED. -/
inductive JournalState where
  | notDone | done (reply : BitVec 512) | refused
  deriving DecidableEq, Repr

structure JournalEntry where
  cap : BitVec 3
  callno : DWord
  state : JournalState
  /-- The choice its effect depends on, once made: an arena address, a ring slot, the tile reached. -/
  choice : Option Nat := none
  deriving DecidableEq, Repr

/-- An errand record (R314, R316, R322). -/
structure Errand where
  state : ErrandState := .idle
  reason : WaitReason := .none
  /-- The state before a park (R320, R334). -/
  before : ErrandState := .idle
  beforeReason : WaitReason := .none
  token : DWord := 0
  home : BitVec 16 := 0
  port : Port := .a
  prog : DWord := 0
  trap : DWord := 0
  stat : DWord := 0
  save : DWord := 0
  savecl : BitVec 16 := 0
  asid : BitVec 12 := 0
  next : Nat := 0
  inflight : List StepInFlight := []
  join : Option (DWord × DWord) := none
  gang : Option Word := none
  pstatA : BitVec 8 := 0
  pstatB : BitVec 8 := 0
  estat : BitVec 16 := 0
  fidx : DWord := 0
  launches : DWord := 0
  prodSeen : DWord := 0
  cutt : Word := 0
  orph : Bool := false
  /-- A WAIT reached and not met, with the page fault it is held on (R326, R327). -/
  waitStep : Option (Nat × Instr) := none
  waitFault : Option HeldFault := none
  /-- The fetch of a step is held on a page fault. -/
  fetchFault : Option HeldFault := none
  journal : List JournalEntry := []
  /-- Hub-side records waiting for the ring (R269) and the SEQ of each (class, unit) of classes 4 to 7 (R264). -/
  records : List TrapRecord := []
  seqs : List ((Nat × Nat) × BitVec 24) := []
  /-- A cut asked of the errand: when, and for a park (true) or a gang stop. -/
  cutAsked : Option (Nat × Bool) := none
  /-- A save in progress ends as this reason (R332). -/
  saving : Option WaitReason := none
  /-- Since when it has held no crew, for the Foreman's order (R336). -/
  noCrew : Nat := 0
  killPending : Bool := false
  /-- The kill that waits is a reaping (R335). -/
  reap : Bool := false
  /-- The state that adoption goes back to (R334). -/
  adoptTo : ErrandState × WaitReason := (.running, .none)
  deriving DecidableEq, Repr

/-- A kernel descriptor and what a LAUNCH read with it (R328, R339). -/
structure Kernel where
  kid : DWord := 0
  code : DWord := 0
  csize : Nat := 0
  sx : BitVec 7 := 0
  sy : BitVec 7 := 0
  mode0 : BitVec 5 := 0
  fitgrow : Nat := 0
  maxred : Nat := 0
  roles : List Word := []
  config : DWord := 0
  image : List Byte := []
  uniform : List Word := []
  deriving DecidableEq, Repr

/-- A participant's part of a collective segment (R209). -/
structure CollPart where
  core : CoreNo := 0
  eng : BitVec 1 := 0
  hs : BitVec 6 := 0
  hd : BitVec 6 := 0
  desc : BitVec 256
  data : List Byte := []
  poison : Bool := false
  /-- The participant table it read. -/
  table : List Nat := []
  /-- It came over the links from another package: none of the cores here is its participant. -/
  foreign : Bool := false
  /-- Its core's launch is over: the segment goes on without it. -/
  gone : Bool := false
  /-- When it arrived at its package's link stop, and whether that time is a reference (R310). -/
  arrived : Nat := 0
  reference : Bool := true
  charge : Charge := {}
  deriving DecidableEq, Repr

/-- A crew cluster as a save leaves it (R231, R279). -/
structure SavedCluster where
  yard : Mem
  committed : Nat
  saccRounds : Nat
  die : DieNo
  deriving DecidableEq, Repr

/-- A saved crew: its cores and clusters in rank order, the clusters it ran on, by which its calls at the wicket still name its cores, and what
its link stop holds of collectives that wait on other packages (R285). -/
structure SavedCrew where
  on : List ClusterNo
  cores : List Core
  clusters : List SavedCluster
  colls : List CollPart := []
  deriving DecidableEq, Repr

/-- A launch that waits for a crew (R336), with the saved state of a parked one (R279, R280). -/
structure LaunchReq where
  errand : RecNo
  prio : BitVec 3
  gang : Bool
  kernel : Kernel
  spec : SpecStatus := {}
  residual : Option Nat := none
  saved : Option SavedCrew := none
  /-- Host-parked, waiting for failover adoption, or waiting for its gang: not runnable. -/
  parked : Bool := false
  /-- A core of the saved crew was contained (R277): the launch ends faulted. -/
  faulted : Bool := false
  containedAt : Option Nat := none
  deriving DecidableEq, Repr

/-- A running launch (R14, R336): clusters in rank order. -/
structure Crew where
  errand : RecNo
  prio : BitVec 3
  gang : Bool
  kernel : Kernel
  spec : SpecStatus := {}
  residual : Option Nat := none
  clusters : List ClusterNo
  granted : Nat := 0
  faulted : Bool := false
  /-- Being stopped for a save. -/
  stopping : Bool := false
  /-- The errand was killed or reaped: the crew only winds down (R333). -/
  killed : Bool := false
  /-- When a core of it was first contained (R277). -/
  containedAt : Option Nat := none
  deriving DecidableEq, Repr

/-- A fitting job (R339). -/
structure FitJob where
  req : LaunchReq
  /-- 0: just taken; 1: fitting. -/
  stage : Nat := 0
  taken : Nat := 0
  deriving DecidableEq, Repr

/-- A cache entry (R350, R351) with its residual: for each role entry its counts, and the residual bundles. -/
structure CacheEntry where
  id : Nat
  kid : DWord
  mask : DWord
  values : List Word
  digest : DWord
  config : DWord
  /-- Where the kernel's code was when it was fitted. -/
  code : DWord := 0
  /-- Residual start and counts of each role program, by role entry address. -/
  progs : List (DWord × DWord × SpecStatus) := []
  bundles : List ResBundle := []
  /-- Residual entries by original address (R345), in code at `code`. -/
  entries : List (DWord × DWord) := []
  bytes : Nat := 0
  pins : Nat := 0
  dropped : Bool := false
  nocache : Bool := false
  deriving DecidableEq, Repr

/-- A call at the wicket (R363). -/
structure Call where
  errand : RecNo
  core : CoreNo
  cap : BitVec 3
  reply : BitVec 6
  block : BitVec 512
  charge : Charge := {}
  /-- Its clerk has written its NOT_DONE entry (R365). -/
  running : Bool := false
  /-- Its reply, which waits for the errand to resume (R364). -/
  answer : Option (BitVec 512) := none
  /-- The launch that issued it is over: its reply has nowhere to land. -/
  lost : Bool := false
  fault : Option HeldFault := none
  deriving DecidableEq, Repr

/-- What a sequence header says of an AV1 stream (R373, notes/assumptions/33.md), under the names of that format. -/
structure Av1Seq where
  reduced : Bool
  profile : Nat
  level : Nat
  /-- Of each operating point, its layers and whether it has decoder model parameters. -/
  points : List (Nat × Bool)
  modelInfo : Bool
  equalPicture : Bool
  removalBits : Nat
  timeBits : Nat
  widthBits : Nat
  heightBits : Nat
  maxWidth : Nat
  maxHeight : Nat
  /-- The bits of a frame id and of a difference of two: 0 where frames have none. -/
  idBits : Nat
  deltaIdBits : Nat
  sb128 : Bool
  /-- 2 where each frame chooses. -/
  screen : Nat
  intMv : Nat
  orderBits : Nat
  superres : Bool
  cdef : Bool
  restoration : Bool
  depth : Nat
  mono : Bool
  subX : Bool
  subY : Bool
  separateUv : Bool
  grain : Bool
  deriving DecidableEq, Repr

/-- A decoded frame (R373): its size, depth and planes, the value of all its samples where the model works that out, and the bytes of the
stream up to its end. -/
structure FrameData where
  width : Nat
  height : Nat
  depth : Nat
  mono : Bool
  flat : Option Nat
  source : List Byte
  deriving DecidableEq, Repr

/-- A reference frame that an AV1 decoder keeps, and whether it is corrupt (R374). -/
structure Av1Ref where
  frame : FrameData
  corrupt : Bool
  key : Bool
  showable : Bool
  orderHint : Nat
  deriving DecidableEq, Repr

/-- Where a decoder stands in its stream: the bytes it has read, the sequence header in force and the eight reference frames. -/
structure Av1Stream where
  bytes : List Byte := []
  seq : Option Av1Seq := none
  refs : Vector (Option Av1Ref) 8 := Vector.replicate 8 none
  /-- What follows cannot be told apart into OBUs. -/
  lost : Bool := false
  deriving DecidableEq, Repr

/-- The frame a decoder has in hand (R373, R374): whether it is corrupt, and its tiles delivered. -/
structure FrameInHand where
  frame : FrameData
  corrupt : Bool
  done : Nat := 0
  deriving DecidableEq, Repr

/-- A decode job (R372, R373). -/
structure DecodeJob where
  call : Call
  ring : BitVec 3
  rank : Nat
  fmt : BitVec 2
  planes : Bool
  tw : Nat
  th : Nat
  limit : Nat
  tiles : Nat := 0
  frames : Nat := 0
  poisoned : Nat := 0
  frame : Option FrameInHand := none
  stream : Av1Stream := {}
  deriving DecidableEq, Repr

/-- A segment that has aborted, and the table entries of the participants that have yet to issue (R210). -/
structure AbortedColl where
  group : Nat
  seg : Nat
  left : List Nat
  deriving DecidableEq, Repr

/-- A far write that a reader at PKG or SYS may not see yet (R232): the core and engine (0 C0, 1 C1, 2 M) it is of, and what it writes
where, in HBM (in a die's fabric egress) or in host memory (accepted by the CXL port, not completed by the host). -/
structure FarWrite where
  host : Bool := false
  core : CoreNo
  eng : Nat
  pa : Nat
  bytes : List Byte
  deriving DecidableEq, Repr

/-- A read of the NVMe initiator (R371): a page-cache entry, the bytes of its page, its frame, and where its blocks begin. -/
structure FileRead where
  index : Nat
  size : Nat
  frame : Nat
  nsid : Nat
  lba : Nat
  deriving DecidableEq, Repr

/-- The notice block of a port (R331). -/
structure NoticeBlock where
  nrbase : DWord := 0
  prod : Word := 0
  lost : Word := 0
  cons : Word := 0
  deriving DecidableEq, Repr

/-- The steward lease (R369). -/
structure StewardLease where
  holder : BitVec 3 := 0
  epoch : Nat := 0
  expiry : Nat := 0
  deriving DecidableEq, Repr

/-- An MSI-X message sent: port and vector (R330). -/
structure Msix where
  port : Port
  vector : Nat
  deriving DecidableEq, Repr

/-- The hub die (R12). -/
structure Hub where
  errands : Vector Errand 2048 := Vector.replicate 2048 {}
  /-- The active port and its lease end; failovers (R334). -/
  active : Option Port := none
  leaseEnd : Nat := 0
  focnt : BitVec 8 := 0
  noticeA : NoticeBlock := {}
  noticeB : NoticeBlock := {}
  msix : List Msix := []
  /-- What the last QUERY returned (R322), and the last read by the host through BAR 0. -/
  queried : Option (Port × RecNo × BitVec 512) := none
  /-- BAR 0 registers of the shared blocks that hold a written value (R224, R311, R331, R353, R360, R367, R368, R370,
  R405), by offset. -/
  bar0 : RegBlock := []
  /-- Queued invalidations, DONE and DROP (R225). -/
  invals : List DWord := []
  invDone : Word := 0
  invDrop : Bool := false
  stewards : List (BitVec 12 × DWord × BitVec 16) := []
  steward : StewardLease := {}
  /-- The Foreman (R336): launches waiting, crews running; FIT queue and engines (R339). -/
  waiting : List LaunchReq := []
  crews : List Crew := []
  fitQueue : List LaunchReq := []
  fitters : Vector (Option FitJob) 4 := Vector.replicate 4 none
  cache : List CacheEntry := []
  nextEntry : Nat := 0
  wicket : List Call := []
  calls : List Call := []
  decodeQueue : List DecodeJob := []
  decoders : Vector (Option DecodeJob) 16 := Vector.replicate 16 none
  /-- Clerk switches: ST and the time a draining one began (R368), for capabilities 0 to 7. -/
  clerkSt : Vector (BitVec 2) 8 := Vector.replicate 8 0
  clerkAt : Vector Nat 8 := Vector.replicate 8 0
  /-- GO written while no steward led (R369); HASH of the image a switch is to start. -/
  clerkAsk : BitVec 8 := 0
  clerkNew : Vector (List Byte) 8 := Vector.replicate 8 []
  colls : List CollPart := []
  aborted : List AbortedColl := []
  /-- Errands of which a kill or a containment has lost the collectives, until they run a launch again (R210). -/
  lostErrands : List RecNo := []
  /-- The writes in the fabric egresses of the four dies, and those to host memory that the host has not completed, oldest first (R232). -/
  egress : List FarWrite := []
  /-- What the hub's walkers hold of the page tables for the hub's own units (R223, R225). -/
  tlb : List CachedPage := []
  /-- Allocated arena ranges: ASID, base and size (R367). -/
  arenas : List (BitVec 12 × Nat × Nat) := []
  /-- File blocks written by FILE WRITE and FLUSH, by namespace and block (R367, R371). -/
  flushed : List (Nat × Nat) := []
  /-- Reads of the NVMe initiator under way (R371). -/
  reads : List FileRead := []
  attest : Bool := false
  attestAddr : DWord := 0
  /-- Bytes 0 to 255 of the report under way. -/
  attestHead : List Byte := []
  /-- HASH of the images in service (R402, R406): the hub steward's, the compute-die stewards', and the clerks' of capabilities 1 to 7. -/
  images : Vector (List Byte) 9 := Vector.replicate 9 []
  /-- The boot flash (R402): the bytes of the images of slot A and then of slot B, of each the hub steward's, the compute-die stewards' and the
clerks' of capabilities 1 to 7; bytes past those listed are 0. -/
  flash : Vector (List Byte) 18 := Vector.replicate 18 []
  ready : Bool := false
  recov : Bool := false
  slotB : Bool := false
  fail : BitVec 8 := 0
  replaced : Bool := false
  lastCl : ClusterNo := 0
  lastLim : BitVec 2 := 0
  hbmTemp : Vector (BitVec 12) 12 := Vector.replicate 12 0
  /-- The sixteen Chetia link receivers (R285): the last sequence number each has delivered, the flits it saves undelivered while a gang is
stopped, and the flits delivered, oldest first. -/
  linkSeq : Vector Nat 16 := Vector.replicate 16 0
  linkHeld : Vector (List (Nat × BitVec 512)) 16 := Vector.replicate 16 []
  linkTaken : List (BitVec 4 × Nat × BitVec 512) := []
  /-- The sixteen senders: the last sequence number each has used, its unacknowledged flits, and what has gone out, oldest first. -/
  linkLast : Vector Nat 16 := Vector.replicate 16 0
  linkUnacked : Vector (List (Nat × BitVec 512)) 16 := Vector.replicate 16 []
  linkSent : List (BitVec 4 × Nat × BitVec 512) := []
  /-- Gangs with members on other packages, and those of them that are stopped (R285, R338). -/
  spanning : List Word := []
  stopped : List Word := []
  /-- Package resets so far: it numbers the undefined loft phases (R216). -/
  resets : Nat := 0
  /-- The hub's time counter starts at this wall-clock moment (R263). -/
  epoch0 : Nat := 0
  deriving DecidableEq, Repr

/-- What reaches the package from outside, or a choice the spec leaves open made explicitly. -/
inductive Input where
  /-- An operation or event. -/
  | op (i : Instr)
  /-- A write of `size` bytes at an offset of an errand-port page (R317). -/
  | portWrite (p : Port) (page : RecNo) (off : BitVec 12) (size : Nat) (bits : BitVec 512)
  /-- A read of `size` bytes at an offset of an errand-port page (R317). -/
  | portRead (p : Port) (page : RecNo) (off : BitVec 12) (size : Nat)
  | bar0 (p : Port) (off : BitVec 20) (v : DWord)
  /-- RENEW reaches the hub through both ports in one cycle (R334). -/
  | renewBoth
  /-- A participant on another package has issued its COLL, and its part has come over the links (R209, R310). -/
  | collPart (desc : BitVec 256) (data : List Byte) (poison : Bool) (arrived : Nat) (reference : Bool)
  /-- The far data of an engine's command under way (0 C0, 1 C1, 2 UFETCH) has an uncorrectable error (R193). -/
  | farError (c : CoreNo) (eng : BitVec 2)
  /-- The new image of a clerk cannot complete a call that it replays (R368). -/
  | replayFails (call : CallRef) (cap : BitVec 3)
  /-- The memory of an errand's trap ring has an uncorrectable error, met at the next record (R269), or that of the statistics ring of a core's
errand (R288). -/
  | ringError (r : RecNo)
  | statRingError (c : CoreNo)
  /-- A gang has members on other packages, or has none any more; its STOP or its GO has been carried here over the links (R285, R338). -/
  | gangSpans (gang : Word) (spans : Bool)
  | gangStop (gang : Word)
  | gangGo (gang : Word)
  /-- A link sender sends a flit, or its peer acknowledges all up to a sequence number (R285). -/
  | linkSend (port : BitVec 4) (payload : BitVec 512)
  | linkAck (port : BitVec 4) (seq : Nat)
  /-- An uncorrectable error is met while the save of an errand is written (R281). -/
  | saveError (r : RecNo)
  /-- The hub's walkers hold the entry of a page as it stands now, or let the entry at a place in their list go (R223, R225). -/
  | hubWalk (asid : BitVec 12) (va : DWord)
  | hubForget (n : Nat)
  /-- A core's instruction cache takes the word at a virtual address before it is asked for, or lets the word at a place in its list go
  (R11). -/
  | codeTake (c : CoreNo) (va : DWord)
  | codeForget (c : CoreNo) (n : Nat)
  /-- An image is written to the boot flash from outside, over its SPI lines (R401, R402). -/
  | flashWrite (slotB : Bool) (image : BitVec 4) (bytes : List Byte)
  /-- A sample of a stack's temperature (R311). -/
  | stackTemp (stack : BitVec 4) (t : BitVec 12)
  deriving DecidableEq, Repr

/-- An input to come: it is taken after `after` events of the machine's own, and `ns` nanoseconds pass with it. -/
structure Due where
  after : Nat := 0
  ns : Nat := 0
  input : Input
  deriving DecidableEq, Repr

/-- The whole machine. `agenda`, `turn`, `free` and `cur` are the model's own (notes/assumptions/1.md, 6.md, 7.md). -/
structure State where
  /-- Wall-clock nanoseconds since the machine began. -/
  now : Nat
  /-- Inputs to come. -/
  agenda : List Due
  /-- Where the scheduler looks first. -/
  turn : Nat
  /-- How many free values have been taken. -/
  free : Nat
  /-- The core that the operation under way belongs to. -/
  cur : CoreNo
  cores : Vector Core 512
  clusters : Vector Cluster 64
  dies : Vector Die 4
  hbm : Mem
  host : Mem
  hub : Hub
  deriving DecidableEq, Repr

/-- The identity pattern (R121): byte i holds i. -/
def identityPattern : VReg := (List.range 128).foldl (fun a i => a ||| (BitVec.ofNat 1024 i <<< (8 * i))) 0

/-- A core that holds no kernel: its state is undefined until a launch (R409), filled as notes/assumptions/2.md says. -/
def Core.blank : Core :=
  { patFront := Vector.replicate 64 identityPattern, patBack := Vector.replicate 64 identityPattern }

/-- The package right after package reset (R409). -/
def State.reset : State :=
  { now := 0, agenda := [], turn := 0, free := 0, cur := 0
    cores := Vector.replicate 512 Core.blank
    clusters := Vector.replicate 64 {}
    dies := Vector.replicate 4 {}
    hbm := [], host := [], hub := {} }

end Sys2Proof.Machine
end

