-- ==== Sys2Proof/Machine/Mem.lean ====
section
/-! DEFINITION. Reading and writing a sparse memory, and little-endian numbers (R2). -/

namespace Sys2Proof.Machine

/-- The canonical form: addresses strictly rising, no byte equal to what an unlisted address reads as. -/
def Mem.wf : Mem → Bool
  | [] => true
  | [c] => c.2 != 0
  | c :: d :: m => c.2 != 0 && c.1 < d.1 && Mem.wf (d :: m)

/-- One byte; an unlisted address reads as 0. -/
def Mem.read : Mem → Nat → Byte
  | [], _ => 0
  | (k, b) :: m, a => if k = a then b else Mem.read m a

/-- `n` bytes from `a` on, of cells that all lie at `a` or above. -/
def Mem.take : Nat → Nat → Mem → List Byte
  | 0, _, _ => []
  | n + 1, a, [] => 0 :: Mem.take n (a + 1) []
  | n + 1, a, (k, b) :: m => if k = a then b :: Mem.take n (a + 1) m else 0 :: Mem.take n (a + 1) ((k, b) :: m)

/-- `n` bytes from address `a` on. -/
def Mem.bytes (m : Mem) (a n : Nat) : List Byte := Mem.take n a (m.dropWhile (fun c => c.1 < a))

/-- The cells of consecutive bytes, zeros left out. -/
def Mem.cells : Nat → List Byte → Mem
  | _, [] => []
  | a, b :: bs => if b = 0 then Mem.cells (a + 1) bs else (a, b) :: Mem.cells (a + 1) bs

/-- Writes consecutive bytes from address `a` on. -/
def Mem.write (m : Mem) (a : Nat) (bs : List Byte) : Mem :=
  m.filter (fun c => c.1 < a) ++ Mem.cells a bs ++ m.filter (fun c => a + bs.length ≤ c.1)

/-- Bytes with addresses, gathered into runs of consecutive addresses, in order. -/
def runsOf : List (Nat × Byte) → List (Nat × List Byte)
  | [] => []
  | (a, b) :: ws =>
    match runsOf ws with
    | (c, bs) :: rs => if c = a + 1 then (a, b :: bs) :: rs else (a, [b]) :: (c, bs) :: rs
    | [] => [(a, [b])]

/-- Writes bytes at addresses of their own, a later one over an earlier. -/
def Mem.writeEach (m : Mem) (ws : List (Nat × Byte)) : Mem := (runsOf ws).foldl (fun m w => Mem.write m w.1 w.2) m

/-- The number of little-endian bytes. -/
def leNat : List Byte → Nat
  | [] => 0
  | b :: bs => b.toNat + 256 * leNat bs

/-- The `n` low bytes of a number, lowest first. -/
def leBytes : Nat → Nat → List Byte
  | 0, _ => []
  | n + 1, v => BitVec.ofNat 8 v :: leBytes n (v / 256)

/-- A little-endian number of `n` bytes at `a`. -/
def Mem.num (m : Mem) (a n : Nat) : Nat := leNat (m.bytes a n)

/-- A register of a block, `d` where none is listed. -/
def RegBlock.get (r : RegBlock) (o : Nat) (d : DWord) : DWord := ((r.find? (fun p => p.1 == o)).map (·.2)).getD d

def RegBlock.set (r : RegBlock) (o : Nat) (v : DWord) : RegBlock :=
  r.filter (fun p => p.1 < o) ++ (o, v) :: r.filter (fun p => o < p.1)

/-- Bits of a number, as a number: `n` bits from `lo` on. -/
def bitsOf (w lo n : Nat) : Nat := w / 2 ^ lo % 2 ^ n

/-- The value of a two's-complement number of `n` bits. -/
def toSigned (n v : Nat) : Int := if v % 2 ^ n < 2 ^ (n - 1) then (v % 2 ^ n : Nat) else (v % 2 ^ n : Nat) - (2 ^ n : Nat)

/-- An exact integer as a two's-complement pattern of `n` bits. -/
def ofSigned (n : Nat) (x : Int) : Nat := (x % (2 ^ n : Nat)).toNat

end Sys2Proof.Machine
end

