-- ==== Sys2Proof/Machine/Ops.lean ====
section
/-! DEFINITION. The named operations over the machine: cores and registers (R58 to R60), pending results (R65, R101),
statistics events (R288), local memories and their checks (R79, R133, R183, R212, R213), the store buffer (R228), address
translation (R217 to R221), and taking a trap and returning from one (R266, R272 to R275). -/

namespace Sys2Proof.Machine

/-- What a meaning answers. -/
abbrev Result := Host.Outcome State Fault Refusal

/-! ### Cores and clusters -/

def State.core (s : State) (c : CoreNo) : Core := s.cores[c.toNat]

def State.setCore (s : State) (c : CoreNo) (k : Core) : State :=
  { s with cores := s.cores.set c.toNat k }

def State.updCore (s : State) (c : CoreNo) (f : Core → Core) : State := s.setCore c (f (s.core c))

/-- The core the operation under way belongs to. -/
def State.me (s : State) : Core := s.core s.cur
def State.setMe (s : State) (k : Core) : State := s.setCore s.cur k
def State.updMe (s : State) (f : Core → Core) : State := s.updCore s.cur f

/-- R8: the cluster of a core, the die of a cluster. -/
def clusterOf (c : CoreNo) : ClusterNo := BitVec.ofNat 6 (c.toNat / 8)
def dieOf (cl : ClusterNo) : DieNo := BitVec.ofNat 2 (cl.toNat / 16)
def coreAt (cl : ClusterNo) (i : Nat) : CoreNo := BitVec.ofNat 9 (cl.toNat * 8 + i)

def State.cluster (s : State) (cl : ClusterNo) : Cluster := s.clusters[cl.toNat]
def State.setCluster (s : State) (cl : ClusterNo) (k : Cluster) : State :=
  { s with clusters := s.clusters.set cl.toNat k }
def State.updCluster (s : State) (cl : ClusterNo) (f : Cluster → Cluster) : State := s.setCluster cl (f (s.cluster cl))
def State.die (s : State) (d : DieNo) : Die := s.dies[d.toNat]
def State.setDie (s : State) (d : DieNo) (k : Die) : State := { s with dies := s.dies.set d.toNat k }
def State.updDie (s : State) (d : DieNo) (f : Die → Die) : State := s.setDie d (f (s.die d))
def State.errand (s : State) (r : RecNo) : Errand := s.hub.errands[r.toNat]
def State.updHub (s : State) (f : Hub → Hub) : State := { s with hub := f s.hub }
def State.setErrand (s : State) (r : RecNo) (e : Errand) : State :=
  s.updHub fun h => { h with errands := h.errands.set r.toNat e }
def State.updErrand (s : State) (r : RecNo) (f : Errand → Errand) : State := s.setErrand r (f (s.errand r))
def State.myCluster (s : State) : ClusterNo := clusterOf s.cur
def State.myDie (s : State) : DieNo := dieOf s.myCluster

/-- The launch of a core; before one every launch-fixed register reads as 0 (notes/assumptions/2.md). -/
def Core.theLaunch (k : Core) : Launch := k.launch.getD {}

/-- The cores of the crew of core `c` that lie in its cluster, in ascending index: a crew holds whole clusters (R14). -/
def State.crewHere (s : State) (cl : ClusterNo) : List CoreNo :=
  ((List.range 8).map (coreAt cl)).filter fun c => (s.core c).launch.isSome && (s.core c).status != .off

/-- The crew that core `c` runs in: no two crews share a cluster (R14). -/
def State.crewAt (s : State) (c : CoreNo) : Option Crew := s.hub.crews.find? fun w => w.clusters.contains (clusterOf c)

/-- The cores of a crew in rank order. -/
def Crew.cores (w : Crew) : List CoreNo := w.clusters.flatMap fun cl => (List.range 8).map (coreAt cl)

/-- The physical core that reads `rank` from COREID in the crew of core `c` (R9). -/
def State.coreOfRank (s : State) (c : CoreNo) (rank : Nat) : Option CoreNo :=
  (s.crewAt c).bind fun w => (w.clusters[rank / 8]?).map fun cl => coreAt cl (rank % 8)

def State.updCrews (s : State) (f : Crew → Crew) : State := s.updHub fun h => { h with crews := h.crews.map f }

/-! ### Registers -/

/-- s[i] as the running code names it: s0 reads 0 (R58), and inside an arrival handler numbers 24 to 31 name the arrival
bank (R60). -/
def Core.readS (k : Core) (i : BitVec 5) : DWord :=
  if i = 0 then 0
  else if k.arrCtx.isSome && 24 ≤ i.toNat then k.arr[i.toNat - 24]'(by omega) else k.s[i.toNat]

/-- The write of s[i]: none for s0 (R58), the arrival bank inside an arrival handler (R60). -/
def Core.sWrite (k : Core) (i : BitVec 5) (v : DWord) : List RegWrite :=
  if i = 0 then []
  else if k.arrCtx.isSome && 24 ≤ i.toNat then [.arr (BitVec.ofNat 3 (i.toNat - 24)) v] else [.s i v]

/-- The predicate k[i]; k0 reads as all ones (R120). -/
def Core.readK (k : Core) (i : BitVec 3) : Pred := if i = 0 then BitVec.allOnes 128 else k.k[i.toNat]

/-- n[i]; the encodings admit 0 to 5. -/
def Core.readN (k : Core) (i : Nat) : Word := if h : i < 6 then k.n[i] else 0

/-- R4, R61, R62, R63, R114, R247, R248, R271, R289: a SETR of register `n`. Writes to RO and HW registers are ignored. -/
def Core.setCtl (k : Core) (n : BitVec 6) (v : DWord) : Core :=
  let c := k.ctl
  match n.toNat with
  | 0x06 => { k with ctl := { c with mode := v.setWidth 5 } }
  | 0x07 => { k with ctl := { c with trapvec := v &&& ~~~0xF#64 } }
  | 0x09 => { k with ctl := { c with statcfg := (v &&& 0x107FF#64) ||| (c.statcfg &&& 0x20000#64 &&& ~~~v) } }
  | 0x0A => { k with ctl := { c with statwin := v &&& 0xFFFFFFFF#64 }, statSums := Vector.replicate 5 0, statFired := 0,
                     statStart := c.cycle.toNat }
  | 0x0B => { k with ctl := { c with statthr := c.statthr.set 0 (v &&& 0xFFFFFFFF000000CF#64) } }
  | 0x0C => { k with ctl := { c with statthr := c.statthr.set 1 (v &&& 0xFFFFFFFF000000CF#64) } }
  | 0x0D => { k with ctl := { c with statthr := c.statthr.set 2 (v &&& 0xFFFFFFFF000000CF#64) } }
  | 0x0E => { k with ctl := { c with statthr := c.statthr.set 3 (v &&& 0xFFFFFFFF000000CF#64) } }
  | 0x0F => { k with ctl := { c with statthr := c.statthr.set 4 (v &&& 0xFFFFFFFF000000CF#64) } }
  | 0x10 => { k with ctl := { c with fb := v.setWidth 6 } }
  | 0x11 => { k with ctl := { c with flev := v.setWidth 3 } }
  | 0x13 => { k with ctl := { c with genCount := v.setWidth 32 } }
  | 0x17 => { k with ctl := { c with rnd := v.setWidth 2 } }
  | 0x1B => { k with ctl := { c with bound := v.setWidth 4 } }
  | 0x1D => { k with ctl := { c with flags := c.flags &&& ~~~(v.setWidth 4) } }
  | _ => k

/-- One register takes its value. -/
def Core.land1 (k : Core) : RegWrite → Core
  | .s i v => { k with s := k.s.set i.toNat v }
  | .arr i v => { k with arr := k.arr.set i.toNat v }
  | .b i v => { k with b := k.b.set i.toNat v }
  | .q i v => { k with q := k.q.set i.toNat v }
  | .n i v => if h : i.toNat < 6 then { k with n := k.n.set i.toNat v } else k
  | .v i v => { k with v := k.v.set i.toNat v }
  | .k i v => { k with k := k.k.set i.toNat v }
  | .m i v => { k with m := k.m.set i.toNat v }
  | .ctl i v => k.setCtl i v
  | .pat e v => { k with patBack := k.patBack.set e.toNat v }

def Core.cycleNat (k : Core) : Nat := k.ctl.cycle.toNat

/-- A result on its way, arriving `lat` cycles after this issue (R65). -/
def Core.push (k : Core) (lat : Nat) (ws : List RegWrite) (flags : BitVec 4 := 0) (evs : List StatEvent := [])
    (load : Bool := false) : Core :=
  { k with pend := k.pend ++ [{ due := k.cycleNat + lat, writes := ws, flags := flags, events := evs, load := load }] }

/-! ### Statistics (R286 to R290) -/

/-- R290: at the end of a window of LEN cycles every sum restarts. -/
def Core.rollWindow (k : Core) : Core :=
  let len := k.inForce.statwin.toNat
  if len = 0 || k.cycleNat < k.statStart + len then k
  else { k with statSums := Vector.replicate 5 0, statFired := 0
                statStart := k.statStart + (k.cycleNat - k.statStart) / len * len }

/-- R290: threshold `i` of `thrs` adds an event to its sum, and fires with it at most once a window. -/
def countOne (thrs : Vector DWord 5) (e : StatEvent) (acc : Core × List (Nat × Nat)) (i : Nat) : Core × List (Nat × Nat) :=
  if h : i < 5 then
    let k := acc.1
    if thrs[i].toNat / 128 % 2 == 1 && thrs[i].toNat % 16 == e.cls then
      let sum := k.statSums[i] + e.count
      let limit := thrs[i].toNat / 2 ^ 32
      let fires := limit != 0 && limit ≤ sum && !k.statFired.getLsbD i
      ({ k with statSums := k.statSums.set i sum
                statFired := if fires then k.statFired ||| (1#5 <<< i) else k.statFired },
       if fires then acc.2 ++ [(i, e.cls)] else acc.2)
    else acc
  else acc

/-- R290: adds an event to the threshold sums and gives the thresholds that fire with it: number and class. -/
def Core.countEvent (k : Core) (e : StatEvent) : Core × List (Nat × Nat) :=
  if k.inForce.statwin = 0 then (k, [])
  else (List.range 5).foldl (countOne k.inForce.statthr e) (k.rollWindow, [])

/-- R286: the two words of a statistics record. -/
def StatEvent.words (e : StatEvent) : DWord × DWord :=
  (BitVec.ofNat 64 (e.addr.toNat / 4 % 2 ^ 55 * 2 ^ 9 + 2 ^ 7 + e.src % 8 * 2 ^ 4 + e.cls % 16),
   BitVec.ofNat 64 (e.detail % 2 ^ 32 * 2 ^ 32 + e.count % 2 ^ 32))

/-- R288: appends a record if its class is enabled; a full ring of 64 drops it and sets OVF. -/
def Core.appendEvent (k : Core) (e : StatEvent) (always : Bool := false) : Core :=
  if always || k.inForce.statcfg.getLsbD e.cls then
    if k.statRing.length < 64 then { k with statRing := k.statRing ++ [e.words] }
    else { k with ctl := { k.ctl with statcfg := k.ctl.statcfg ||| 0x20000#64 } }
  else k

/-- A STAT_THRESHOLD record's AUX (R267): bits 11:8 threshold number, bits 3:0 class. -/
def thresholdAux (i cls : Nat) : BitVec 12 := BitVec.ofNat 12 (i * 256 + cls)

/-! ### Trap records (R263 to R267) -/

namespace Cause
def illegalBundle : BitVec 5 := 0x01
def illegalSlot : BitVec 5 := 0x02
def timing : BitVec 5 := 0x03
def pageFault : BitVec 5 := 0x04
def protection : BitVec 5 := 0x05
def ownership : BitVec 5 := 0x06
def align : BitVec 5 := 0x07
def poison : BitVec 5 := 0x08
def leaseExpiry : BitVec 5 := 0x09
def statThreshold : BitVec 5 := 0x0A
def software : BitVec 5 := 0x0B
def invokeFault : BitVec 5 := 0x0C
def microcode : BitVec 5 := 0x0D
def rule : BitVec 5 := 0x0E
def ecc : BitVec 5 := 0x0F
def peerLost : BitVec 5 := 0x10
def loftWrite : BitVec 5 := 0x11
def fileIo : BitVec 5 := 0x12
def collectiveAbort : BitVec 5 := 0x13
end Cause

/-- Residual code lies outside every virtual address, at an address of the model's own (notes/assumptions/1.md). -/
def residualBase : Nat := 2 ^ 60

/-- R342, R356: an executed address as a program sees it, in BADDR and XADDR: each residual lies at a base of its own, a multiple of 256. -/
def State.shownAddr (_s : State) (k : Core) (x : DWord) : DWord :=
  if x.toNat < residualBase then x
  else BitVec.ofNat 64 (Config.residualAddr (k.theLaunch.residual.getD 0) % 2 ^ 48 * 256 + (x.toNat - residualBase))

/-- The residual the core's launch runs (R339). -/
def State.residualOf (s : State) (k : Core) : Option CacheEntry :=
  (k.theLaunch.residual).bind fun id => s.hub.cache.find? fun e => e.id == id

/-- R339: how far the code of a launch that uses the entry lies from where it was fitted. -/
def CacheEntry.moved (e : CacheEntry) (code : DWord) : DWord := code - e.code

/-- The back-map of a bundle whose code lies `off` further on. -/
def ResBundle.move (b : ResBundle) (off : DWord) : ResBundle := { b with orig := b.orig + off, origNext := b.origNext + off }

/-- R345: a dynamic transfer to an original address goes on in the residual that the entry table gives, else there. -/
def State.lookupEntry (s : State) (k : Core) (a : DWord) : DWord :=
  match s.residualOf k with
  | none => a
  | some e => ((e.entries.find? fun p => p.1 + e.moved k.theLaunch.code == a).map (·.2)).getD a

/-- The residual bundle at an executed address. -/
def State.residualAt (s : State) (k : Core) (x : DWord) : Option ResBundle :=
  if x.toNat < residualBase then none else (s.residualOf k).bind fun e =>
    (e.bundles.find? fun b => b.addr == x).map fun b => b.move (e.moved k.theLaunch.code)

/-- The iteration vector and original address of an executed address (R354): original code maps to itself; residual code
through the back-map of the launch's cache entry. -/
def State.backMap (s : State) (k : Core) (x : DWord) : DWord × BitVec 60 :=
  match s.residualAt k x with
  | some b => (b.orig, b.iter)
  | none => (x, 0)

/-- R267, R347: the fields a trap of cause `cause` raised by the slot under way carries. -/
def State.mkTrap (s : State) (cause : BitVec 5) (op : Nat) (faddr : Option DWord := none) (loc : Bool := false)
    (aux : Nat := 0) : TrapRecord :=
  let k := s.me
  let bm := s.backMap k k.baddr
  { cls := 0, unit := s.cur, cause := cause, errno := (k.theLaunch.errand).setWidth 16
    xaddr := s.shownAddr k k.baddr, oaddr := bm.1, iter := bm.2
    av := faddr.isSome, loc := loc && faddr.isSome, faddr := (faddr.getD 0).setWidth 57
    issue := BitVec.ofNat 4 k.issue, aux := BitVec.ofNat 12 aux
    op := BitVec.ofNat 7 op, slots := BitVec.ofNat 7 (2 ^ k.slot), stamp := k.ctl.cycle }

/-- A slot operation: it is done, traps precisely (R266), or cannot be accepted yet (R38). -/
inductive OpRes where
  | done (s : State)
  | trap (t : TrapRecord)
  | hold (h : Hold)
  /-- Held after an effect of its own: a barrier arrival (R86), a poll (R87). -/
  | wait (s : State) (h : Hold)
  deriving DecidableEq, Repr

/-- Gives the next SEQ of a record's class on the core (R264) and queues it for the ring (R269). -/
def Core.queueRecord (k : Core) (t : TrapRecord) : Core × TrapRecord :=
  let i := t.cls.toNat
  if h : i < 4 then
    let t' := { t with seq := k.seq[i] }
    ({ k with seq := k.seq.set i (k.seq[i] + 1), records := k.records ++ [t'] }, t')
  else (k, t)

/-- The 64 bytes of a record (R263). -/
def TrapRecord.bits (t : TrapRecord) : Nat :=
  let w0 := t.seq.toNat * 2 ^ 40 + t.unit.toNat * 2 ^ 24 + t.cls.toNat * 2 ^ 21 + t.cause.toNat * 2 ^ 16 + t.errno.toNat
  let w4 := t.av.toNat * 2 ^ 63 + t.loc.toNat * 2 ^ 62 + t.faddr.toNat
  let w6 := t.issue.toNat * 2 ^ 55 + t.nest.toNat * 2 ^ 53 + t.aux.toNat * 2 ^ 41 + t.uv.toNat * 2 ^ 40
    + t.uidx.toNat * 2 ^ 29 + t.rout.toNat * 2 ^ 21 + t.hv.toNat * 2 ^ 20 + t.hnd.toNat * 2 ^ 14 + t.op.toNat * 2 ^ 7
    + t.slots.toNat
  w0 + t.xaddr.toNat * 2 ^ 64 + t.oaddr.toNat * 2 ^ 128 + t.iter.toNat * 2 ^ 192 + w4 * 2 ^ 256 + t.prog.toNat * 2 ^ 320
    + w6 * 2 ^ 384 + t.stamp.toNat * 2 ^ 448

def TrapRecord.bytes (t : TrapRecord) : List Byte := leBytes 64 t.bits

/-! ### Local memories (R212, R213) -/

/-- A memory of the local map. -/
inductive Local where
  | bench | yard | loft
  deriving DecidableEq, Repr

def benchSize : Nat := 0x80000
def yardBase : Nat := 0x10000000
def yardSize : Nat := 0x400000
def loftBase : Nat := 0x20000000
def loftSize : Nat := 0x18000000

/-- The memory that holds the whole of `n` bytes at a 64-bit effective address. -/
def localOf (a n : Nat) : Option Local :=
  if a + n ≤ benchSize then some .bench
  else if yardBase ≤ a && a + n ≤ yardBase + yardSize then some .yard
  else if loftBase ≤ a && a + n ≤ loftBase + loftSize then some .loft
  else none

/-- The memory in which an effective address falls (R44). -/
def portOf (a : Nat) : Option Local := localOf a 1

/-- Two byte ranges meet. -/
def overlaps (a n b m : Nat) : Bool := a < b + m && b < a + n

/-- The handles whose regions meet `n` bytes at bench address `a`. -/
def Core.handlesAt (k : Core) (a n : Nat) : List Handle :=
  k.handles.toList.filter fun h => h.size != 0 && overlaps a n h.base.toNat h.size.toNat

/-- The core may touch the bytes: every region they meet has O = 0 (R183). -/
def Core.owns (k : Core) (a n : Nat) : Bool := (k.handlesAt a n).all fun h => h.o == 0

/-- The engine side may touch the bytes: every region they meet has O = 1 (R183). -/
def Core.engineOwns (k : Core) (a n : Nat) : Bool := (k.handlesAt a n).all fun h => h.o == 1

/-- The lowest poisoned handle a bench read meets (R186). -/
def Core.poisonAt (k : Core) (a n : Nat) : Option (Nat × Handle) :=
  (List.range 64).findSome? fun i =>
    if h : i < 64 then
      let hd := k.handles[i]
      if hd.psn == 1 && hd.size != 0 && overlaps a n hd.base.toNat hd.size.toNat then some (i, hd) else none
    else none

/-- MODE bits as they act now (R61, R63). -/
def Core.strict (k : Core) : Bool := k.inForce.mode.getLsbD 0 == false && !k.interlocked
def Core.tdlv (k : Core) : Bool := k.inForce.mode.getLsbD 1
def Core.sub (k : Core) : Bool := k.inForce.mode.getLsbD 2
def Core.psnTraps (k : Core) : Bool := k.inForce.mode.getLsbD 3
def Core.lxe (k : Core) : Bool := k.inForce.mode.getLsbD 4

/-- The cause of a read of a poisoned region (R63, R210). -/
def poisonCause (h : Handle) : BitVec 5 := if h.abort then Cause.collectiveAbort else Cause.poison

/-- The event an operation of the slot under way posts, charged to its bundle (R286). -/
def State.event (s : State) (cls count detail src : Nat) : StatEvent :=
  { cls := cls, count := count, detail := detail, src := src, addr := (s.backMap s.me s.me.baddr).1 }

/-- The source number of a slot in a statistics record (R286). -/
def srcOfSlot (slot : Nat) : Nat := match slot with | 0 => 0 | 1 => 0 | n + 2 => n + 1

/-- R215: the errand of core `c` holds the bays of `n` loft bytes at local address `a`. -/
def State.holdsBays (s : State) (c : CoreNo) (a n : Nat) : Bool :=
  let d := s.die (dieOf (clusterOf c))
  let r := (s.core c).theLaunch.errand
  let lo := (a - loftBase) / 2 ^ 20
  let hi := (a - loftBase + n - 1) / 2 ^ 20
  (List.range (hi - lo + 1)).all fun i => d.bays.toList.getD (lo + i) none == some r

/-- A yard byte as core `c` reads it: its own buffered store, else committed state (R233.3, R233.4). -/
def State.yardBytes (s : State) (c : CoreNo) (off n : Nat) : List Byte :=
  let y := s.cluster (clusterOf c)
  let own := (s.core c).buffer.flatMap (·.bytes)
  (y.yard.bytes off n).zipIdx.map fun (b, i) =>
    match own.reverse.find? (fun w => w.1 == off + i) with
    | some w => w.2
    | none => b

/-- The bytes of a local range as core `c` and its engines' local operands see them (R148, R233). -/
def State.localBytes (s : State) (c : CoreNo) (m : Local) (a n : Nat) : List Byte :=
  match m with
  | .bench => (s.core c).bench.bytes a n
  | .yard => s.yardBytes c (a - yardBase) n
  | .loft => (s.die (dieOf (clusterOf c))).loft.bytes (a - loftBase) n

/-- The loft's refresh phase on a die, in ns (R216): an undefined start, then wall-clock time. -/
def State.loftPhase (s : State) (d : DieNo) : Nat := (Config.loftPhase s.hub.resets d + s.now) % 64000

/-- R216: the bank of a loft offset. -/
def loftBank (off : Nat) : Nat := off / (6 * 2 ^ 20)

/-- R216: nanoseconds a read of `n` loft bytes from offset `off` waits for the refresh of a bank of theirs to end. -/
def State.loftWait (s : State) (d : DieNo) (off n : Nat) : Nat :=
  let p := s.loftPhase d
  if loftBank off ≤ p / 1000 && p / 1000 ≤ loftBank (off + n - 1) then 1000 - p % 1000 else 0

/-- Nanoseconds as cycles of a clock, rounded up. -/
def cyclesOf (mhz ns : Nat) : Nat := (ns * mhz + 999) / 1000

/-! The yard's banks (R214). -/

/-- The 64-byte lines of the yard that accesses of `n` bytes at local addresses meet. -/
def yardLines (as : List Nat) (n : Nat) : List Nat :=
  (as.flatMap fun a => [(a - yardBase) / 64, (a - yardBase + n - 1) / 64]).eraseDups

/-- R214: address bits 10:6. -/
def yardBank (line : Nat) : Nat := line % 32

/-- R214: the scatter-accumulate engine among the 25 requesters: after each core's side, its C0 and its C1. -/
def saccRequester : Nat := 24

/-- R214: the number of a core's side (0 the core itself, 1 C0, 2 C1) among the requesters of its cluster. -/
def requesterOf (c : CoreNo) (side : Nat) : Nat := 3 * (c.toNat % 8) + side

/-- R214: the first cycle from `t` on in which a bank serves no access yet. -/
def freeSlot (us : List BankUse) (bank : Nat) : Nat → Nat → Nat
  | 0, t => t
  | n + 1, t => if us.any fun u => u.bank == bank && u.cycle == t then freeSlot us bank n (t + 1) else t

/-- The least cycle that a core of the cluster which may still issue stands at, no later than `t`. -/
def State.oldestCycle (s : State) (cl : ClusterNo) (t : Nat) : Nat :=
  ((s.crewHere cl).filter fun c => (s.core c).status == .running).foldl (fun m c => min m (s.core c).ctl.cycle.toNat) t

/-- R214: an access to one bank, asked for in cycle `t`: the cluster after it, and the cycles it waits. -/
def State.claimBank (s : State) (cl : ClusterNo) (requester t bank : Nat) : State × Nat :=
  let us := (s.cluster cl).bankUses
  let at_ := freeSlot us bank us.length t
  let old := s.oldestCycle cl t
  (s.updCluster cl fun y => { y with
    bankUses := { bank := bank, cycle := at_, requester := requester } :: us.filter fun u => old ≤ u.cycle }, at_ - t)

/-- R214: an access to the yard lines `lines`, asked for in cycle `t`, claims a bank for each and waits for the last. Who is served first of
those that meet in one cycle is the order in which their events happen (DESIGN CHOICE, notes/assumptions/53.md). -/
def State.claimYard (s : State) (cl : ClusterNo) (requester t : Nat) (lines : List Nat) : State × Nat :=
  (lines.map yardBank).eraseDups.foldl (fun (r : State × Nat) b =>
    let (s, w) := r.1.claimBank cl requester t b
    (s, max r.2 w)) (s, 0)

/-- A local load of `n` bytes at each of `as`: its latency, nominal and what a yard bank contest (R214) or a loft refresh (R216) adds, and the
cycles of refresh waited. -/
def State.loadTime (s : State) (m : Local) (as : List Nat) (n bench : Nat) : State × Nat × Nat :=
  match m, as with
  | .bench, _ | _, [] => (s, bench, 0)
  | .yard, _ =>
    let (t, w) := s.claimYard s.myCluster (requesterOf s.cur 0) s.me.ctl.cycle.toNat (yardLines as n)
    (t, max bench 12 + w, 0)
  | .loft, _ =>
    let w := cyclesOf (s.cluster s.myCluster).mhz ((as.map fun a => s.loftWait s.myDie (a - loftBase) n).foldl max 0)
    (s, max bench 20 + w, w)

/-- Takes a free value's number (notes/assumptions/1.md). -/
def State.takeFree (s : State) : State := { s with free := s.free + 1 }

/-! ### The store buffer (R228) -/

def bufferSize : Nat := 256

/-- Entries a store's bytes take: one for each aligned 8-byte part written. -/
def entriesOf (bs : List (Nat × Byte)) : Nat := ((bs.map (fun b => b.1 / 8)).eraseDups).length

/-- The entries of the quantum under way. -/
def Core.quantumEntries (k : Core) : Nat :=
  ((k.buffer.filter (fun b => b.quantum == k.ctl.quantEnd.toNat + 1)).map (·.entries)).sum

def Core.usedEntries (k : Core) : Nat := (k.buffer.map (·.entries)).sum

/-- Ends the current quantum (R228, R231). -/
def Core.endQuantum (k : Core) : Core := { k with ctl := { k.ctl with quantEnd := k.ctl.quantEnd + 1 } }

/-- A yard store would bring the quantum under way past the buffer's entries, which ends it (R228). -/
def Core.overflows (k : Core) (bs : List (Nat × Byte)) : Bool :=
  entriesOf bs != 0 && bufferSize < k.quantumEntries + entriesOf bs

/-- The quantum ends before a store that would overflow it (R228). -/
def Core.fitQuantum (k : Core) (bs : List (Nat × Byte)) : Core := if k.overflows bs then k.endQuantum else k

/-- A yard store enters the buffer, or cannot until commits free entries (R228). -/
def Core.bufferStore (k : Core) (bs : List (Nat × Byte)) : Option Core :=
  let n := entriesOf bs
  if n == 0 then some k else
  let k := k.fitQuantum bs
  if bufferSize < k.usedEntries + n then none
  else some { k with buffer := k.buffer ++ [{ quantum := k.ctl.quantEnd.toNat + 1, entries := n, bytes := bs }] }

/-! ### Address translation (R217 to R224) -/

/-- Where a virtual byte lies, or why it does not. -/
inductive Xlate where
  | hbm (pa : Nat)
  | host (pa : Nat)
  | file (index off size : Nat)
  | pageFault
  | protection
  deriving DecidableEq, Repr

def hbmSize : Nat := 768 * 10 ^ 9

/-- Bytes of a leaf of level `l` with code `sz`, where R218 permits it. -/
def leafSize (l sz : Nat) : Option Nat :=
  match l, sz with
  | 2, 0 => some (2 ^ 30) | 2, 4 => some (2 ^ 34)
  | 1, 0 => some (2 ^ 21) | 1, 3 => some (2 ^ 25)
  | 0, 0 => some (2 ^ 12) | 0, 1 => some (2 ^ 14) | 0, 2 => some (2 ^ 16)
  | _, _ => none

/-- The entries that write a leaf of code `sz` (R220). -/
def runLength (sz : Nat) : Nat :=
  match sz with
  | 1 => 4 | 2 => 16 | 3 => 16 | 4 => 16
  | _ => 1

/-- R222: a stack holds 64 × 10^9 bytes, three stacks a die. -/
def stackSize : Nat := 64 * 10 ^ 9
def stackOf (pa : Nat) : Nat := pa / stackSize
def dieOfStack (stack : Nat) : DieNo := BitVec.ofNat 2 (stack / 3)

/-- What a walk comes to: the entry that governs, with the bytes of its page, or a fault. An entry with V = 0 governs 4 KiB. -/
inductive Walked where
  | entry (pte size : Nat)
  | protection
  deriving DecidableEq, Repr

/-- R218 to R221: the walk below a table at physical address `table`, over the levels that remain. Of a run of leaf entries that differ, any
one may govern (R220): which one is a free value (notes/assumptions/9.md). DESIGN CHOICE (notes/assumptions/70.md): a reserved TGT of a leaf
raises PROTECTION as a reserved bit does. -/
def walk (hbm : Mem) (va : Nat) : Nat → List Nat → Walked
  | _, [] => .protection
  | table, l :: ls =>
    let i := bitsOf va (12 + 9 * l) 9
    let e := hbm.num (table + 8 * i) 8
    let pfn := bitsOf e 12 40 * 2 ^ 12
    let malformed := fun (e : Nat) => bitsOf e 52 12 != 0 || bitsOf e 4 2 != 0 || 5 ≤ bitsOf e 9 3 || 3 ≤ bitsOf e 6 3
    if e % 2 == 0 then .entry 0 4096
    else if malformed e then .protection
    else if bitsOf e 1 1 == 0 then
      if l == 0 || bitsOf e 9 3 != 0 || bitsOf e 6 3 != 0 || hbmSize ≤ pfn then .protection else walk hbm va pfn ls
    else
      match leafSize l (bitsOf e 9 3) with
      | none => .protection
      | some size =>
        let n := runLength (bitsOf e 9 3)
        if n == 1 then .entry e size
        else
          let r := hbm.num (table + 8 * (i / n * n + Config.runEntry table (i / n) % n)) 8
          if r % 2 == 0 then .entry 0 4096
          else if malformed r || bitsOf r 1 1 == 0 then .protection
          else match leafSize l (bitsOf r 9 3) with
            | some size => .entry r size
            | none => .protection

/-- R219, R221: what an access meets at the entry that governs it. DESIGN CHOICE (notes/assumptions/70.md): of a page that runs past the end of
HBM the bytes below it are good. -/
def useEntry (va : Nat) (wr fetch : Bool) (pte size : Nat) : Xlate :=
  let tgt := bitsOf pte 6 3
  let pa := bitsOf pte 12 40 * 2 ^ 12 + va % size
  if pte % 2 == 0 then .pageFault
  else if tgt == 0 && hbmSize ≤ pa then .protection
  else if (wr && bitsOf pte 2 1 == 0) || (fetch && bitsOf pte 3 1 == 0) then .protection
  else if tgt == 0 then .hbm pa
  else if tgt == 1 then .host pa
  else .file (bitsOf pte 12 40) (va % size) size

/-- The walk for one virtual byte in an address space (R217, R221, R224). -/
def State.walkFor (s : State) (asid : BitVec 12) (va : Nat) : Walked :=
  let atbase := (s.hub.bar0.get 0x2000 0).toNat
  if 2 ^ 57 ≤ va then .protection
  else if atbase % 2 == 0 then .entry 0 4096
  else
    let e := s.hbm.num (bitsOf atbase 15 37 * 2 ^ 15 + 8 * asid.toNat) 8
    if e % 2 == 0 then .entry 0 4096
    else if bitsOf e 52 12 != 0 || bitsOf e 1 11 != 0 || hbmSize ≤ bitsOf e 12 40 * 2 ^ 12 then .protection
    else walk s.hbm va (bitsOf e 12 40 * 2 ^ 12) [4, 3, 2, 1, 0]

/-- R223: the entry of a translation cache that covers a virtual byte. -/
def cachedPage (tlb : List CachedPage) (asid : BitVec 12) (va : Nat) : Option CachedPage :=
  tlb.find? fun p => p.asid == asid && p.base ≤ va && va < p.base + p.size

/-- R223: the translation cache of a cluster, or what the hub's walkers hold. -/
def State.tlbOf (s : State) : Option ClusterNo → List CachedPage
  | some cl => (s.cluster cl).tlb
  | none => s.hub.tlb

/-- R224: ATBASE.EN. -/
def State.translates (s : State) : Bool := (s.hub.bar0.get 0x2000 0).getLsbD 0

/-- The translation of one virtual byte in an address space (R217, R221, R224): for a core of cluster `via` and its engines through its
translation cache (R223, R225), for the rest of the package through what the hub's walkers hold. -/
def State.translate (s : State) (asid : BitVec 12) (va : Nat) (wr : Bool := false) (fetch : Bool := false)
    (via : Option ClusterNo := none) : Xlate :=
  match if s.translates then cachedPage (s.tlbOf via) asid va else none with
  | some p => useEntry va wr fetch p.pte p.size
  | none =>
    match s.walkFor asid va with
    | .entry pte size => useEntry va wr fetch pte size
    | .protection => .protection

def cacheSize : Nat := 1024

/-- The cached form of the entry that a walk for a virtual byte comes to, where it comes to one. -/
def State.walked (s : State) (asid : BitVec 12) (va : Nat) : Option CachedPage :=
  match s.translates, s.walkFor asid va with
  | true, .entry pte size => some { asid := asid, base := va / size * size, size := size, pte := pte }
  | _, _ => none

/-- R223: a cluster's translation cache takes the entry that a walk for a virtual byte has come to; a full one makes room. -/
def State.cachePage (s : State) (cl : ClusterNo) (asid : BitVec 12) (va : Nat) : State :=
  match cachedPage (s.cluster cl).tlb asid va, s.walked asid va with
  | none, some p =>
    if (s.cluster cl).tlb.length < cacheSize then s.updCluster cl fun y => { y with tlb := p :: y.tlb }
    else (s.updCluster cl fun y => { y with tlb := p :: y.tlb.eraseIdx (Config.cacheVictim s.free % cacheSize) }).takeFree
  | _, _ => s

/-- R223, R225: the hub's walkers hold the entry of a page from now on. -/
def State.hubWalk (s : State) (asid : BitVec 12) (va : Nat) : State :=
  match cachedPage s.hub.tlb asid va, s.walked asid va with
  | none, some p => s.updHub fun h => { h with tlb := p :: h.tlb }
  | _, _ => s

/-- They let an entry go. -/
def State.hubForget (s : State) (n : Nat) : State := s.updHub fun h => { h with tlb := h.tlb.eraseIdx n }

/-- What an access by virtual address meets (R221, R371). -/
inductive Access (α : Type) where
  | ok (a : α)
  | pageFault (va : Nat)
  | protection (va : Nat)
  /-- The file page is being read, or must be (R371). -/
  | fileWait (index size : Nat)
  | fileIo (va : Nat)
  deriving DecidableEq, Repr

/-- The page-cache entry of a file page (R370): its HBM address, where PFN is below PCLEN. -/
def State.pageEntry (s : State) (index : Nat) : Option Nat :=
  if index < (s.hub.bar0.get 0x5008 0).toNat % 2 ^ 40 then
    some (bitsOf (s.hub.bar0.get 0x5000 0).toNat 12 40 * 2 ^ 12 + 16 * index)
  else none

/-- A physical place. -/
inductive Place where
  | hbm (pa : Nat)
  | host (pa : Nat)
  /-- A cached file page: its frame's byte and its entry. -/
  | file (pa entry : Nat)
  deriving DecidableEq, Repr

/-- Where an access to a virtual byte goes (R221, R222, R371). -/
def State.place (s : State) (asid : BitVec 12) (va : Nat) (wr fetch : Bool) (via : Option ClusterNo := none) : Access Place :=
  match s.translate asid va wr fetch via with
  | .hbm pa => .ok (.hbm pa)
  | .host pa => .ok (.host pa)
  | .pageFault => .pageFault va
  | .protection => .protection va
  | .file i off sz =>
    match s.pageEntry i with
    | none => .protection va
    | some e =>
      let w := s.hbm.num e 8
      match w % 4 with
      | 2 => .ok (.file (bitsOf w 12 40 * 2 ^ 12 + off) e)
      | 3 => .fileIo va
      | _ => .fileWait i sz

/-- The bytes an access moves before its next 4 KiB boundary: pages are no smaller (R218). -/
def chunkOf (va n : Nat) : Nat := min n (4096 - va % 4096)

/-- R232: host memory as the package's engines see it, with the writes that the CXL port has accepted. -/
def State.hostSeen (s : State) : Mem := (s.hub.egress.filter (·.host)).foldl (fun m w => m.write w.pa w.bytes) s.host

/-- Reads `n` bytes by virtual address, page by page; `fuel` is the pages left. -/
def State.vreadPages (s : State) (asid : BitVec 12) (fetch : Bool) (via : Option ClusterNo) : Nat → Nat → Nat → Access (List Byte)
  | 0, _, _ => .ok []
  | fuel + 1, va, n =>
    if n = 0 then .ok [] else
    let m := chunkOf va n
    match s.place asid va false fetch via with
    | .ok p =>
      let bs := match p with
        | .hbm pa => s.hbm.bytes pa m
        | .host pa => s.hostSeen.bytes pa m
        | .file pa _ => s.hbm.bytes pa m
      match s.vreadPages asid fetch via fuel (va + m) (n - m) with
      | .ok r => .ok (bs ++ r)
      | e => e
    | .pageFault v => .pageFault v
    | .protection v => .protection v
    | .fileWait i sz => .fileWait i sz
    | .fileIo v => .fileIo v

def State.vread (s : State) (asid : BitVec 12) (va n : Nat) (fetch : Bool := false) (via : Option ClusterNo := none) :
    Access (List Byte) :=
  s.vreadPages asid fetch via (n / 4096 + 2) va n

/-- Writes bytes at a place; a write of a file page sets DIRTY in its entry (R370), one to host memory comes after those accepted before. -/
def State.writeAt (s : State) (p : Place) (bs : List Byte) : State :=
  match p with
  | .hbm pa => { s with hbm := s.hbm.write pa bs }
  | .host pa => ({ s with host := s.hostSeen.write pa bs } : State).updHub fun h => { h with egress := h.egress.filter fun w => !w.host }
  | .file pa e =>
    let d := (s.hbm.read e) ||| 0x10#8
    { s with hbm := (s.hbm.write pa bs).write e [d] }

/-- R232: a far write by engine `eng` of core `c` (0 C0, 1 C1, 2 M): toward a stack of its own die it is accepted by the stack controller at
once, toward another die's it enters the die's egress; one to host memory is accepted by the CXL port, and the host completes it later.
DESIGN CHOICE (notes/assumptions/64.md). -/
def State.writeFrom (s : State) (c : CoreNo) (eng : Nat) (p : Place) (bs : List Byte) : State :=
  match p with
  | .host pa => s.updHub fun h => { h with egress := h.egress ++ [{ host := true, core := c, eng := eng, pa := pa, bytes := bs }] }
  | .hbm pa | .file pa _ =>
    if dieOfStack (stackOf pa) == dieOf (clusterOf c) then s.writeAt p bs
    else
      let s := match p with
        | .file _ e => { s with hbm := s.hbm.write e [(s.hbm.read e) ||| 0x10#8] }
        | _ => s
      s.updHub fun h => { h with egress := h.egress ++ [{ core := c, eng := eng, pa := pa, bytes := bs }] }

/-- Writes bytes by virtual address, page by page, up to the first fault; `from_` is the engine of a core that writes. -/
def State.vwritePages (s : State) (asid : BitVec 12) (from_ : Option (CoreNo × Nat)) : Nat → Nat → List Byte → State × Access Unit
  | 0, _, _ => (s, .ok ())
  | fuel + 1, va, bs =>
    if bs.isEmpty then (s, .ok ()) else
    let m := chunkOf va bs.length
    match s.place asid va true false (from_.map fun x => clusterOf x.1) with
    | .ok p =>
      let t := match from_ with
        | some x => s.writeFrom x.1 x.2 p (bs.take m)
        | none => s.writeAt p (bs.take m)
      t.vwritePages asid from_ fuel (va + m) (bs.drop m)
    | .pageFault v => (s, .pageFault v)
    | .protection v => (s, .protection v)
    | .fileWait i sz => (s, .fileWait i sz)
    | .fileIo v => (s, .fileIo v)

def State.vwrite (s : State) (asid : BitVec 12) (va : Nat) (bs : List Byte) (from_ : Option (CoreNo × Nat) := none) :
    State × Access Unit :=
  s.vwritePages asid from_ (bs.length / 4096 + 2) va bs

/-! ### The fabric egress (R232) -/

/-- R232: the lane of a far write: in order toward one stack, or toward the host. -/
def FarWrite.lane (w : FarWrite) : Option (DieNo × Nat) :=
  if w.host then none else some (dieOf (clusterOf w.core), stackOf w.pa)

/-- The stack controller accepts a write, which every reader of the package sees from then on (R233.9), or the host completes it. -/
def State.performFar (s : State) (w : FarWrite) : State :=
  if w.host then { s with host := s.host.write w.pa w.bytes } else { s with hbm := s.hbm.write w.pa w.bytes }

/-- A lane's writes are accepted, oldest first. -/
def State.flushLane (s : State) (lane : DieNo × Nat) : State :=
  let mine := s.hub.egress.filter fun w => w.lane == some lane
  if mine.isEmpty then s
  else (mine.foldl State.performFar s).updHub fun h => { h with egress := h.egress.filter fun w => w.lane != some lane }

/-- R223, R232, R233: before an engine of core `c` reads or writes virtual bytes, the cluster's cache takes their translations; a read follows the
die's earlier writes toward its stack. -/
def State.reach (s : State) (c : CoreNo) (asid : BitVec 12) (read : Bool) (pages : List Nat) : State :=
  pages.foldl (fun s va =>
    let s := s.cachePage (clusterOf c) asid va
    match read, s.place asid va false false (some (clusterOf c)) with
    | true, .ok (.hbm pa) | true, .ok (.file pa _) => s.flushLane (dieOf (clusterOf c), stackOf pa)
    | _, _ => s) s

/-- A lane's oldest write reaches its stack or its host: which lane is next is open (R232). -/
def State.egressStep (s : State) : State :=
  match s.hub.egress[Config.egressPick s.free % s.hub.egress.length]? with
  | none => s
  | some w =>
    match s.hub.egress.find? fun x => x.lane == w.lane with
    | none => s
    | some x => (s.performFar x).takeFree.updHub fun h => { h with egress := h.egress.erase x }

/-- R223, R225: a translation cache lets an entry go, or none: which is open. -/
def State.cacheStep (s : State) (cl : ClusterNo) : State :=
  let n := (s.cluster cl).tlb.length
  if n = 0 then s
  else (s.updCluster cl fun y => { y with tlb := y.tlb.eraseIdx (Config.cacheVictim s.free % (n + 1)) }).takeFree

/-- R232: a far write of core `c` that `pick` picks is still to be accepted by its stack or completed by the host. -/
def State.egressHolds (s : State) (c : CoreNo) (pick : FarWrite → Bool) : Bool := s.hub.egress.any fun w => w.core == c && pick w

/-! ### Current pressure (R305) -/

/-- R305: the level in force at `now`: it has fallen by one for every 10 µs since the last sag that called for it, or the last fall. -/
def Cluster.pressureNow (y : Cluster) (now : Nat) : Nat := y.pressure.toNat - (now - y.pressureAt) / 10000

/-! ### Quanta of held cores (R230) -/

/-- A core that issues nothing more: halted, finished, contained or stopped (R228, R277). -/
def Core.atEnd (k : Core) : Bool :=
  match k.status with
  | .running => false
  | _ => true

/-- R230: held where it has just ended its quantum and has made no store since: BAR, a DRAIN's hold, between polls of WAITV, stopped
for a save or a cut. -/
def Core.heldEnded (k : Core) : Bool :=
  !(k.buffer.any fun b => b.quantum == k.ctl.quantEnd.toNat + 1) && (k.stopEnded || match k.hold with
    | .bar _ | .waitv | .drain .. => true
    | _ => false)

/-- R230: the quantum count of a core so held rises with every quantum that another crew core of its cluster has ended. -/
def State.riseEnd (s : State) (c : CoreNo) : State :=
  if (s.core c).heldEnded then
    let q := (s.crewHere (clusterOf c)).foldl (fun m d => max m (s.core d).ctl.quantEnd.toNat) (s.core c).ctl.quantEnd.toNat
    s.updCore c fun k => { k with ctl := { k.ctl with quantEnd := BitVec.ofNat 32 q } }
  else s

/-! ### Taking a trap (R272 to R274) and returning from one (R275) -/

/-- All five sticky records idle (R39). -/
def Stickies.idle : Stickies := {}

/-- R272: the trap can be delivered to a handler. -/
def Core.deliverable (k : Core) : Bool :=
  bitsOf k.ctl.trapvec.toNat 4 53 != 0 && k.arrCtx.isNone && k.trapCtx.isNone
    && k.owns (bitsOf k.ctl.trapvec.toNat 57 7 * 4096) 64

/-- R274: the core issues nothing more, its crew is stopped, and its launch is marked faulted. -/
def State.stopCrew (s : State) (c : CoreNo) : State :=
  let stop := fun (k : Core) => { k with status := .stopped, sticky := Stickies.idle, hold := .none }
  let s := s.updCore c stop
  let s := (((s.crewAt c).map Crew.cores).getD []).foldl (fun s c' => s.updCore c' fun k =>
    if k.status == .running then stop k else k) s
  s.updCrews fun w => if w.clusters.contains (clusterOf c) then { w with faulted := true } else w

/-- R61: the written values act from the first issue of a bundle. -/
def Core.force (k : Core) : Core :=
  let c := k.ctl
  { k with inForce := ⟨c.mode, c.fb, c.flev, c.bound, c.statcfg, c.statwin, c.statthr⟩ }

/-- TAKING A TRAP (R272): the record goes to the ring's queue (unless its engine wrote it when it met the fault, R167) and
into the bench buffer, the return address, issue, next bundle, sticky records and snapshot are saved, and issue goes on at
ENTRY × 16. A trap that cannot be delivered stops the core (R273, R274), its record marked NEST inside a handler. `ret` and
`next` are where TRET goes without and with SKIP. -/
def State.takeTrap (s : State) (c : CoreNo) (kind : TrapKind) (t : TrapRecord) (written : Bool) (ret : DWord)
    (retIssue : Nat) (next : DWord) : State :=
  let s := s.riseEnd c
  let k := s.core c
  let t := { t with nest := kind == .precise && (k.trapCtx.isSome || k.arrCtx.isSome) }
  let (k1, t1) := if written then (k, t) else k.queueRecord t
  if k.deliverable then
    let vec := k.ctl.trapvec.toNat
    let ctx : HandlerCtx := { precise := kind == .precise, ret := ret, retIssue := retIssue, next := next
                              stickies := k.sticky, snapshot := k.snapshot, stop := k.stop, restarted := k.restarted
                              arrived := if kind == .after then k.arrived else none
                              released := k.released && kind == .after }
    let entry := s.lookupEntry k (BitVec.ofNat 64 (bitsOf vec 4 53 * 16))
    let k2 := { k1 with
      bench := k1.bench.write (bitsOf vec 57 7 * 4096) t1.bytes
      trapCtx := some ctx, sticky := Stickies.idle, stop := false, snapshot := { pc := entry }
      pc := entry, issue := 0, hold := .none, released := false, arrived := none, restarted := false, returned := false }
    s.setCore c k2.force
  else (s.setCore c k1).stopCrew c

/-- A hold that an operation puts on the bundle after it (R239, R301). -/
def Hold.after : Hold → Bool
  | .drain .. | .sprint => true
  | _ => false

/-- RETURNING FROM A TRAP (R275): the saved sticky records and snapshot, and the saved return address, or with SKIP after a
precise trap the saved next bundle. The arrival that a held BAR had made still stands (R86), and so does a hold that the returning
bundle puts on the one after it. `none` outside a trap handler. -/
def Core.returnTrap (k : Core) (skip : Bool) : Option Core :=
  match k.trapCtx with
  | none => none
  | some x =>
    let toNext := skip && x.precise
    some { k with
      trapCtx := none, sticky := x.stickies, snapshot := x.snapshot, stop := x.stop
      hold := if k.hold.after then k.hold else .none
      arrived := if toNext then none else x.arrived
      released := x.released && !toNext
      restarted := x.restarted && !toNext
      returned := true
      pc := if toNext then x.next else x.ret
      issue := if toNext then 0 else x.retIssue }

/-- Entry to an arrival handler (R205): the lowest-numbered pending handle. -/
def State.divert (s : State) (k : Core) : Core :=
  match (List.range 64).findSome? (fun i => if h : i < 64 then (if k.handles[i].arrival then some i else none) else none) with
  | none => k
  | some i =>
    if h : i < 64 then
      let hd := k.handles[i]
      let ctx : HandlerCtx := { ret := k.pc, next := k.pc, stickies := k.sticky, snapshot := k.snapshot, stop := k.stop }
      { k with
        handles := k.handles.set i { hd with arrival := false }
        arrCtx := some ctx, sticky := Stickies.idle, stop := false, snapshot := { pc := s.lookupEntry k hd.entry }
        pc := s.lookupEntry k hd.entry, issue := 0
        ctl := { k.ctl with arrCnt := k.ctl.arrCnt + 1, arrHnd := BitVec.ofNat 6 i } }
    else k

/-- Return from an arrival handler (R89, R205). -/
def Core.returnArrival (k : Core) : Option Core :=
  match k.arrCtx with
  | none => none
  | some x => some { k with arrCtx := none, sticky := x.stickies, snapshot := x.snapshot, stop := x.stop, pc := x.ret, issue := 0 }

/-- A precise trap of the issue under way is taken at its bundle (R266, R272). -/
def State.takePrecise (s : State) (t : TrapRecord) : State :=
  let k := s.me
  let next := match s.residualAt k k.baddr with
    | some b => if b.cut then s.lookupEntry k b.origNext else k.nextPc
    | none => k.nextPc
  s.takeTrap s.cur .precise t false k.baddr k.issue next

/-- R272 gives no place to traps of kind A that come of no engine, lease, threshold or TRAP: they are taken last (notes/assumptions/59.md). -/
def otherSource : Nat := 6

/-- A trap of kind A becomes pending (R266). -/
def Core.addPending (k : Core) (src : Nat) (t : TrapRecord) : Core :=
  { k with pendingA := k.pendingA ++ [{ source := src, record := t }] }

/-- A posted event counts toward the thresholds and is appended (R288); a threshold that fires makes a trap pending (ACT 0)
or writes a record only (ACT 1, R290). -/
def State.postEvent (s : State) (c : CoreNo) (e : StatEvent) : State :=
  let (k, fired) := (s.core c).countEvent e
  let k := k.appendEvent e
  let k := fired.foldl (fun (k : Core) f =>
    let t : TrapRecord := { cls := 0, unit := c, cause := Cause.statThreshold, errno := k.theLaunch.errand.setWidth 16
                            xaddr := s.shownAddr k k.pc, oaddr := (s.backMap k k.pc).1, iter := (s.backMap k k.pc).2
                            aux := thresholdAux f.1 f.2, stamp := k.ctl.cycle }
    let act := if h : f.1 < 5 then k.inForce.statthr[f.1].toNat / 64 % 2 else 0
    if act == 0 then k.addPending 4 t else (k.queueRecord t).1) k
  s.setCore c k

/-- Flags rise (R101). -/
def Core.raise (k : Core) (f : BitVec 4) : Core := { k with ctl := { k.ctl with flags := k.ctl.flags ||| f } }

/-- Results take effect in their order: registers first, then the flags they raise (R101). -/
def Core.landList (k : Core) (now : List Pending) : Core :=
  now.foldl (fun k p => k.raise p.flags) (now.foldl (fun k p => p.writes.foldl Core.land1 k) k)

/-- Results whose cycle has come take effect, and then their events are posted. -/
def State.land (s : State) (c : CoreNo) (ready : Pending → Bool) : State :=
  let k := s.core c
  let now := k.pend.filter ready
  (now.flatMap (·.events)).foldl (fun s e => s.postEvent c e)
    (s.setCore c (Core.landList { k with pend := k.pend.filter (fun p => !ready p) } now))

/-- Results due by now arrive (R65). -/
def State.landDue (s : State) (c : CoreNo) : State := s.land c fun p => p.due ≤ (s.core c).cycleNat

/-- The core's cycle moves on, and what is due arrives. -/
def State.advanceTo (s : State) (c : CoreNo) (cycle : Nat) : State :=
  (s.updCore c fun k => { k with ctl := { k.ctl with cycle := BitVec.ofNat 64 (max k.cycleNat cycle) } }).landDue c

/-- A hold that a successful issue ends. -/
def Hold.waiting : Hold → Bool
  | .accept | .buffer | .wicket | .hwait | .mwait | .bar _ | .waitv | .fetch | .cut | .until _ => true
  | _ => false

/-- The crew of core `c` is being stopped for a save (R279). -/
def State.crewStopping (s : State) (c : CoreNo) : Bool :=
  s.hub.crews.any fun w => w.stopping && w.clusters.contains (clusterOf c)

/-- R279, R283: the core has reached its cut, or its crew is being saved and it stands between bundles, is held or has stopped already. -/
def State.mustStop (s : State) (c : CoreNo) : Bool :=
  let k := s.core c
  k.status == .running && (k.cut.stopped || (s.crewStopping c && (k.issue == 0 || k.hold.waiting || k.stopEnded)))

/-- A hold that counts as held for memory (R308). -/
def Hold.forMemory : Hold → Bool
  | .buffer | .hwait | .waitv | .drain .. => true
  | _ => false

/-- The core under way is held from now on. -/
def State.holdMe (s : State) (h : Hold) : State :=
  s.updMe fun k => { k with hold := h, holdSince := k.cycleNat, holdAt := s.now }

/-- Cycles pass while core `c` is held: `least`, and a free number more (notes/assumptions/1.md), at most `most` in all where a
bound is given. -/
def State.passHeld (s : State) (c : CoreNo) (least : Nat) (most : Option Nat) : State :=
  let free := Config.heldCycles s.free
  let n := least + match most with
    | some m => free % (m - least + 1)
    | none => free
  let k := s.core c
  (s.takeFree.updCore c fun k => { k with heldMem := if k.hold.forMemory then k.heldMem + n else k.heldMem }).advanceTo c (k.cycleNat + n)

/-- The cycles of an issue pass, its transfer takes effect and the results due arrive; `last` is the last issue of its
bundle, `extra` the cycles a split adds (R32, R33, R61, R307). -/
def State.commitIssue (s : State) (last : Bool) (extra : Nat) : State :=
  let s := s.updMe fun k =>
    let k := { k with
      ctl := { k.ctl with cycle := k.ctl.cycle + BitVec.ofNat 64 (1 + extra) }
      issued := k.issued + 1 + extra }
    if last then { k with pc := k.nextPc, issue := k.nextIssue } else { k with issue := k.issue + 1 }
  let s := s.landDue s.cur
  if last then s.updMe Core.force else s

/-- The issue context of an operation that stands alone at the program counter: a header and `words` words (R22). -/
def State.beginSolo (s : State) (slot words : Nat) : State :=
  s.updMe fun k => { k with
    slot := slot, reissue := 0, nextIssue := 0, returned := false, baddr := k.pc, nextPc := k.pc + BitVec.ofNat 64 (4 + 4 * words) }

/-- One operation issued by itself on the current core, as a bundle that holds it alone: its trap is taken (R272), a hold
holds the core (R38), and a commit moves the core on. -/
def State.solo (s : State) (slot words : Nat) (op : State → OpRes) : Result :=
  let s0 := s.beginSolo slot words
  match op s0 with
  | .done t => .next (t.commitIssue true 0)
  | .trap r => .next (s0.takePrecise r)
  | .hold h => .next (s0.holdMe h)
  | .wait t h => .next (t.holdMe h)

end Sys2Proof.Machine
end

