-- ==== Sys2Proof/Machine/Operands.lean ====
section
/-! DEFINITION. Operand forms: the operand files of the S slot (R71), sign-extended immediates (R70), lanes of vector
registers (R119, R120), and local and strided addresses. -/

namespace Sys2Proof.Machine

/-- R71: the second operand of the ADD to MAXN group. -/
def Core.operand (k : Core) (f : BitVec 3) (b : BitVec 5) : DWord :=
  match f.toNat with
  | 0 => k.readS b
  | 1 => (k.readN b.toNat).setWidth 64
  | 2 => (k.b[b.toNat % 8]).setWidth 64
  | 3 => (k.q[b.toNat % 8]).setWidth 64
  | 4 => (k.g[b.toNat]).setWidth 64
  | _ => (k.g[b.toNat + 32]).setWidth 64

/-- sext(imm12, 12) (R70). -/
def imm (i : BitVec 12) : DWord := i.signExtend 64

/-- The address of a branch: its bundle's header plus the signed word offset (R81). -/
def branchTarget (baddr : DWord) (o : BitVec 18) : DWord := baddr + (o.signExtend 64 <<< 2)

/-- Bits of a register, as a number. -/
def lane (r : VReg) (eb i : Nat) : Nat := r.toNat / 2 ^ (i * eb) % 2 ^ eb

/-- A register with one lane replaced. -/
def setLane (r : VReg) (eb i x : Nat) : VReg :=
  r - BitVec.ofNat 1024 (lane r eb i * 2 ^ (i * eb)) + BitVec.ofNat 1024 (x % 2 ^ eb * 2 ^ (i * eb))

/-- Lanes written into a register, a list of lane numbers and values. -/
def setLanes (r : VReg) (eb : Nat) (xs : List (Nat × Nat)) : VReg := xs.foldl (fun r x => setLane r eb x.1 x.2) r

/-- The active lanes below `n` under a predicate (R120). -/
def activeLanes (p : Pred) (n : Nat) : List Nat := (List.range n).filter fun i => p.getLsbD i

/-- Bytes of a register from byte `o` on. -/
def regBytes (r : VReg) (o n : Nat) : List Byte := leBytes n (r.toNat / 2 ^ (8 * o))

/-- An effective address as a number. -/
def addrNat (a : DWord) : Nat := a.toNat

end Sys2Proof.Machine
end

