-- ==== Sys2Proof/Machine/Handles.lean ====
section
/-! DEFINITION. Handles and rings (R181 to R188): the status word, the transitions, who may accept, and filling. -/

namespace Sys2Proof.Machine

namespace Hs
def free : BitVec 2 := 0
def filling : BitVec 2 := 1
def full : BitVec 2 := 2
def draining : BitVec 2 := 3
end Hs

/-- A handle that a .handle declared has a region (R181). -/
def Handle.declared (h : Handle) : Bool := h.size != 0

/-- R185: the handle status word. -/
def Handle.status (h : Handle) : DWord :=
  BitVec.ofNat 64 (h.landed.toNat * 2 ^ 44 + h.rd.toNat * 2 ^ 24 + h.err.toNat * 2 ^ 20 + h.arm.toNat * 2 ^ 19
    + h.psn.toNat * 2 ^ 18 + h.o.toNat * 2 ^ 17 + h.st.toNat * 2 ^ 15 + h.ring.isSome.toNat * 2 ^ 14
    + (h.ring.getD 0).toNat * 2 ^ 11)

def Core.handle (k : Core) (i : BitVec 6) : Handle := k.handles[i.toNat]
def Core.setHandle (k : Core) (i : BitVec 6) (h : Handle) : Core := { k with handles := k.handles.set i.toNat h }
def Core.updHandle (k : Core) (i : BitVec 6) (f : Handle → Handle) : Core := k.setHandle i (f (k.handle i))

/-- FULL with O = 0: what HWAIT and ADVC wait for. -/
def Handle.fullMine (h : Handle) : Bool := h.st == Hs.full && h.o == 0

/-- The handle at a ring's pointer (R187). -/
def Ring.at (r : Ring) (ptr : BitVec 7) : BitVec 6 := BitVec.ofNat 6 (r.f.toNat + ptr.toNat)
def Ring.next (r : Ring) (ptr : BitVec 7) : BitVec 7 := if ptr.toNat + 1 < r.l.toNat then ptr + 1 else 0

def Core.ring (k : Core) (i : Nat) : Option Ring := if h : i < 8 then k.rings[i] else none
def Core.setRing (k : Core) (i : Nat) (r : Option Ring) : Core := if h : i < 8 then { k with rings := k.rings.set i r } else k

/-- A handle that has become FULL with O = 0 by a fill: an armed one makes an arrival pending (R204). -/
def Handle.arrived (h : Handle) : Handle := if h.arm then { h with arm := false, arrival := true } else h

/-- The flip that ends a fill (R182): a UFETCH's own fill stays on the engine side (R160). -/
def Handle.filled (h : Handle) : Handle :=
  if h.fetch then { h with st := Hs.full, o := 1, fetch := false }
  else Handle.arrived { h with st := Hs.full, o := 0 }

/-- Acceptance as a destination (R182, R185): FILLING with O = 1, counts and ERR reset. -/
def Handle.acceptFill (h : Handle) : Handle := { h with st := Hs.filling, o := 1, landed := 0, rd := 0, err := 0 }

/-- Acceptance as a source (R182, R185): DRAINING with O = 1, counts and ERR reset. -/
def Handle.acceptDrain (h : Handle) : Handle := { h with st := Hs.draining, o := 1, landed := 0, rd := 0, err := 0 }

/-- R182: a command stopped by a fault leaves its handle FULL with O = 0. A fill that stops is not a completed one: it
makes no arrival. DESIGN CHOICE (notes/assumptions/75.md): PSN keeps its value. -/
def Handle.stopped (h : Handle) (err : BitVec 4) : Handle := { h with st := Hs.full, o := 0, err := err, fetch := false }

/-- R182, R193: a drain that has completed. -/
def Handle.drained (h : Handle) : Handle := { h with st := Hs.free, o := 0 }

/-- What R184 and R188 say of a handle at an acceptance. -/
inductive Accept where
  | yes | hold | protection
  deriving DecidableEq, Repr

/-- R184: a destination. -/
def Handle.asDest (h : Handle) : Accept :=
  if h.st == Hs.free then (if h.o == 1 then .yes else .protection)
  else if h.st == Hs.full && h.o == 0 then .protection else .hold

/-- R184: a source. -/
def Handle.asSource (h : Handle) : Accept :=
  if h.st == Hs.filling || h.st == Hs.draining then .hold
  else if h.st == Hs.free && h.o == 1 then .protection else .yes

/-- The FLIP row of R182 that matches, if one does (R200). A flip is no fill: it makes no arrival (R204). -/
def Handle.flipped (h : Handle) : Option Handle :=
  if h.st == Hs.full then
    if h.o == 0 then some { h with st := Hs.free, o := 1 } else some { h with o := 0 }
  else if h.st == Hs.free then
    if h.o == 1 then some { h with o := 0 } else some { h with st := Hs.full, o := 1 }
  else none

/-- The bytes of a handle's region. -/
def Core.region (k : Core) (i : BitVec 6) : List Byte :=
  let h := k.handle i
  k.bench.bytes h.base.toNat h.size.toNat

end Sys2Proof.Machine
end

