-- ==== Sys2Proof/Machine/CtlRegs.lean ====
section
/-! DEFINITION. Reading the control registers (R61 and the register maps it names). -/

namespace Sys2Proof.Machine

/-- R295, R298: whole microseconds of a lease that remain, rounded up. -/
def Lease.remaining (l : Lease) (now : Nat) : Nat := (l.ends - now + 999) / 1000

/-- R297. -/
def State.meltWord (s : State) (d : DieNo) : DWord :=
  let z := s.die d
  let refuse := 850 ≤ z.melt.toNat || z.refreeze
  BitVec.ofNat 64 (z.refreeze.toNat * 2 ^ 15 + refuse.toNat * 2 ^ 14 + d.toNat * 2 ^ 12 + z.melt.toNat)

/-- R298. -/
def State.leaseWord (s : State) (k : Core) (cl : ClusterNo) : DWord :=
  let live := match (s.cluster cl).lease with
    | some l => if s.now < l.ends then l.level.toNat * 2 ^ 12 + l.remaining s.now else 0
    | none => 0
  BitVec.ofNat 64 (k.ctl.rev.toNat * 2 ^ 25 + k.ctl.xcnt.toNat * 2 ^ 16 + live)

/-- R299. -/
def Cluster.clkWord (c : Cluster) (now : Nat) : DWord :=
  BitVec.ofNat 64 (c.pressureNow now * 2 ^ 14 + c.throttled.toNat * 2 ^ 13 + c.mhz)

/-- R216. -/
def State.loftrefWord (s : State) (d : DieNo) : DWord :=
  let p := s.loftPhase d
  BitVec.ofNat 64 (p / 1000 * 2 ^ 16 + p)

/-- R146. -/
def Matrix.accliveWord (m : Matrix) : DWord :=
  let n := ((List.range 8).filter fun i => m.live.getLsbD i).length
  BitVec.ofNat 64 (n * 2 ^ 8 + m.live.toNat)

/-- R206. -/
def Core.arrstatWord (k : Core) : DWord :=
  let pend := (List.range 64).find? fun i => if h : i < 64 then k.handles[i].arrival else false
  let act := k.arrCtx.isSome
  let hnd := if act then k.ctl.arrHnd.toNat else pend.getD 0
  BitVec.ofNat 64 (act.toNat * 2 ^ 15 + pend.isSome.toNat * 2 ^ 14 + hnd * 2 ^ 8 + k.ctl.arrCnt.toNat)

/-- The core executes original code: always, unless it runs a residual bundle (R345, R349). -/
def State.inOriginal (s : State) (k : Core) : Bool := (s.residualAt k k.baddr).isNone

/-- R349. -/
def State.specWord (s : State) (k : Core) : DWord :=
  let p := k.theLaunch.spec
  BitVec.ofNat 64 (p.dem.toNat * 2 ^ 32 + p.mark.toNat * 2 ^ 24 + p.unr.toNat * 2 ^ 16
    + (s.inOriginal k).toNat * 2 ^ 8 + p.reason.toNat * 2 ^ 4 + p.state.toNat)

/-- R61: GETR of register `n` by the core under way. -/
def State.readCtl (s : State) (n : Nat) : DWord :=
  let k := s.me
  let c := k.ctl
  let l := k.theLaunch
  let cl := s.myCluster
  match n with
  | 0x00 => c.cycle
  | 0x01 => s.shownAddr k k.baddr
  | 0x02 => BitVec.ofNat 64 (l.rank * 8 + s.cur.toNat % 8)
  | 0x03 => BitVec.ofNat 64 l.rank
  | 0x04 => BitVec.ofNat 64 (l.sy.toNat * 2 ^ 16 + l.sx.toNat * 2 ^ 8 + l.size)
  | 0x05 => l.errand.setWidth 64
  | 0x06 => c.mode.setWidth 64
  | 0x07 => c.trapvec
  | 0x08 => l.trapring
  | 0x09 => c.statcfg
  | 0x0A => c.statwin
  | 0x0B => c.statthr[0]
  | 0x0C => c.statthr[1]
  | 0x0D => c.statthr[2]
  | 0x0E => c.statthr[3]
  | 0x0F => c.statthr[4]
  | 0x10 => c.fb.setWidth 64
  | 0x11 => c.flev.setWidth 64
  | 0x12 => c.rowp.setWidth 64
  | 0x13 => BitVec.ofNat 64 (c.hlw.toNat * 2 ^ 44 + c.hle.toNat * 2 ^ 40 + c.hls.toNat * 2 ^ 36 + c.hln.toNat * 2 ^ 32
      + c.genCount.toNat)
  | 0x14 => s.meltWord (dieOf cl)
  | 0x15 => s.leaseWord k cl
  | 0x16 => (s.cluster cl).clkWord s.now
  | 0x17 => c.rnd.setWidth 64
  | 0x18 => BitVec.ofNat 64 ((s.cluster cl).committed % 2 ^ 32 * 2 ^ 32 + c.quantEnd.toNat)
  | 0x19 => s.loftrefWord (dieOf cl)
  | 0x1A => k.matrix.accliveWord
  | 0x1B => c.bound.setWidth 64
  | 0x1C => k.arrstatWord
  | 0x1D => c.flags.setWidth 64
  | 0x1E => s.specWord k
  | 0x1F => ((s.backMap k k.baddr).1.setWidth 57).setWidth 64
  | _ => 0

end Sys2Proof.Machine
end

