-- ==== Sys2Proof/Machine/System.lean ====
section
/-! DEFINITION. The S slot's memory, register and system instructions (R78 to R80, R115, R238, R276, R291, R300, R361). -/

namespace Sys2Proof.Machine

/-! ### Scalar memory (R78, R79) -/

/-- R79, R213, R215: the checks of an `n`-byte scalar access at effective address `a`, in the order ALIGN, PROTECTION,
OWNERSHIP, LOFT_WRITE; the memory it falls in, or the trap. -/
def State.checkLocal (s : State) (op : Nat) (a n : Nat) (store : Bool) : Except TrapRecord Local :=
  let t := fun c => s.mkTrap c op (some (BitVec.ofNat 64 a)) true
  if a % n != 0 then .error (t Cause.align)
  else match localOf a n with
    | none => .error (t Cause.protection)
    | some .bench => if s.me.owns a n then .ok .bench else .error (t Cause.ownership)
    | some .yard => .ok .yard
    | some .loft =>
      if store then .error (t Cause.loftWrite)
      else if s.holdsBays s.cur a n then .ok .loft else .error (t Cause.protection)

/-- R63, R79, R186: a read of the region of a poisoned handle traps, or posts a POISON_READ event. -/
def State.checkPoison (s : State) (op : Nat) (m : Local) (a n src : Nat) : Except TrapRecord (List StatEvent) :=
  match m, s.me.poisonAt a n with
  | .bench, some (i, h) =>
    if s.me.psnTraps then
      .error { s.mkTrap (poisonCause h) op (some (BitVec.ofNat 64 a)) true with hv := true, hnd := BitVec.ofNat 6 i }
    else .ok [s.event 5 1 i src]
  | _, _ => .ok []

/-- A load of `n` bytes into s[d], zero- or sign-extended. -/
def State.scalarLoad (s : State) (op : Nat) (d : BitVec 5) (ea : DWord) (n : Nat) (sx : Bool) : OpRes :=
  let a := ea.toNat
  match s.checkLocal op a n false with
  | .error t => .trap t
  | .ok m =>
    match s.checkPoison op m a n 0 with
    | .error t => .trap t
    | .ok evs =>
      let v := leNat (s.localBytes s.cur m a n)
      let v := if sx then ofSigned 64 (toSigned (8 * n) v) else v
      let (t, lat, waited) := s.loadTime m [a] n 4
      let evs := if waited = 0 then evs else evs ++ [s.event 7 1 waited 0]
      .done (t.updMe fun k => k.push lat (k.sWrite d (BitVec.ofNat 64 v)) 0 evs true)

/-- Stores bytes at a checked local address: the bench at the issue, the yard through the store buffer (R44, R228); one that
waits for entries has ended a quantum that it would overflow. -/
def State.localStore (s : State) (m : Local) (ws : List (Nat × Byte)) : OpRes :=
  match m with
  | .bench => .done (s.updMe fun k => { k with bench := k.bench.writeEach ws })
  | _ =>
    let bs := ws.map fun w => (w.1 - yardBase, w.2)
    match s.me.bufferStore bs with
    | some k => .done (s.setMe k)
    | none => if s.me.overflows bs then .wait (s.updMe Core.endQuantum) .buffer else .hold .buffer

/-- Consecutive bytes with their addresses. -/
def placed (a : Nat) (bs : List Byte) : List (Nat × Byte) := bs.zipIdx.map fun (b, i) => (a + i, b)

/-- A store of the low `n` bytes of s[d]. -/
def State.scalarStore (s : State) (op : Nat) (d : BitVec 5) (ea : DWord) (n : Nat) : OpRes :=
  match s.checkLocal op ea.toNat n true with
  | .error t => .trap t
  | .ok m => s.localStore m (placed ea.toNat (leBytes n (s.me.readS d).toNat))

/-- The effective address of LDSX and STSX (R78). -/
def Core.indexed (k : Core) (a b : BitVec 5) (sh : BitVec 2) : DWord := k.readS a + (k.readS b <<< sh.toNat)

/-- R78: Loads 8 bytes from the local map. -/
def opLds (o : SImm) (s : State) : OpRes := s.scalarLoad 0x31 o.d (s.me.readS o.a + imm o.i) 8 false
/-- R78: Stores 8 bytes to the local map. -/
def opSts (o : SImm) (s : State) : OpRes := s.scalarStore 0x32 o.d (s.me.readS o.a + imm o.i) 8
/-- R78: Loads 1 to 8 bytes at a scaled index. -/
def opLdsx (_bt : BitVec 2) (d : BitVec 5) (a : BitVec 5) (b : BitVec 5) (k : BitVec 2) (x : BitVec 1) (z : BitVec 2) (s : State) : OpRes :=
  s.scalarLoad 0x33 d (s.me.indexed a b k) (2 ^ z.toNat) (x == 1)
/-- R78: Stores 1 to 8 bytes at a scaled index. -/
def opStsx (_bt : BitVec 2) (d : BitVec 5) (a : BitVec 5) (b : BitVec 5) (k : BitVec 2) (z : BitVec 2) (s : State) : OpRes :=
  s.scalarStore 0x34 d (s.me.indexed a b k) (2 ^ z.toNat)

/-! ### Register access (R80) -/

/-- A write of one register that is not an s register, with latency 1. -/
def State.setReg (s : State) (w : RegWrite) : OpRes := .done (s.updMe fun k => k.push 1 [w])

/-- A rule operation is queued or runs (R249). -/
def isRuleOp : Instr → Bool
  | .rtload .. | .rgrid .. | .rgridOff .. | .rmode .. | .rstep .. | .rload .. | .rstore .. | .rhalox .. | .rhaloi ..
  | .rcensus .. => true
  | _ => false

def Matrix.ruleBusy (m : Matrix) : Bool := (m.queue ++ m.running.toList).any fun o => isRuleOp o.instr

/-- sd := v with latency 1. -/
def State.putS (s : State) (d : BitVec 5) (v : DWord) : OpRes := .done (s.updMe fun k => k.push 1 (k.sWrite d v))

/-- R80: Reads a control register. -/
def opGetr (_bt : BitVec 2) (d : BitVec 5) (n : BitVec 6) (s : State) : OpRes := s.putS d (s.readCtl n.toNat)
/-- R80: Writes a control register. -/
def opSetr (_bt : BitVec 2) (a : BitVec 5) (n : BitVec 6) (s : State) : OpRes :=
  let v := s.me.readS a
  if n = 0x07 && v.toNat % 16 != 0 then .trap (s.mkTrap Cause.align 0x36 (some v))
  else if n = 0x13 && s.me.matrix.ruleBusy then .hold .accept
  else s.setReg (.ctl n v)
/-- R80: Reads a uniform register. -/
def opGetg (_bt : BitVec 2) (d : BitVec 5) (n : BitVec 6) (s : State) : OpRes :=
  s.putS d ((s.me.g[n.toNat]).setWidth 64)
/-- R80: Reads a handle status word. -/
def opGeth (_bt : BitVec 2) (d : BitVec 5) (n : BitVec 6) (s : State) : OpRes :=
  let h := s.me.handle n
  if h.declared then s.putS d h.status
  else .trap { s.mkTrap Cause.protection 0x38 with hv := true, hnd := n }
/-- R80: Writes a loop counter. -/
def opSetn (_bt : BitVec 2) (n : BitVec 5) (a : BitVec 5) (s : State) : OpRes :=
  s.setReg (.n (n.setWidth 3) ((s.me.readS a).setWidth 32))
/-- R80: Writes a bench base register. -/
def opSetb (_bt : BitVec 2) (n : BitVec 5) (a : BitVec 5) (s : State) : OpRes :=
  s.setReg (.b (n.setWidth 3) ((s.me.readS a).setWidth 32))
/-- R80: Writes a stage predicate. -/
def opSetq (_bt : BitVec 2) (n : BitVec 5) (a : BitVec 5) (s : State) : OpRes :=
  s.setReg (.q (n.setWidth 3) ((s.me.readS a).setWidth 1))

/-! ### System instructions -/

/-- R238, R239: the quantum ends at the issue; the hold, where there is one, is of the bundle after it. -/
def opDrain (_bt : BitVec 2) (w : BitVec 1) (sc : BitVec 2) (s : State) : OpRes :=
  let k := s.me.endQuantum
  if sc = 0 && w = 0 then .done (s.setMe k)
  else .done ((s.setMe k).holdMe (.drain sc k.ctl.quantEnd.toNat k.c0.accepted k.c1.accepted k.matrix.accepted))

/-- CAPGRANT of an errand (R360). -/
def State.granted (s : State) (r : RecNo) (cap : BitVec 3) : Bool :=
  (s.hub.bar0.get (0x8000 + 8 * r.toNat) 0).getLsbD cap.toNat

def wicketSize : Nat := 256
def journalSize : Nat := 2 ^ 20

/-- R361 to R363. -/
def opInvoke (_bt : BitVec 2) (a : BitVec 5) (c : BitVec 3) (h : BitVec 6) (s : State) : OpRes :=
  let k := s.me
  let ad := (k.readS a).toNat
  let t := fun cause aux => { s.mkTrap cause 0x3D (some (k.readS a)) true aux with hv := true, hnd := h }
  let hd := k.handle h
  let r := k.theLaunch.errand
  if ad % 64 != 0 then .trap (t Cause.align 0)
  else if benchSize < ad + 64 then .trap (t Cause.protection 0)
  else if hd.size.toNat < 64 || hd.ring.isSome || hd.asDest == .protection then .trap { t Cause.protection 0 with av := false, loc := false, faddr := 0 }
  else if !k.owns ad 64 then .trap (t Cause.ownership 0)
  else if !s.granted r c || journalSize ≤ (s.errand r).journal.length then
    .trap { t Cause.invokeFault c.toNat with av := false, loc := false, faddr := 0 }
  else if hd.asDest == .hold then .hold .accept
  else if wicketSize ≤ s.hub.wicket.length then .hold .wicket
  else
    let bm := s.backMap k k.baddr
    let call : Call := { errand := r, core := s.cur, cap := c, reply := h, block := BitVec.ofNat 512 (k.bench.num ad 64)
                         charge := { xaddr := s.shownAddr k k.baddr, oaddr := bm.1, iter := bm.2, slot := 1, op := 0x3D } }
    .done ((s.updMe fun k => k.updHandle h Handle.acceptFill).updHub fun hb => { hb with wicket := hb.wicket ++ [call] })

/-- R300, R301: a request goes to the hub, and what issues next is held until its answer, which goes to the register that `d` names
now (R32, R60). -/
def State.askHub (s : State) (d : BitVec 5) (usec : DWord) (level : BitVec 2) : State :=
  (s.updMe fun k => { k with
    request := some (d, usec, level), answer := none, answerArr := k.arrCtx.isSome && decide (24 ≤ d.toNat) }).holdMe .sprint

/-- R300: Requests a sprint lease. -/
def opSprint (_bt : BitVec 2) (d : BitVec 5) (a : BitVec 5) (l : BitVec 2) (s : State) : OpRes := .done (s.askHub d (s.me.readS a) l)
/-- R300: Releases the cluster's sprint lease. -/
def opSprintx (_bt : BitVec 2) (d : BitVec 5) (s : State) : OpRes := .done (s.askHub d 0 0)

/-- R276: a SOFTWARE trap of kind A becomes pending after the issue. -/
def opTrap (_bt : BitVec 2) (a : BitVec 5) (n : BitVec 12) (s : State) : OpRes :=
  let t := s.mkTrap Cause.software 0x40 (if a = 0 then none else some (s.me.readS a)) false n.toNat
  .done (s.updMe fun k => k.addPending 5 { t with slots := 0b0000010 })

/-- R291: the oldest record, or zeros. -/
def opStatpop (_bt : BitVec 2) (d : BitVec 5) (e : BitVec 5) (s : State) : OpRes :=
  .done (s.updMe fun k =>
    let (w, rest) := match k.statRing with
      | [] => ((0, 0), [])
      | r :: rs => (r, rs)
    { k with statRing := rest }.push 2 (k.sWrite d w.1 ++ k.sWrite e w.2))

/-- R112: reserved bits of a format image, and format codes beyond 15. -/
def fmtImageOk (w : Nat) : Bool :=
  bitsOf w 27 5 == 0 && bitsOf w 21 3 == 0 && bitsOf w 13 3 == 0 && bitsOf w 5 3 == 0 && bitsOf w 32 32 == 0
    && bitsOf w 121 7 == 0 && bitsOf w 185 7 == 0 && bitsOf w 249 7 == 0
    && bitsOf w 0 5 < 16 && bitsOf w 8 5 < 16 && bitsOf w 16 5 < 16

/-- R115, R116. -/
def opFmtset (_bt : BitVec 2) (a : BitVec 5) (c : BitVec 6) (f : BitVec 6) (s : State) : OpRes :=
  let k := s.me
  let ad := (k.readS a).toNat
  let n := c.toNat + 1
  let t := fun cause aux => s.mkTrap cause 0x42 (some (k.readS a)) true aux
  if ad % 32 != 0 then .trap (t Cause.align 0)
  else if benchSize < ad + 32 * n then .trap (t Cause.protection 0)
  else if !k.owns ad (32 * n) then .trap (t Cause.ownership 0)
  else
    let imgs := (List.range n).map fun j => k.bench.num (ad + 32 * j) 32
    match (List.range n).find? fun j => !fmtImageOk (imgs.getD j 0) with
    | some j => .trap (t Cause.protection j)
    | none =>
      let table := imgs.zipIdx.foldl (fun (tb : Vector (BitVec 256) 64) (x : Nat × Nat) =>
        if h : f.toNat + x.2 < 64 then tb.set (f.toNat + x.2) (BitVec.ofNat 256 x.1) else tb) k.matrix.fmtTable
      .done (s.setMe { k with
        matrix := { k.matrix with fmtTable := table }
        notBefore := max k.notBefore (k.cycleNat + (n + 3) / 4 + 2) })
/-- LDS issued by itself (R78). -/
def execLds (o : SImm) (s : State) : Result := s.solo 1 1 (opLds o)
/-- STS issued by itself (R78). -/
def execSts (o : SImm) (s : State) : Result := s.solo 1 1 (opSts o)
/-- LDSX issued by itself (R78). -/
def execLdsx (_bt : BitVec 2) (d : BitVec 5) (a : BitVec 5) (b : BitVec 5) (k : BitVec 2) (x : BitVec 1) (z : BitVec 2) (s : State) : Result := s.solo 1 1 (opLdsx _bt d a b k x z)
/-- STSX issued by itself (R78). -/
def execStsx (_bt : BitVec 2) (d : BitVec 5) (a : BitVec 5) (b : BitVec 5) (k : BitVec 2) (z : BitVec 2) (s : State) : Result := s.solo 1 1 (opStsx _bt d a b k z)
/-- GETR issued by itself (R80). -/
def execGetr (_bt : BitVec 2) (d : BitVec 5) (n : BitVec 6) (s : State) : Result := s.solo 1 1 (opGetr _bt d n)
/-- SETR issued by itself (R80). -/
def execSetr (_bt : BitVec 2) (a : BitVec 5) (n : BitVec 6) (s : State) : Result := s.solo 1 1 (opSetr _bt a n)
/-- GETG issued by itself (R80). -/
def execGetg (_bt : BitVec 2) (d : BitVec 5) (n : BitVec 6) (s : State) : Result := s.solo 1 1 (opGetg _bt d n)
/-- GETH issued by itself (R80). -/
def execGeth (_bt : BitVec 2) (d : BitVec 5) (n : BitVec 6) (s : State) : Result := s.solo 1 1 (opGeth _bt d n)
/-- SETN issued by itself (R80). -/
def execSetn (_bt : BitVec 2) (n : BitVec 5) (a : BitVec 5) (s : State) : Result := s.solo 1 1 (opSetn _bt n a)
/-- SETB issued by itself (R80). -/
def execSetb (_bt : BitVec 2) (n : BitVec 5) (a : BitVec 5) (s : State) : Result := s.solo 1 1 (opSetb _bt n a)
/-- SETQ issued by itself (R80). -/
def execSetq (_bt : BitVec 2) (n : BitVec 5) (a : BitVec 5) (s : State) : Result := s.solo 1 1 (opSetq _bt n a)
/-- DRAIN issued by itself (R238). -/
def execDrain (_bt : BitVec 2) (w : BitVec 1) (sc : BitVec 2) (s : State) : Result := s.solo 1 1 (opDrain _bt w sc)
/-- INVOKE issued by itself (R363). -/
def execInvoke (_bt : BitVec 2) (a : BitVec 5) (c : BitVec 3) (h : BitVec 6) (s : State) : Result := s.solo 1 1 (opInvoke _bt a c h)
/-- SPRINT issued by itself (R300). -/
def execSprint (_bt : BitVec 2) (d : BitVec 5) (a : BitVec 5) (l : BitVec 2) (s : State) : Result := s.solo 1 1 (opSprint _bt d a l)
/-- SPRINTX issued by itself (R300). -/
def execSprintx (_bt : BitVec 2) (d : BitVec 5) (s : State) : Result := s.solo 1 1 (opSprintx _bt d)
/-- TRAP issued by itself (R276). -/
def execTrap (_bt : BitVec 2) (a : BitVec 5) (n : BitVec 12) (s : State) : Result := s.solo 1 1 (opTrap _bt a n)
/-- STATPOP issued by itself (R291). -/
def execStatpop (_bt : BitVec 2) (d : BitVec 5) (e : BitVec 5) (s : State) : Result := s.solo 1 1 (opStatpop _bt d e)
/-- FMTSET issued by itself (R115). -/
def execFmtset (_bt : BitVec 2) (a : BitVec 5) (c : BitVec 6) (f : BitVec 6) (s : State) : Result := s.solo 1 1 (opFmtset _bt a c f)

end Sys2Proof.Machine
end

