-- ==== Sys2Proof/Machine/Control.lean ====
section
/-! DEFINITION. The L slot: transfers, waits and returns from handlers (R47, R81 to R89, R205, R275). A transfer sets the
issue context's `nextPc`, which takes effect when the bundle has issued (R32). -/

namespace Sys2Proof.Machine

/-- R47: an ALIGN trap names the target. -/
def State.targetTrap (s : State) (op : Nat) (target : DWord) : OpRes := .trap (s.mkTrap Cause.align op (some target))

/-- Makes `target` the next bundle (R47, R82). -/
def State.transfer (s : State) (op : Nat) (target : DWord) : OpRes :=
  if target.toNat % 16 != 0 then s.targetTrap op target
  else .done (s.updMe fun k => { k with nextPc := target, nextIssue := 0 })

/-- R347: a demoted direct branch of residual code takes its target from its original bundle. -/
def State.branchBase (s : State) : DWord :=
  match s.residualAt s.me s.me.baddr with
  | some b => if b.demoted then b.orig else b.addr
  | none => s.me.baddr

/-- A direct branch, taken or not (R81, R82). -/
def State.branch (s : State) (op : Nat) (taken : Bool) (o : BitVec 18) : OpRes :=
  if taken then s.transfer op (branchTarget s.branchBase o) else .done s

/-- A transfer to an address in a register, which is an original one (R83, R345). -/
def State.indirect (s : State) (op : Nat) (a : DWord) (unit : Nat) : OpRes :=
  if a.toNat % unit != 0 then s.targetTrap op a
  else .done (s.updMe fun k => { k with nextPc := s.lookupEntry k a, nextIssue := 0 })

/-- R83, R344: the link of a CALL is an original address. -/
def State.linkAddr (s : State) : DWord :=
  match s.residualAt s.me s.me.baddr with
  | some b => b.origNext
  | none => s.me.nextPc

/-- R82. -/
def opLnop (_bt : BitVec 2) (s : State) : OpRes := .done s
/-- R82. -/
def opBr (_bt : BitVec 2) (o : BitVec 18) (s : State) : OpRes := s.branch 0x01 true o
/-- R82. -/
def opBrz (_bt : BitVec 2) (a : BitVec 5) (o : BitVec 18) (s : State) : OpRes := s.branch 0x02 (s.me.readS a == 0) o
/-- R82. -/
def opBrnz (_bt : BitVec 2) (a : BitVec 5) (o : BitVec 18) (s : State) : OpRes := s.branch 0x03 (s.me.readS a != 0) o
/-- R82. -/
def opBrlt (_bt : BitVec 2) (a : BitVec 5) (o : BitVec 18) (s : State) : OpRes := s.branch 0x04 (s.me.readS a).msb o
/-- R82. -/
def opBrge (_bt : BitVec 2) (a : BitVec 5) (o : BitVec 18) (s : State) : OpRes := s.branch 0x05 (!(s.me.readS a).msb) o
/-- R82: taken when q = 1, with NEG when q = 0. -/
def opBrq (_bt : BitVec 2) (q : BitVec 3) (n : BitVec 1) (o : BitVec 18) (s : State) : OpRes :=
  s.branch 0x06 (s.me.q[q.toNat] != n) o
/-- R83. -/
def opBri (_bt : BitVec 2) (a : BitVec 5) (s : State) : OpRes := s.indirect 0x07 (s.me.readS a) 16
/-- R83: the link is the word after the bundle. -/
def opCall (_bt : BitVec 2) (d : BitVec 5) (o : BitVec 18) (s : State) : OpRes :=
  let k := s.me
  (s.setMe (k.push 1 (k.sWrite d s.linkAddr))).transfer 0x08 (branchTarget s.branchBase o)
/-- R83. -/
def opRet (_bt : BitVec 2) (a : BitVec 5) (s : State) : OpRes := s.indirect 0x09 (s.me.readS a) 4

/-- R84: the counter after a LOOP. -/
def loopCount (n : Word) : Word := if n = 0 then 0 else n - 1

/-- R84. -/
def State.countedLoop (s : State) (op : Nat) (c : BitVec 3) (o : BitVec 18) (also : List RegWrite) : OpRes :=
  let k := s.me
  let n := loopCount (k.readN c.toNat)
  (s.setMe (k.push 1 (.n c n :: also))).branch op (n != 0) o

/-- R84: the rotation of b and q. -/
def Core.rotation (k : Core) : List RegWrite :=
  (List.range 8).flatMap fun i =>
    [.b (BitVec.ofNat 3 i) (k.b[(i + 7) % 8]), .q (BitVec.ofNat 3 i) (k.q[(i + 7) % 8])]

/-- R84. -/
def opLoop (_bt : BitVec 2) (c : BitVec 3) (o : BitVec 18) (s : State) : OpRes := s.countedLoop 0x0A c o []
/-- R84. -/
def opLoopr (_bt : BitVec 2) (c : BitVec 3) (o : BitVec 18) (s : State) : OpRes := s.countedLoop 0x0B c o s.me.rotation

/-! ### Waits -/

/-- R85: the handle an HWAIT waits on. -/
def Core.waitedHandle (k : Core) (rg pr : BitVec 1) (h : BitVec 6) : Option (BitVec 6) :=
  if rg = 0 then (if (k.handle h).declared then some h else none)
  else (k.ring h.toNat).map fun r => r.at (if pr = 0 then r.c else r.p)

/-- R85: the condition of an HWAIT on that handle. -/
def Handle.waitMet (h : Handle) (pr : BitVec 1) : Bool := if pr = 0 then h.fullMine else h.st == Hs.free

/-- R85, R181. -/
def opHwait (_bt : BitVec 2) (g : BitVec 1) (p : BitVec 1) (h : BitVec 6) (s : State) : OpRes :=
  let k := s.me
  match k.waitedHandle g p h with
  | none =>
    if g = 1 then .trap (s.mkTrap Cause.protection 0x0C none false h.toNat)
    else .trap { s.mkTrap Cause.protection 0x0C with hv := true, hnd := h }
  | some x =>
    let hd := k.handle x
    if hd.waitMet p then .done s else .hold .hwait

/-- R86: the arrival of a core at barrier `b`, which ends its quantum. -/
def Core.arriveAt (k : Core) (b : BitVec 3) : Core :=
  let k := k.endQuantum
  { k with
    arrivals := k.arrivals.set b.toNat (k.arrivals[b.toNat] ++ [(k.cycleNat, k.ctl.quantEnd.toNat)]), arrived := some b }

/-- R86: the first attempt arrives and ends the quantum; the release is BARRIER_RELEASE's. DESIGN CHOICE (notes/assumptions/47.md): an
arrival is never withdrawn, not where its wait ends in PEER_LOST and not where its bundle then traps, so that a BAR issued again
arrives once more. -/
def opBar (_bt : BitVec 2) (b : BitVec 3) (s : State) : OpRes :=
  let k := s.me
  if k.released then .done (s.setMe { k with released := false, arrived := none })
  else if k.arrived == some b then .hold (.bar b)
  else .wait (s.setMe (k.arriveAt b)) (.bar b)

/-- R87: the six conditions, over words of `n` bits. -/
def waitCond (c : BitVec 3) (n x y : Nat) : Bool :=
  match c.toNat with
  | 0 => x == y
  | 1 => x != y
  | 2 => decide (toSigned n x < toSigned n y)
  | 3 => decide (toSigned n y ≤ toSigned n x)
  | 4 => decide (x < y)
  | _ => decide (y ≤ x)

/-- R87: one poll. DESIGN CHOICE (notes/assumptions/48.md): an address both misaligned and outside the yard raises ALIGN. -/
def opWaitv (_bt : BitVec 2) (a : BitVec 5) (b : BitVec 5) (c : BitVec 3) (z : BitVec 2) (s : State) : OpRes :=
  let k := s.me
  let ad := (k.readS a).toNat
  let n := 2 ^ z.toNat
  if ad % n != 0 then .trap (s.mkTrap Cause.align 0x0E (some (k.readS a)) true)
  else if localOf ad n != some .yard then .trap (s.mkTrap Cause.protection 0x0E (some (k.readS a)) true)
  else
    let s := s.setMe k.endQuantum
    let x := leNat (s.yardBytes s.cur (ad - yardBase) n)
    if waitCond c (8 * n) x ((k.readS b).toNat % 2 ^ (8 * n)) then .done s else .wait s .waitv

/-- R88: issue ends after this bundle; a diversion's saved state is discarded. -/
def opHalt (_bt : BitVec 2) (s : State) : OpRes :=
  .done (s.updMe fun k => { k with status := .halted, sticky := Stickies.idle, trapCtx := none, arrCtx := none })

/-- R46: the mask of an illegal L slot. -/
def State.illegalL (s : State) (op : Nat) : OpRes := .trap (s.mkTrap Cause.illegalSlot op)

/-- R89. -/
def opAret (_bt : BitVec 2) (s : State) : OpRes :=
  match s.me.returnArrival with
  | none => s.illegalL 0x10
  | some k => .done (s.setMe { k with nextPc := k.pc, nextIssue := k.issue })

/-- R275. -/
def opTret (_bt : BitVec 2) (k : BitVec 1) (s : State) : OpRes :=
  match s.me.returnTrap (k == 1) with
  | none => s.illegalL 0x11
  | some c => .done (s.setMe { c with nextPc := c.pc, nextIssue := c.issue })
/-- LNOP issued by itself (R82). -/
def execLnop (_bt : BitVec 2) (s : State) : Result := s.solo 0 1 (opLnop _bt)
/-- BR issued by itself (R82). -/
def execBr (_bt : BitVec 2) (o : BitVec 18) (s : State) : Result := s.solo 0 1 (opBr _bt o)
/-- BRZ issued by itself (R82). -/
def execBrz (_bt : BitVec 2) (a : BitVec 5) (o : BitVec 18) (s : State) : Result := s.solo 0 1 (opBrz _bt a o)
/-- BRNZ issued by itself (R82). -/
def execBrnz (_bt : BitVec 2) (a : BitVec 5) (o : BitVec 18) (s : State) : Result := s.solo 0 1 (opBrnz _bt a o)
/-- BRLT issued by itself (R82). -/
def execBrlt (_bt : BitVec 2) (a : BitVec 5) (o : BitVec 18) (s : State) : Result := s.solo 0 1 (opBrlt _bt a o)
/-- BRGE issued by itself (R82). -/
def execBrge (_bt : BitVec 2) (a : BitVec 5) (o : BitVec 18) (s : State) : Result := s.solo 0 1 (opBrge _bt a o)
/-- BRQ issued by itself (R82). -/
def execBrq (_bt : BitVec 2) (q : BitVec 3) (n : BitVec 1) (o : BitVec 18) (s : State) : Result := s.solo 0 1 (opBrq _bt q n o)
/-- BRI issued by itself (R83). -/
def execBri (_bt : BitVec 2) (a : BitVec 5) (s : State) : Result := s.solo 0 1 (opBri _bt a)
/-- CALL issued by itself (R83). -/
def execCall (_bt : BitVec 2) (d : BitVec 5) (o : BitVec 18) (s : State) : Result := s.solo 0 1 (opCall _bt d o)
/-- RET issued by itself (R83). -/
def execRet (_bt : BitVec 2) (a : BitVec 5) (s : State) : Result := s.solo 0 1 (opRet _bt a)
/-- LOOP issued by itself (R84). -/
def execLoop (_bt : BitVec 2) (c : BitVec 3) (o : BitVec 18) (s : State) : Result := s.solo 0 1 (opLoop _bt c o)
/-- LOOPR issued by itself (R84). -/
def execLoopr (_bt : BitVec 2) (c : BitVec 3) (o : BitVec 18) (s : State) : Result := s.solo 0 1 (opLoopr _bt c o)
/-- HWAIT issued by itself (R85). -/
def execHwait (_bt : BitVec 2) (g : BitVec 1) (p : BitVec 1) (h : BitVec 6) (s : State) : Result := s.solo 0 1 (opHwait _bt g p h)
/-- BAR issued by itself (R86). -/
def execBar (_bt : BitVec 2) (b : BitVec 3) (s : State) : Result := s.solo 0 1 (opBar _bt b)
/-- WAITV issued by itself (R87). -/
def execWaitv (_bt : BitVec 2) (a : BitVec 5) (b : BitVec 5) (c : BitVec 3) (z : BitVec 2) (s : State) : Result := s.solo 0 1 (opWaitv _bt a b c z)
/-- HALT issued by itself (R88). -/
def execHalt (_bt : BitVec 2) (s : State) : Result := s.solo 0 1 (opHalt _bt)
/-- ARET issued by itself (R89). -/
def execAret (_bt : BitVec 2) (s : State) : Result := s.solo 0 1 (opAret _bt)
/-- TRET issued by itself (R275). -/
def execTret (_bt : BitVec 2) (k : BitVec 1) (s : State) : Result := s.solo 0 1 (opTret _bt k)

end Sys2Proof.Machine
end

