-- ==== Sys2Proof/Machine/Formats.lean ====
section
/-! DEFINITION. Number formats (R90 to R98), exact arithmetic on the values they stand for (R125), and the encodings a
rounding step can give (R98 to R103, R107 to R110). A finite value is an exact dyadic number. -/

namespace Sys2Proof.Machine

/-- What a format's pattern stands for: NaN, an infinity, or (−1)^neg × m × 2^e, zeros signed. -/
inductive FNum where
  | nan
  | inf (neg : Bool)
  | fin (neg : Bool) (m : Nat) (e : Int)
  deriving DecidableEq, Repr

/-- The sticky flags (R100). -/
abbrev Fl := BitVec 4
namespace Fl
def none : Fl := 0
def nv : Fl := 1
def of_ : Fl := 2
def uf : Fl := 4
def sat : Fl := 8
end Fl

/-- Which of R91's three treatments of the top encodings a format has. -/
inductive FloatKind where
  | ieee | e4m3 | e2m1
  deriving DecidableEq, Repr

/-- A floating-point format (R91). -/
structure FloatFmt where
  eb : Nat
  mb : Nat
  bias : Nat
  kind : FloatKind
  deriving DecidableEq, Repr

namespace Fmt
def f32 : FloatFmt := ⟨8, 23, 127, .ieee⟩
def bf16 : FloatFmt := ⟨8, 7, 127, .ieee⟩
def f16 : FloatFmt := ⟨5, 10, 15, .ieee⟩
def e5m2 : FloatFmt := ⟨5, 2, 15, .ieee⟩
def e4m3 : FloatFmt := ⟨4, 3, 7, .e4m3⟩
def e2m1 : FloatFmt := ⟨2, 1, 1, .e2m1⟩
end Fmt

/-- R90, R91: the floating-point format of a code, element formats of the MX codes included. -/
def floatFmt (code : Nat) : Option FloatFmt :=
  match code with
  | 0 => some Fmt.f32 | 1 => some Fmt.bf16 | 2 => some Fmt.f16
  | 8 => some Fmt.e4m3 | 9 => some Fmt.e5m2
  | 10 => some Fmt.e4m3 | 11 => some Fmt.e5m2 | 12 => some Fmt.e2m1
  | _ => none

/-- R90: element bits of a format code. -/
def elemBits (code : Nat) : Nat :=
  match code with
  | 0 => 32 | 1 => 16 | 2 => 16 | 3 => 32 | 4 => 16 | 5 => 8 | 6 => 32 | 7 => 8
  | 8 => 8 | 9 => 8 | 10 => 8 | 11 => 8 | 12 => 4 | 13 => 4 | 14 => 2 | _ => 4

/-- R94: the signed integer formats, and the limits of an integer or code format. -/
def isSignedInt (code : Nat) : Bool := 3 ≤ code && code ≤ 5
def intMin (code : Nat) : Int := if isSignedInt code then -((2 ^ (elemBits code - 1) : Nat) : Int) else 0
def intMax (code : Nat) : Int :=
  if isSignedInt code then (2 ^ (elemBits code - 1) : Nat) - 1 else (2 ^ elemBits code : Nat) - 1

/-- A pattern of an integer or code format, as an integer. -/
def intValue (code x : Nat) : Int := if isSignedInt code then toSigned (elemBits code) x else (x : Int)

/-- The exponent of a format's smallest normal value, and its patterns of largest finite value, infinity and NaN. -/
def FloatFmt.emin (f : FloatFmt) : Int := 1 - f.bias
def FloatFmt.signBit (f : FloatFmt) (neg : Bool) : Nat := if neg then 2 ^ (f.eb + f.mb) else 0
def FloatFmt.maxCode (f : FloatFmt) : Nat :=
  match f.kind with
  | .ieee => (2 ^ f.eb - 1) * 2 ^ f.mb - 1
  | .e4m3 => 2 ^ (f.eb + f.mb) - 2
  | .e2m1 => 2 ^ (f.eb + f.mb) - 1
def FloatFmt.infCode (f : FloatFmt) : Nat := (2 ^ f.eb - 1) * 2 ^ f.mb

/-- R92: the canonical NaN. -/
def FloatFmt.nan (f : FloatFmt) : Nat :=
  match f.kind with
  | .ieee => f.infCode + 2 ^ (f.mb - 1)
  | _ => 2 ^ (f.eb + f.mb) - 1

/-- R91: the value of a pattern. -/
def FloatFmt.decode (f : FloatFmt) (x : Nat) : FNum :=
  let neg := x / 2 ^ (f.eb + f.mb) % 2 == 1
  let e := x / 2 ^ f.mb % 2 ^ f.eb
  let m := x % 2 ^ f.mb
  if f.kind == .ieee && e == 2 ^ f.eb - 1 then (if m == 0 then .inf neg else .nan)
  else if f.kind == .e4m3 && e == 15 && m == 7 then .nan
  else if e == 0 then .fin neg m (f.emin - f.mb)
  else .fin neg (2 ^ f.mb + m) (e - 1 + f.emin - f.mb)

/-- R99: a subnormal operand under SUB = 1. -/
def FloatFmt.isSubnormal (f : FloatFmt) (x : Nat) : Bool :=
  x / 2 ^ f.mb % 2 ^ f.eb == 0 && x % 2 ^ f.mb != 0

def FloatFmt.read (f : FloatFmt) (sub : Bool) (x : Nat) : FNum :=
  if sub && f.isSubnormal x then .fin (x / 2 ^ (f.eb + f.mb) % 2 == 1) 0 0 else f.decode x

/-- R98: rounds m × 2^e to a multiple of 2^q in a mode (0 RNE, 1 RZ, 2 RU, 3 RD); answers the multiple and whether it is
inexact. -/
def roundTo (mode : Nat) (neg : Bool) (m : Nat) (e q : Int) : Nat × Bool :=
  if q ≤ e then (m * 2 ^ (e - q).toNat, false) else
  let d := 2 ^ (q - e).toNat
  let k := m / d
  let r := m % d
  let up := match mode with
    | 0 => d < 2 * r || (2 * r == d && k % 2 == 1)
    | 1 => false
    | 2 => r != 0 && !neg
    | _ => r != 0 && neg
  (if up then k + 1 else k, r != 0)

/-- R99, R100, R102, R103: a value as a pattern of a floating-point format, with the flags it raises. -/
def FloatFmt.encode (f : FloatFmt) (mode : Nat) (sat sub : Bool) (x : FNum) : Nat × Fl :=
  match x with
  | .nan => (f.nan, Fl.none)
  | .inf neg =>
    if sat || f.kind == .e2m1 then (f.signBit neg + f.maxCode, Fl.sat)
    else if f.kind == .e4m3 then (f.nan, Fl.of_)
    else (f.signBit neg + f.infCode, Fl.none)
  | .fin neg m e =>
    if m = 0 then (f.signBit neg, Fl.none) else
    let top : Int := m.log2 + e
    let q := max top f.emin - f.mb
    let (k, inexact) := roundTo mode neg m e q
    let code := ((q + f.mb - f.emin) * (2 ^ f.mb : Nat)).toNat + k
    if f.maxCode < code then
      if sat || f.kind == .e2m1 then (f.signBit neg + f.maxCode, Fl.sat)
      else if f.kind == .e4m3 then (f.nan, Fl.of_)
      else if mode == 0 || (mode == 2 && !neg) || (mode == 3 && neg) then (f.signBit neg + f.infCode, Fl.of_)
      else (f.signBit neg + f.maxCode, Fl.of_)
    else if top < f.emin then
      let (ku, _) := roundTo mode neg m e (top - f.mb)
      let tiny := top + 1 < f.emin || ku < 2 ^ (f.mb + 1)
      if sub && 0 < k && k < 2 ^ f.mb then (f.signBit neg, Fl.uf)
      else (f.signBit neg + code, if tiny && inexact then Fl.uf else Fl.none)
    else (f.signBit neg + code, Fl.none)

/-- R125: an exact result rounded into an arithmetic type. An infinite one stays infinite whatever SAT holds: R103 saturates finite values
only, and R102 speaks of conversions. -/
def FloatFmt.round (f : FloatFmt) (mode : Nat) (sat sub : Bool) (x : FNum) : Nat × Fl :=
  match x with
  | .inf neg => (f.signBit neg + f.infCode, Fl.none)
  | _ => f.encode mode sat sub x

/-- An exact integer as a pattern of an integer or code format: clamped with SAT (R103). -/
def clampInt (code : Nat) (x : Int) : Nat × Fl :=
  if x < intMin code then (ofSigned (elemBits code) (intMin code), Fl.sat)
  else if intMax code < x then (ofSigned (elemBits code) (intMax code), Fl.sat)
  else (ofSigned (elemBits code) x, Fl.none)

/-- R98, R102: a value to an integer format. -/
def encodeInt (code mode : Nat) (x : FNum) : Nat × Fl :=
  match x with
  | .nan => (0, Fl.nv)
  | .inf neg => (ofSigned (elemBits code) (if neg then intMin code else intMax code), Fl.sat)
  | .fin neg m e =>
    let k := (roundTo mode neg m e 0).1
    clampInt code (if neg then -(k : Int) else k)

/-- A lane of an element type as a value; MODE.SUB applies to floating-point ones (R99). -/
def laneNum (t : Nat) (sub : Bool) (x : Nat) : FNum :=
  match floatFmt t with
  | some f => f.read sub x
  | none =>
    let v := intValue t x
    .fin (v < 0) v.natAbs 0

/-- R105: a value converted to a format code 0 to 9. -/
def convert (dst mode : Nat) (sat sub : Bool) (x : FNum) : Nat × Fl :=
  match floatFmt dst with
  | some f => f.encode mode sat sub x
  | none => encodeInt dst mode x

/-! ### Exact arithmetic (R125) -/

def FNum.neg : FNum → FNum
  | .nan => .nan
  | .inf s => .inf (!s)
  | .fin s m e => .fin (!s) m e

/-- A finite value as an integer multiple of 2^q, for a q at or below its exponent. -/
def signedAt (neg : Bool) (m : Nat) (e q : Int) : Int :=
  let v : Int := (m * 2 ^ (e - q).toNat : Nat)
  if neg then -v else v

/-- R125: the exact sum, with the sign of a zero sum in a mode. -/
def FNum.add (mode : Nat) : FNum → FNum → FNum × Fl
  | .nan, _ => (.nan, Fl.none)
  | _, .nan => (.nan, Fl.none)
  | .inf a, .inf b => if a == b then (.inf a, Fl.none) else (.nan, Fl.nv)
  | .inf a, .fin .. => (.inf a, Fl.none)
  | .fin .., .inf b => (.inf b, Fl.none)
  | .fin a m e, .fin b n g =>
    if m = 0 && n = 0 then (.fin (if a == b then a else mode == 3) 0 0, Fl.none) else
    let q := min e g
    let v := signedAt a m e q + signedAt b n g q
    if v = 0 then (.fin (mode == 3) 0 0, Fl.none) else (.fin (v < 0) v.natAbs q, Fl.none)

/-- R125: the exact product. -/
def FNum.mul : FNum → FNum → FNum × Fl
  | .nan, _ => (.nan, Fl.none)
  | _, .nan => (.nan, Fl.none)
  | .inf a, .inf b => (.inf (a != b), Fl.none)
  | .inf a, .fin b n _ => if n = 0 then (.nan, Fl.nv) else (.inf (a != b), Fl.none)
  | .fin a m _, .inf b => if m = 0 then (.nan, Fl.nv) else (.inf (a != b), Fl.none)
  | .fin a m e, .fin b n g => (.fin (a != b) (m * n) (e + g), Fl.none)

/-- R125: d + a × b with one rounding to come; 0 × ∞ raises NV whatever d holds. -/
def FNum.fma (mode : Nat) (a b d : FNum) (minus : Bool) : FNum × Fl :=
  match FNum.mul a b with
  | (p, fl) => if fl == Fl.none then FNum.add mode d (if minus then p.neg else p) else (.nan, fl)

/-- The order of two values, none with a NaN; zeros are equal (R127). -/
def FNum.cmp : FNum → FNum → Option Ordering
  | .nan, _ => none
  | _, .nan => none
  | .inf a, .inf b => some (if a == b then .eq else if a then .lt else .gt)
  | .inf a, .fin .. => some (if a then .lt else .gt)
  | .fin .., .inf b => some (if b then .gt else .lt)
  | .fin a m e, .fin b n g =>
    let q := min e g
    some (compare (signedAt a m e q) (signedAt b n g q))

/-- The sign of a value, for the order of zeros. -/
def FNum.isNeg : FNum → Bool
  | .nan => false
  | .inf s => s
  | .fin s _ _ => s

/-- R125: VMIN and VMAX, −0 below +0, one NaN giving the other operand. -/
def FNum.extreme (wantMax : Bool) (a b : FNum) : FNum :=
  match a, b with
  | .nan, x => x
  | x, .nan => x
  | x, y =>
    match FNum.cmp x y with
    | some .lt => if wantMax then y else x
    | some .gt => if wantMax then x else y
    | _ => if x.isNeg == wantMax then y else x

/-! ### MX blocks (R95, R107, R108) -/

/-- R93, R108: element `x` of a block with scale `e`. -/
def mxValue (f : FloatFmt) (e x : Nat) : FNum :=
  if e == 255 then .nan else
  match f.decode x with
  | .fin neg m g => .fin neg m (g + e - 127)
  | v => v

/-- R107: the exponent of the largest power of two of an element format. -/
def FloatFmt.emax (f : FloatFmt) : Int := (f.maxCode / 2 ^ f.mb : Nat) - f.bias

/-- The larger of two magnitudes, as (mantissa, exponent). -/
def maxMag (a : Nat × Int) (x : FNum) : Nat × Int :=
  match x with
  | .fin _ m e => if FNum.cmp (.fin false a.1 a.2) (.fin false m e) == some .lt then (m, e) else a
  | _ => a

def FNum.isFinite : FNum → Bool
  | .fin .. => true
  | _ => false

/-- R107: the scale and the element codes of a block; NV for a block with a NaN or an infinity. -/
def mxEncode (f : FloatFmt) (mode : Nat) (xs : List FNum) : Nat × List Nat × Fl :=
  if xs.all FNum.isFinite then
    let a := xs.foldl maxMag (0, 0)
    let x : Int := if a.1 = 0 then -127 else (a.1.log2 + a.2) - f.emax
    let x := min (max x (-127)) 127
    let codes := xs.map fun v => match v with
      | .fin neg m e => (f.encode mode true false (.fin neg m (e - x))).1
      | _ => 0
    ((x + 127).toNat, codes, Fl.none)
  else (255, xs.map (fun _ => 0), Fl.nv)

/-! ### GQ4 (R96, R109, R110) -/

/-- R96: the level magnitudes. -/
def gqLevels : List Nat := [5, 16, 28, 40, 53, 69, 91, 128]

/-- R96: a code's exact value under block scale `c` and superblock scale `s`. -/
def gqValue (s : FNum) (c x : Nat) : FNum :=
  if c = 0 then .fin false 0 0 else
  let neg := x / 8 % 2 == 1
  match s with
  | .nan => .nan
  | .inf n => .inf (n != neg)
  | .fin n m e => .fin (n != neg) (gqLevels.getD (x % 8) 0 * c * m) (e - 15)

/-- R109: the level nearest to a / b × 128 for a / b = |x| / d given as integers, the smaller index on a tie, and
whether it lies past the top. -/
def gqNearest (num den : Nat) : Nat × Bool :=
  let dist := fun (i : Nat) => ((num : Int) * 128 - (gqLevels.getD i 0 * den : Nat)).natAbs
  ((List.range 8).foldl (fun best i => if dist i < dist best then i else best) 0, decide (128 * den < num * 128))

/-- R109: a code and the flag it raises; `s` is the pattern of the superblock scale. -/
def gqEncode (s c : Nat) (x : FNum) : Nat × Fl :=
  match Fmt.f32.decode s with
  | .fin false sm se =>
    if sm = 0 || Fmt.f32.isSubnormal s then (0, Fl.nv)
    else if c = 0 then (0, Fl.none)
    else match x with
      | .nan => (0, Fl.nv)
      | .inf neg => (8 * neg.toNat + 7, Fl.sat)
      | .fin neg m e =>
        let q := min e (se - 8)
        let num := m * 2 ^ (e - q).toNat
        let den := c * sm * 2 ^ (se - 8 - q).toNat
        let (i, ovf) := gqNearest num den
        (8 * neg.toNat + i, if ovf then Fl.sat else Fl.none)
  | _ => (0, Fl.nv)

end Sys2Proof.Machine
end

