-- ==== Sys2Proof/Machine/Array.lean ====
section
/-! DEFINITION. The multiply-accumulate array: operand formats and depths (R143), operand layout (R150), groups, inner
accumulators, early promotion and the rounding of each group into the tile (R164 to R166). -/

namespace Sys2Proof.Machine

/-- The inner accumulators of R164. `fixed bits limit`: a window of `bits` bits from the largest product down, with the
guard bits that make it overflow at 2^(E + limit), or never. -/
inductive Inner where
  | fixed (bits : Nat) (limit : Option Nat)
  | int20
  | exact
  deriving DecidableEq, Repr

/-- A row of R143 with its row of R164. -/
structure ArrayMode where
  maxK : Nat
  multiple : Nat
  group : Nat
  inner : Inner
  deriving DecidableEq, Repr

/-- R143, R164: the mode of a pair of A and B formats; `none`: not a pair of the table. -/
def arrayMode (a b : Nat) : Option ArrayMode :=
  if (a == 1 && b == 1) || (a == 2 && b == 2) then some ⟨128, 1, 16, .fixed 48 none⟩
  else if (a == 8 || a == 9) && (b == 8 || b == 9) then some ⟨256, 1, 32, .fixed 28 (some 5)⟩
  else if (a == 5 || a == 7) && b == 5 then some ⟨256, 1, 32, .int20⟩
  else if (a == 10 || a == 11) && (b == 10 || b == 11) then some ⟨256, 32, 32, .fixed 28 (some 5)⟩
  else if a == 12 && b == 12 then some ⟨512, 32, 32, .exact⟩
  else if a == 1 && b == 13 then some ⟨128, 64, 64, .exact⟩
  else if (a == 8 || a == 9) && b == 13 then some ⟨256, 64, 64, .exact⟩
  else none

/-- R95: an MX format; the block size of a B format with blocks, 0 without. -/
def isMx (f : Nat) : Bool := 10 ≤ f && f ≤ 12
def blockSize (f : Nat) : Nat := if isMx f then 32 else if f == 13 then 64 else 0

/-- A K the mode admits (R143). -/
def ArrayMode.kOk (m : ArrayMode) (k : Nat) : Bool := 1 ≤ k && k ≤ m.maxK && k % m.multiple == 0

/-- Element `i` of `eb` bits of a packed run (R94). -/
def packedElem (bs : Array Byte) (eb i : Nat) : Nat :=
  match eb with
  | 4 => (bs.getD (i / 2) 0).toNat / 16 ^ (i % 2) % 16
  | 2 => (bs.getD (i / 4) 0).toNat / 4 ^ (i % 4) % 4
  | _ => (List.range (eb / 8)).foldl (fun v j => v + (bs.getD (i * (eb / 8) + j) 0).toNat * 256 ^ j) 0

/-- An operand element's value without block scales; a GQ4 code's is ± its level (R96, R164). -/
def elemNum (f x : Nat) : FNum :=
  if f == 13 then .fin (x / 8 % 2 == 1) (gqLevels.getD (x % 8) 0) 0 else laneNum f false x

/-- R150: row of A, and column `n` of a panel of depth `k`. -/
def rowNums (f k : Nat) (bs : List Byte) : List FNum :=
  let a := bs.toArray
  (List.range k).map fun i => elemNum f (packedElem a (elemBits f) i)
def columnNums (f k : Nat) (panel : Array Byte) (n : Nat) : List FNum :=
  (List.range k).map fun i =>
    elemNum f (packedElem panel (elemBits f) (if blockSize f = 0 then i * 128 + n else n * k + i))

/-- A product as an integer multiple of 2^q, truncated toward zero (R164). -/
def FNum.truncAt (q : Int) : FNum → Int
  | .fin neg m e =>
    let v : Int := if q ≤ e then (m * 2 ^ (e - q).toNat : Nat) else (m / 2 ^ (q - e).toNat : Nat)
    if neg then -v else v
  | _ => 0

/-- R164: the exponent of a nonzero finite value. -/
def FNum.exponent : FNum → Option Int
  | .fin _ m e => if m = 0 then none else some (m.log2 + e)
  | _ => none

/-- R165: sums in ascending order, promoted early when the next term would reach the limit. -/
def limitedSums (limit : Option Nat) : List Int → Int → List Int
  | [], acc => [acc]
  | t :: ts, acc =>
    match limit with
    | some l => if l ≤ (acc + t).natAbs then acc :: limitedSums limit ts t else limitedSums limit ts (acc + t)
    | none => limitedSums limit ts (acc + t)

/-- R166: what a group promotes to for its products that are not finite. -/
def specialSum (ps : List FNum) : Option FNum :=
  if ps.any (· == .nan) || (ps.any (· == .inf true) && ps.any (· == .inf false)) then some .nan
  else if ps.any (· == .inf true) then some (.inf true)
  else if ps.any (· == .inf false) then some (.inf false)
  else none

/-- R164, R165: the inner sums of one group's finite products, in the order they are promoted. -/
def finiteSums (inner : Inner) (ps : List FNum) : List FNum :=
  let at_ := fun (q : Int) (limit : Option Nat) =>
    (limitedSums limit (ps.map (FNum.truncAt q)) 0).map fun v => FNum.fin (v < 0) v.natAbs q
  match inner with
  | .int20 => at_ 0 (some (2 ^ 19))
  | .exact =>
    let q := ps.foldl (fun q p => match p with | .fin _ _ e => min q e | _ => q) 0
    at_ q none
  | .fixed bits limit =>
    match (ps.filterMap FNum.exponent).max? with
    | none => [.fin false 0 0]
    | some e => at_ (e - (bits - 1 : Nat)) (limit.map fun l => 2 ^ (l + bits - 1))

/-- R164 to R166: the inner sums of one group's products: a product that is not finite takes the group's own promotion with it, and the early
ones that the finite products force stand. -/
def groupSums (inner : Inner) (ps : List FNum) : List FNum :=
  match specialSum ps with
  | none => finiteSums inner ps
  | some x => (finiteSums inner ps).dropLast ++ [x]

/-- What scales a group: nothing, both MX block scales, or a GQ4 block scale and superblock scale (R166). -/
inductive Scaling where
  | none
  | mx (a b : Nat)
  | gq (c : Nat) (s : Nat)
  deriving DecidableEq, Repr

/-- R166: a group's promoted values, as FP32 patterns. -/
def promote (inner : Inner) (sc : Scaling) (xs ys : List FNum) : List Nat :=
  let ps := (xs.zip ys).map fun p => (FNum.mul p.1 p.2).1
  let sums := groupSums inner ps
  let rounded := fun (n : FNum) => (Fmt.f32.encode 0 false false n).1
  match sc with
  | .none => sums.map rounded
  | .mx a b =>
    if a == 255 || b == 255 then sums.map fun _ => Fmt.f32.nan
    else sums.map fun n => rounded (FNum.mul n (.fin false 1 ((a : Int) + b - 254))).1
  | .gq c s =>
    if c = 0 then [if xs.all FNum.isFinite then 0 else Fmt.f32.nan]
    else sums.map fun n => rounded (FNum.mul n (FNum.mul (Fmt.f32.decode s) (.fin false c (-15))).1).1

/-- R166: one FP32 addition, RNE. -/
def fp32Add (a b : Nat) : Nat :=
  (Fmt.f32.encode 0 false false (FNum.add 0 (Fmt.f32.decode a) (Fmt.f32.decode b)).1).1

/-- A list cut into runs of `n`; `fuel` bounds them. -/
def chunks {α : Type} (n : Nat) : Nat → List α → List (List α)
  | 0, _ => []
  | fuel + 1, xs => if xs.isEmpty then [] else xs.take n :: chunks n fuel (xs.drop n)

/-- R159, R164 to R166: one element: its groups in ascending K order; answers the new element and the early promotions. -/
def stepElement (mode : ArrayMode) (scale : Nat → Scaling) (xs ys : List (List FNum)) (t : Nat) : Nat × Nat :=
  ((xs.zip ys).zipIdx).foldl (fun (acc : Nat × Nat) g =>
    let ps := promote mode.inner (scale g.2) g.1.1 g.1.2
    (ps.foldl fp32Add acc.1, acc.2 + (ps.length - 1))) (t, 0)

/-- A B panel as columns of groups, with each column's block scales and superblock scales. -/
structure Panel where
  columns : List (List (List FNum))
  scales : Array Byte
  supers : Array Word

/-- The scaling of group `g` of column `n` for a row whose A scales are `as`. -/
def groupScaling (af bf blocks : Nat) (as : Array Byte) (p : Panel) (n g : Nat) : Scaling :=
  if isMx bf then .mx (if isMx af then (as.getD g 0).toNat else 127) (p.scales.getD (n * blocks + g) 0).toNat
  else if bf == 13 then .gq (p.scales.getD (n * blocks + g) 0).toNat (p.supers.getD (n * blocks + g) 0).toNat
  else .none

/-- R159: one row of a step: 128 tile elements in, 128 out, with the early promotions. -/
def stepRow (mode : ArrayMode) (af bf k : Nat) (a : List FNum) (as : Array Byte) (p : Panel) (tile : List Nat) : List Nat × Nat :=
  let xs := chunks mode.group (k + 1) a
  let blocks := if blockSize bf = 0 then 0 else k / blockSize bf
  let rs := ((p.columns.zip tile).zipIdx).map fun c =>
    stepElement mode (groupScaling af bf blocks as p c.2) xs c.1.1 c.1.2
  (rs.map (·.1), (rs.map (·.2)).sum)

end Sys2Proof.Machine
end

