-- ==== Sys2Proof/Machine/Flags.lean ====
section
/-! DEFINITION. Flag computations (R100, R101): what an operation's lanes raise together, and the statistics events they
post (R286, R287). -/

namespace Sys2Proof.Machine

/-- The flags that any lane raised. -/
def anyFlag (fs : List Fl) : Fl := fs.foldl (· ||| ·) 0

/-- R101: one event for each flag that some lane raised, its count the number of those lanes. -/
def State.flagEvents (s : State) (src : Nat) (fs : List Fl) : List StatEvent :=
  (List.range 4).filterMap fun i =>
    let n := (fs.filter fun f => f.getLsbD i).length
    if n = 0 then none else some (s.event i n 0 src)

/-- A result with the flags its lanes raised, arriving together (R101). -/
def State.pushFlags (s : State) (lat : Nat) (ws : List RegWrite) (fs : List Fl) (evs : List StatEvent := []) : State :=
  s.setMe (s.me.push lat ws (anyFlag fs) (s.flagEvents (srcOfSlot s.me.slot) fs ++ evs))

/-- R123: the mode of an RMO field. -/
def Core.rounding (k : Core) (rmo : BitVec 3) : Nat := if rmo = 0 then k.ctl.rnd.toNat else rmo.toNat - 1

end Sys2Proof.Machine
end

