-- ==== Sys2Proof/Machine/Engine.lean ====
section
/-! DEFINITION. What the core's engines share: far and local operand accesses with their faults (R148, R190, R215, R371), the
records of engine faults (R167, R193, R263 to R265), and the walk of a copy descriptor, element by element (R190 to R192). -/

namespace Sys2Proof.Machine

/-- A fault an engine meets. -/
structure EngFault where
  cause : BitVec 5
  /-- The faulting address and whether it is local. -/
  addr : Option (DWord × Bool) := none
  hnd : Option (BitVec 6) := none
  aux : Nat := 0
  deriving DecidableEq, Repr

/-- What an engine access meets: its value, a fault, a page fault at an address, or a file page being read. -/
inductive EngRes (α : Type) where
  | ok (a : α)
  | fault (f : EngFault)
  | page (va : DWord) (wr : Bool)
  | file (index size : Nat)
  deriving DecidableEq, Repr

def EngRes.bind {α β : Type} (r : EngRes α) (f : α → EngRes β) : EngRes β :=
  match r with
  | .ok a => f a
  | .fault e => .fault e
  | .page v w => .page v w
  | .file i sz => .file i sz

def localFault (cause : BitVec 5) (a : DWord) : EngFault := { cause := cause, addr := some (a, true) }
def virtFault (cause : BitVec 5) (a : Nat) : EngFault := { cause := cause, addr := some (BitVec.ofNat 64 a, false) }

/-- The outcome of a translated access as an engine's (R221, R371). -/
def Access.engine {α : Type} (wr : Bool) : Access α → EngRes α
  | .ok a => .ok a
  | .pageFault v => .page (BitVec.ofNat 64 v) wr
  | .protection v => .fault (virtFault Cause.protection v)
  | .fileWait i sz => .file i sz
  | .fileIo v => .fault (virtFault Cause.fileIo v)

/-- A virtual address whose bits 63:57 are zero (R148, R190, R217). -/
def virtOk (a : DWord) : Bool := a.toNat < 2 ^ 57

/-- Bytes at a virtual address in the address space of core `c`. -/
def State.engineVread (s : State) (c : CoreNo) (a : DWord) (n : Nat) : EngRes (List Byte) :=
  if virtOk a then (s.vread (s.core c).theLaunch.asid a.toNat n false (some (clusterOf c))).engine false
  else .fault (virtFault Cause.protection a.toNat)

/-- The pages of `n` bytes at a virtual address. -/
def pagesOf (a n : Nat) : List Nat := (List.range ((a + n + 4095) / 4096 - a / 4096)).map fun i => (a / 4096 + i) * 4096

/-- R223, R232: an engine of core `c` turns to `n` virtual bytes, to read or to write them. -/
def State.engineReach (s : State) (c : CoreNo) (read : Bool) (a : DWord) (n : Nat) : State :=
  if virtOk a then s.reach c (s.core c).theLaunch.asid read (pagesOf a.toNat n) else s

/-- A write at a virtual address by engine `eng` of core `c` (0 C0, 1 C1, 2 M); what was written before a fault stays written. -/
def State.engineVwrite (s : State) (c : CoreNo) (eng : Nat) (a : DWord) (bs : List Byte) : State × EngRes Unit :=
  if virtOk a then
    let (t, r) := (s.engineReach c false a bs.length).vwrite (s.core c).theLaunch.asid a.toNat bs (some (c, eng))
    (t, r.engine true)
  else (s, .fault (virtFault Cause.protection a.toNat))

/-- R371: an EMPTY entry that an access by a page of `size` bytes meets starts being read, from its LBA into its FRAME. -/
def State.startFileRead (s : State) (index size : Nat) : State :=
  match s.pageEntry index with
  | none => s
  | some e =>
    let w := s.hbm.num e 16
    if w % 4 == 0 then
      ({ s with hbm := s.hbm.write e [s.hbm.read e ||| 1] } : State).updHub fun h => { h with reads := h.reads ++ [{
        index := index, size := size, frame := bitsOf w 12 40 * 4096, nsid := bitsOf w 112 16, lba := bitsOf w 64 48 }] }
    else s

/-- R148: the local operand bytes of an engine of core `c`, in its bench or its die's loft. -/
def State.engineLocal (s : State) (c : CoreNo) (a : DWord) (n : Nat) : EngRes Local :=
  let x := a.toNat
  match localOf x n with
  | some .bench => if (s.core c).owns x n then .ok .bench else .fault (localFault Cause.ownership a)
  | some .loft => if s.holdsBays c x n then .ok .loft else .fault (localFault Cause.protection a)
  | _ => .fault (localFault Cause.protection a)

/-- R148: operand bytes, local or virtual. -/
def State.operand (s : State) (c : CoreNo) (virt : Bool) (a : DWord) (n : Nat) : EngRes (List Byte) :=
  if virt then s.engineVread c a n
  else (s.engineLocal c a n).bind fun m => .ok (s.localBytes c m a.toNat n)

/-- R63, R160, R186: the poisoned handle that a read of an operand in the bench meets, once it is allowed (R79 gives the order). -/
def State.operandPoison (s : State) (c : CoreNo) (virt : Bool) (a : DWord) (n : Nat) : Option (Nat × Handle) :=
  if virt || localOf a.toNat n != some .bench || !(s.core c).owns a.toNat n then none else (s.core c).poisonAt a.toNat n

/-- R148, R216: whether a loft operand is late, and by how many cycles. -/
def State.operandLate (s : State) (c : CoreNo) (virt : Bool) (a : DWord) (n : Nat) : Nat :=
  if virt || localOf a.toNat n != some .loft then 0
  else cyclesOf (s.cluster (clusterOf c)).mhz (s.loftWait (dieOf (clusterOf c)) (a.toNat - loftBase) n)

/-- R148: a local destination: the own bench, outside regions the core does not own. -/
def State.localDest (s : State) (c : CoreNo) (a : DWord) (n : Nat) : EngRes Unit :=
  match localOf a.toNat n with
  | some .bench => if (s.core c).owns a.toNat n then .ok () else .fault (localFault Cause.ownership a)
  | some .loft => .fault (localFault Cause.loftWrite a)
  | _ => .fault (localFault Cause.protection a)

/-- Writes a result image of the M engine, local or virtual (R178, R258). -/
def State.writeDest (s : State) (c : CoreNo) (virt : Bool) (a : DWord) (bs : List Byte) : State × EngRes Unit :=
  if virt then s.engineVwrite c 2 a bs
  else
    match s.localDest c a bs.length with
    | .ok _ => (s.updCore c fun k => { k with bench := k.bench.write a.toNat bs }, .ok ())
    | r => (s, r)

/-! ### Records of engine faults -/

/-- The record of a fault of an engine of core `c` (R167, R193): class 1 the matrix engine and the Loom, 2 C0, 3 C1. -/
def State.engineRecord (s : State) (c : CoreNo) (cls : Nat) (g : Charge) (prog : Nat) (f : EngFault)
    (micro : Option (BitVec 8 × BitVec 11)) : TrapRecord :=
  let k := s.core c
  { unit := c, cls := BitVec.ofNat 3 cls, cause := f.cause, errno := k.theLaunch.errand.setWidth 16
    xaddr := g.xaddr, oaddr := g.oaddr, iter := g.iter
    av := f.addr.isSome, loc := f.addr.elim false (·.2), faddr := (f.addr.elim (0 : DWord) (·.1)).setWidth 57
    prog := BitVec.ofNat 64 prog, aux := BitVec.ofNat 12 f.aux
    uv := micro.isSome, uidx := micro.elim 0 (·.2), rout := micro.elim 0 (·.1)
    hv := f.hnd.isSome, hnd := f.hnd.getD 0
    op := BitVec.ofNat 7 g.op, slots := BitVec.ofNat 7 (2 ^ g.slot), stamp := k.ctl.cycle }

/-- An engine fault is written when it is met, and its trap of kind A becomes pending (R167, R193, R266). -/
def State.raiseEngine (s : State) (c : CoreNo) (t : TrapRecord) : State :=
  s.updCore c fun k =>
    let (k, t) := k.queueRecord t
    { k with pendingA := k.pendingA ++ [{ source := t.cls.toNat - 1, record := t, written := true }] }

/-- A page fault's record is written and the engine holds (R270); answers the hold. -/
def State.holdEngine (s : State) (c : CoreNo) (t : TrapRecord) (va : DWord) (wr : Bool) : State × HeldFault :=
  let (k, t') := (s.core c).queueRecord t
  (s.setCore c k, { va := va, wr := wr, cls := t'.cls, seq := t'.seq })

/-- The hold on a file page (R371). -/
def heldOnFile (index : Nat) : HeldFault := { file := some (BitVec.ofNat 40 index) }

/-- R269: a source's oldest record has found the ring full: fetch holds the core, and an engine its queue. -/
def Core.recordWaits (k : Core) (cls : Nat) : Bool := k.ringHeld.getLsbD cls && k.records.any fun t => t.cls.toNat == cls

/-- The charge of the slot under way. -/
def State.charge (s : State) (op : Nat) : Charge :=
  let k := s.me
  let bm := s.backMap k k.baddr
  { xaddr := s.shownAddr k k.baddr, oaddr := bm.1, iter := bm.2, slot := k.slot, op := op }

/-- An event that an engine raises after acceptance (R286). -/
def Charge.event (g : Charge) (cls count detail : Nat) : StatEvent :=
  { cls := cls, count := count, detail := detail, src := srcOfSlot g.slot, addr := g.oaddr }

/-! ### Copy descriptors (R190 to R192) -/

namespace Desc

def fieldNat (d : BitVec 512) (byte n : Nat) : Nat := bitsOf d.toNat (8 * byte) (8 * n)
def base (d : BitVec 512) : DWord := BitVec.ofNat 64 (fieldNat d 0 8)
def stride (d : BitVec 512) (i : Nat) : Int := toSigned 32 (fieldNat d (8 + 4 * i) 4)
def count (d : BitVec 512) (i : Nat) : Nat := fieldNat d (32 + 2 * i) 2
def extent (d : BitVec 512) (i : Nat) : Nat := fieldNat d (44 + 2 * i) 2
def esize (d : BitVec 512) : Nat := fieldNat d 56 1
def ndim (d : BitVec 512) : Nat := fieldNat d 57 1
/-- The pad element's bytes. -/
def pad (d : BitVec 512) : List Byte := leBytes (esize d) (fieldNat d 60 4)
def dims (d : BitVec 512) : List Nat := List.range (ndim d)
/-- Elements of the tile. -/
def elements (d : BitVec 512) : Nat := (dims d).foldl (fun n i => n * count d i) 1
def tileBytes (d : BitVec 512) : Nat := elements d * esize d

/-- R192, check 4, but for what the command adds. -/
def valid (d : BitVec 512) : Bool :=
  fieldNat d 58 2 == 0 && 1 ≤ ndim d && ndim d ≤ 6 && [1, 2, 4, 8].contains (esize d) && (dims d).all fun i => count d i != 0

/-- R192, check 5. -/
def aligned (d : BitVec 512) : Bool :=
  (base d).toNat % esize d == 0 && (dims d).all fun i => stride d i % (esize d : Int) == 0

/-- The index along each dimension of element `p`, dimension 0 fastest. -/
def coords (d : BitVec 512) (p : Nat) : List Nat :=
  ((dims d).foldl (fun (a : List Nat × Nat) i => (a.1 ++ [a.2 % count d i], a.2 / count d i)) ([], p)).1

end Desc

/-- R198: GATHER and SCATTR. -/
def isIndexed : Instr → Bool
  | .gather .. | .scattr .. => true
  | _ => false

/-- R191, R198: where element `p` of a command lies, and whether it is inside. -/
def CopyCmd.element (m : CopyCmd) (p : Nat) : Int × Bool :=
  let d := m.desc
  let ix := Desc.coords d p
  if isIndexed m.instr then
    let row := (m.index.getD (ix.getD 1 0) 0).toNat
    (m.base + row * Desc.stride d 1 + ix.getD 0 0 * Desc.stride d 0,
     decide ((row : Int) < m.extent.getD 1 0) && decide (((ix.getD 0 0 : Nat) : Int) < m.extent.getD 0 0))
  else
    (ix.zipIdx.foldl (fun a x => a + x.1 * Desc.stride d x.2) m.base,
     ix.zipIdx.all fun x => decide ((x.1 : Int) < m.extent.getD x.2 0))

/-- R190: a local far place: the own bench, the own yard, and for a read the own loft. -/
def farLocal (read : Bool) (a n : Nat) : Bool :=
  match localOf a n with
  | some .bench | some .yard => true
  | some .loft => read
  | none => false

/-- R190: far bytes of an inbound command. The yard's are its committed state. A bench byte of another handle's region is read only while
that handle has O = 1 (R183; the fault where it has not: notes/assumptions/54.md). -/
def State.farRead (s : State) (c : CoreNo) (virt : Bool) (a : DWord) (n : Nat) : EngRes (List Byte) :=
  if virt then s.engineVread c a n
  else
    let x := a.toNat
    match localOf x n with
    | some .bench =>
      if (s.core c).engineOwns x n then .ok ((s.core c).bench.bytes x n) else .fault (localFault Cause.ownership a)
    | some .yard => .ok ((s.cluster (clusterOf c)).yard.bytes (x - yardBase) n)
    | some .loft =>
      if s.holdsBays c x n then .ok ((s.die (dieOf (clusterOf c))).loft.bytes (x - loftBase) n)
      else .fault (localFault Cause.protection a)
    | none => .fault (localFault Cause.protection a)

/-- R183, R190: a far write of an outbound command of engine `eng`. -/
def State.farWrite (s : State) (c : CoreNo) (eng : Nat) (virt : Bool) (a : DWord) (bs : List Byte) : State × EngRes Unit :=
  if virt then s.engineVwrite c eng a bs
  else
    let x := a.toNat
    match localOf x bs.length with
    | some .bench =>
      if (s.core c).engineOwns x bs.length then (s.updCore c fun k => { k with bench := k.bench.write x bs }, .ok ())
      else (s, .fault (localFault Cause.ownership a))
    | some .yard => (s.updCluster (clusterOf c) fun y => { y with yard := y.yard.write (x - yardBase) bs }, .ok ())
    | some .loft => (s, .fault (localFault Cause.loftWrite a))
    | none => (s, .fault (localFault Cause.protection a))

/-- An access that moves nothing further. -/
def EngRes.unit {α : Type} (r : EngRes α) : EngRes Unit := r.bind fun _ => .ok ()

/-- R214: a 64-byte transfer of engine `eng` (0 C0, 1 C1, 2 a UFETCH's) at the yard line of a local far element claims its bank; an element in
the line of the one before it is of the same transfer. A UFETCH's transfers count as the core's own (DESIGN CHOICE, notes/assumptions/53.md). -/
def State.claimElement (s : State) (c : CoreNo) (eng : Nat) (m : CopyCmd) : State :=
  let line := fun (p : Nat) =>
    let (x, inside) := m.element p
    let a := (BitVec.ofInt 64 x : DWord).toNat
    if inside && !m.virt && localOf a (Desc.esize m.desc) == some .yard then some ((a - yardBase) / 64) else none
  match line m.pos with
  | none => s
  | some l =>
    if 0 < m.pos && line (m.pos - 1) == some l then s
    else (s.claimYard (clusterOf c) (requesterOf c (if eng = 2 then 0 else 1 + eng)) (s.core c).cycleNat [l]).1

/-- R191, R214, R223, R232: the engine turns to the far bytes of the element it has reached. -/
def State.reachElement (s : State) (c : CoreNo) (eng : Nat) (m : CopyCmd) : State :=
  let (x, inside) := m.element m.pos
  if !inside then s
  else if m.virt then s.engineReach c m.inbound (BitVec.ofInt 64 x) (Desc.esize m.desc)
  else s.claimElement c eng m

/-- R216: a refresh that holds the read of a loft element posts its event, once until it ends. -/
def State.lateElement (s : State) (c : CoreNo) (m : CopyCmd) : State × CopyCmd :=
  let a : DWord := BitVec.ofInt 64 (m.element m.pos).1
  let w := s.operandLate c m.virt a (Desc.esize m.desc)
  if w = 0 || s.now < m.lateUntil then (s, m)
  else ((s.postEvent c (m.charge.event 7 1 w)),
    { m with lateUntil := s.now + s.loftWait (dieOf (clusterOf c)) (a.toNat - loftBase) (Desc.esize m.desc) })

/-- R191: engine `eng` moves the element that a tile command has reached; at a fault it has moved nothing of it. -/
def State.moveElement (s : State) (c : CoreNo) (eng : Nat) (m : CopyCmd) : State × CopyCmd × EngRes Unit :=
  let e := Desc.esize m.desc
  let at_ := ((s.core c).handle m.h).base.toNat + m.pos * e
  let (x, inside) := m.element m.pos
  let far : DWord := BitVec.ofInt 64 x
  let land := fun (s : State) (bs : List Byte) => s.updCore c fun k => { k with bench := k.bench.write at_ bs }
  let s := s.reachElement c eng m
  match m.inbound, inside with
  | true, false => (land s (Desc.pad m.desc), { m with pos := m.pos + 1, landed := m.landed + e }, .ok ())
  | true, true =>
    match s.farRead c m.virt far e with
    | .ok bs =>
      let (s, m) := s.lateElement c m
      (land s bs, { m with pos := m.pos + 1, landed := m.landed + e, rd := m.rd + e }, .ok ())
    | r => (s, m, r.unit)
  | false, false => (s, { m with pos := m.pos + 1 }, .ok ())
  | false, true =>
    match s.farWrite c eng m.virt far ((s.core c).bench.bytes at_ e) with
    | (t, .ok _) => (t, { m with pos := m.pos + 1, landed := m.landed + e, rd := m.rd + e }, .ok ())
    | (t, r) => (t, m, r)

/-- R191: every element of a tile command has moved. -/
def CopyCmd.allMoved (m : CopyCmd) : Bool := Desc.elements m.desc ≤ m.pos

/-- R192, checks 1 to 5: the descriptor at bench address `a`. -/
def Core.readDescriptor (k : Core) (a : DWord) : Except (BitVec 5) (BitVec 512) :=
  let x := a.toNat
  if x % 64 != 0 then .error Cause.align
  else if benchSize < x + 64 then .error Cause.protection
  else if !k.owns x 64 then .error Cause.ownership
  else .ok (BitVec.ofNat 512 (k.bench.num x 64))

/-- R190, R192: the far base of a descriptor must fit its address space. -/
def baseOk (virt : Bool) (b : DWord) : Bool := !virt || virtOk b

/-- R192, check 8: every element of the tile that lies inside has a local far place allowed to it. -/
def CopyCmd.farOk (m : CopyCmd) : Bool :=
  m.virt || (List.range (Desc.elements m.desc)).all fun p =>
    let (a, inside) := m.element p
    !inside || (decide (0 ≤ a) && farLocal m.inbound a.toNat (Desc.esize m.desc))

end Sys2Proof.Machine
end

