-- ==== Sys2Proof/Machine/Matrix.lean ====
section
/-! DEFINITION. The matrix engine: its queue and snapshots (R153), tiles (R145, R146), latches (R152), the M-slot matrix
instructions (R171 to R179), and the start and end of a queued operation. The Loom's are in Loom.lean, the micro-ops in
Micro.lean. -/

namespace Sys2Proof.Machine

def tileBytes : Nat := 0x10000
def accSize : Nat := 0x80000

def State.matrix (s : State) (c : CoreNo) : Matrix := (s.core c).matrix
def State.updMatrix (s : State) (c : CoreNo) (f : Matrix → Matrix) : State :=
  s.updCore c fun k => { k with matrix := f k.matrix }

/-- R112: a format record from a table image. -/
def fmtOfImage (w : BitVec 256) : FmtRec :=
  let n := w.toNat
  { af := BitVec.ofNat 5 n, bf := BitVec.ofNat 5 (bitsOf n 8 5), cf := BitVec.ofNat 5 (bitsOf n 16 5)
    rm := BitVec.ofNat 2 (bitsOf n 24 2), sat := BitVec.ofNat 1 (bitsOf n 26 1)
    asb := BitVec.ofNat 64 (bitsOf n 64 64), bsb := BitVec.ofNat 64 (bitsOf n 128 64), bssb := BitVec.ofNat 64 (bitsOf n 192 64) }

/-- R113: the current entry's index, from FB, FLEV and the counter. -/
def Core.currentIndex (k : Core) : Nat :=
  let lev := k.inForce.flev.toNat
  if lev < 6 then (k.inForce.fb.toNat + (k.readN lev).toNat) % 64 else k.inForce.fb.toNat

def Core.currentFmt (k : Core) : FmtRec := fmtOfImage ((k.matrix.fmtTable.toList).getD k.currentIndex 0)

/-- R38, R153: a queued operation of four, or a hold; the copies of R153 and R249 are taken now. `a` names the scalar register
it uses. A first issue's tile address is taken as it is: only a re-issue steps it (R145). -/
def State.enqueue (s : State) (op : Nat) (i : Instr) (a : BitVec 5) : OpRes :=
  let k := s.me
  let m := k.matrix
  if m.closed || m.reloading || 4 ≤ m.queue.length then .hold .accept
  else
    let o : MatOp := { instr := i, j := k.reissue, tileOk := k.tileOk && k.reissue != 0, m := k.m, expl := m.expl, cur := k.currentFmt
                       a := k.readS a, bound := k.inForce.bound, psnTrap := k.psnTraps, charge := s.charge op }
    -- R169: until now the engine stood at a retirement point, where it was idle.
    let at_ := if m.queue.isEmpty && m.running.isNone then k.cycleNat else m.retiredAt
    .done (s.setMe { k with matrix := { m with queue := m.queue ++ [o], accepted := m.accepted + 1, retiredAt := at_ } })

/-! ### M-slot instructions that act at their issue (R172 to R174) -/

/-- R172: Issues nothing and idles the M record. -/
def opMnop (_bt : BitVec 2) (s : State) : OpRes := .done s

/-- R173: Sets or adds to a matrix parameter register. -/
def opMsetp (_bt : BitVec 2) (m : BitVec 3) (a : BitVec 5) (p : BitVec 1) (s : State) : OpRes :=
  let k := s.me
  let v := k.readS a
  .done (s.setMe (k.push 1 [.m m (if p = 1 then k.m[m.toNat] + v else v)]))

/-- R174: Writes the explicit format record. -/
def opMfmt (_bt : BitVec 2) (a : BitVec 5) (b : BitVec 5) (c : BitVec 5) (r : BitVec 2) (t : BitVec 1) (s : State) : OpRes :=
  .done (s.updMe fun k => { k with matrix := { k.matrix with
    expl := { af := a, bf := b, cf := c, rm := r, sat := t, asb := k.m[5], bsb := k.m[6], bssb := k.m[7] } } })

/-- R172: nothing queued, running, loading, being fetched or held in the engine. -/
def Matrix.idle (m : Matrix) : Bool :=
  m.queue.isEmpty && m.running.isNone && m.fault.isNone && m.fetches.isEmpty && m.latches.all fun l => !l.loading

/-- R172, R258: every operation of the matrix engine of core `c` has completed, with the writes of its virtual retirements and bands acknowledged
at SYS scope. -/
def State.matrixIdle (s : State) (c : CoreNo) : Bool := (s.core c).matrix.idle && !s.egressHolds c (·.eng == 2)

/-- R172: Holds until the matrix engine is idle. -/
def opMwait (_bt : BitVec 2) (s : State) : OpRes := if s.matrixIdle s.cur then .done s else .hold .mwait

/-! ### M-slot instructions that are queued -/

/-- R175: Queues a matrix routine with a register snapshot. -/
def opMcall (bt : BitVec 2) (n : BitVec 8) (s : State) : OpRes := s.enqueue 0x01 (.mcall bt n) 0
/-- R176: Loads an edge latch directly. -/
def opMlatch (bt : BitVec 2) (e : BitVec 2) (b : BitVec 3) (v : BitVec 1) (k : BitVec 10) (f : BitVec 1) (s : State) : OpRes :=
  s.enqueue 0x03 (.mlatch bt e b v k f) 0
/-- R177: Zeroes a tile and makes it live. -/
def opMaccz (bt : BitVec 2) (m : BitVec 3) (s : State) : OpRes := s.enqueue 0x04 (.maccz bt m) 0
/-- R178: Converts a tile and writes its image. -/
def opMretire (bt : BitVec 2) (m : BitVec 3) (a : BitVec 5) (v : BitVec 1) (f : BitVec 1) (e : BitVec 1) (s : State) : OpRes :=
  s.enqueue 0x05 (.mretire bt m a v f e) a
/-- R179: Loads a routine into the microprogram store. -/
def opMupld (bt : BitVec 2) (n : BitVec 8) (a : BitVec 5) (word : BitVec 11) (cnt : BitVec 11) (s : State) : OpRes :=
  s.enqueue 0x06 (.mupld bt n a word cnt) a

/-! ### Tiles (R145, R241) -/

/-- The tile a register value names, or the fault: ALIGN, PROTECTION, or MICROCODE for a grid tile. -/
def Matrix.tileOf (m : Matrix) (a : DWord) : EngRes Nat :=
  if a.toNat % tileBytes != 0 then .fault { cause := Cause.align }
  else if accSize ≤ a.toNat then .fault { cause := Cause.protection }
  else if m.gridTiles.getLsbD (a.toNat / tileBytes) then .fault { cause := Cause.microcode }
  else .ok (a.toNat / tileBytes)

/-- R171: a stepped tile address. -/
def MatOp.tileAddr (o : MatOp) (a : DWord) : DWord :=
  if o.tileOk then BitVec.ofNat 64 ((a.toNat + o.j * tileBytes) % accSize) else a

/-- Whether a tile address is legal where an operation is named (R145). -/
def legalTile (a : DWord) : Bool := a.toNat % tileBytes == 0 && a.toNat < accSize

def zeroRange (m : Mem) (a n : Nat) : Mem := m.filter fun c => c.1 < a || a + n ≤ c.1

/-- Makes a tile live or not; a tile that is not live holds zeros (R145). -/
def Matrix.setLive (m : Matrix) (t : Nat) (on : Bool) : Matrix :=
  let bit : BitVec 8 := 1#8 <<< t
  { m with live := if on then m.live ||| bit else m.live &&& ~~~bit }
def Matrix.zeroTile (m : Matrix) (t : Nat) : Matrix := { m with acc := zeroRange m.acc (t * tileBytes) tileBytes }

/-- A row of a tile as 128 FP32 patterns. -/
def Matrix.tileRow (m : Matrix) (t r : Nat) : List Nat :=
  (chunks 4 129 (m.acc.bytes (t * tileBytes + r * 512) 512)).map leNat
def Matrix.setTileRow (m : Matrix) (t r : Nat) (xs : List Nat) : Matrix :=
  { m with acc := m.acc.write (t * tileBytes + r * 512) (xs.flatMap (leBytes 4)) }

/-- R145: a retirement without KEEP, which has made its tile not live, is over, done or faulted: a tile that is not live holds
zeros. -/
def State.dropTile (s : State) (c : CoreNo) (t : Nat) (keep : BitVec 1) : State :=
  if keep = 0 then s.updMatrix c fun x => (x.setLive t false).zeroTile t else s

/-- R145: a retirement without KEEP that is under way when a fault of the engine drops it has made its tile not live. -/
def State.dropRetiring (s : State) (c : CoreNo) : State :=
  match (s.matrix c).running with
  | some o =>
    match o.instr with
    | .mretire _ m _ _ _ keep =>
      match (s.matrix c).tileOf (o.tileAddr o.m[m.toNat]) with
      | .ok t => s.dropTile c t keep
      | _ => s
    | _ => s
  | none => s

/-! ### Faults, holds and completion of a running operation -/

/-- R265: the progress word of a matrix or rule operation. -/
def progressOf (k : Core) (o : MatOp) : Nat :=
  match o.instr with
  | .rstep .. => k.ctl.genCount.toNat
  | _ => k.ctl.rowp.toNat

/-- R145, R167: the operation stops, what is queued behind it is discarded, and the M record is idle. -/
def State.matrixFault (s : State) (c : CoreNo) (o : MatOp) (micro : Option (BitVec 8 × BitVec 11)) (f : EngFault) : State :=
  let t := s.engineRecord c 1 o.charge (progressOf (s.core c) o) f micro
  ((s.dropRetiring c).raiseEngine c t).updCore c fun k => { k with
    sticky := { k.sticky with m := {} }
    matrix := { k.matrix with queue := [], running := none, routine := none, completed := k.matrix.accepted } }

/-- A queued operation's access stopped: a fault, or a hold on a page or a file page (R167, R168, R371); `hnd` is the handle that names its
operand. -/
def State.matrixStop (s : State) (c : CoreNo) (o : MatOp) (micro : Option (BitVec 8 × BitVec 11)) (r : EngRes Unit)
    (hnd : Option (BitVec 6) := none) : State :=
  match r with
  | .ok _ => s
  | .fault f => s.matrixFault c o micro { f with hnd := f.hnd.or hnd }
  | .page va wr =>
    let t := s.engineRecord c 1 o.charge (progressOf (s.core c) o)
      { cause := Cause.pageFault, addr := some (va, false), hnd := hnd } micro
    let (t, h) := s.holdEngine c t va wr
    t.updMatrix c fun m => { m with fault := some h }
  | .file i sz => (s.startFileRead i sz).updMatrix c fun m => { m with fault := some (heldOnFile i) }

/-- The running operation is complete; `retire` marks a retirement point, at which the engine yields to a save (R169). -/
def State.matrixDone (s : State) (c : CoreNo) (retire : Bool) : State :=
  let stopping := s.crewStopping c
  s.updCore c fun k =>
    let m := { k.matrix with running := none, routine := none, completed := k.matrix.completed + 1 }
    let point := retire || m.closed || m.queue.isEmpty
    { k with matrix := if point then { m with retiredAt := k.cycleNat, closed := m.closed || stopping } else m }

/-- The running operation begins, or is found at fault before it does anything. -/
def State.matrixRun (s : State) (c : CoreNo) (o : MatOp) : State := s.updMatrix c fun m => { m with running := some o }

/-! ### Latches (R152, R158) -/

def latchBytes : Nat := 32768

def panelBytes (f k : Nat) : Nat := k * 128 * elemBits f / 8

/-- Blocks of a panel. -/
def panelBlocks (f k : Nat) : Nat := if blockSize f = 0 then 0 else 128 * k / blockSize f

/-- R143, R144, R152: what stops a load of a panel before it begins. -/
def loadCheck (rec : FmtRec) (k : Nat) : EngRes ArrayMode :=
  match arrayMode rec.af.toNat rec.bf.toNat with
  | some m =>
    if m.kOk k && panelBytes rec.bf.toNat k ≤ latchBytes then .ok m else .fault { cause := Cause.microcode }
  | none => .fault { cause := Cause.microcode }

def Matrix.setLatch (m : Matrix) (e : BitVec 2) (l : Latch) : Matrix := { m with latches := m.latches.set e.toNat l }
def Matrix.latch (m : Matrix) (e : BitVec 2) : Latch := m.latches[e.toNat]

/-- The scale bytes and superblock scales of a panel, read from its cursors (R151). -/
def State.panelScales (s : State) (c : CoreNo) (f k : Nat) (src : LatchSource) : EngRes (List Byte × List Word) :=
  let n := panelBlocks f k
  if n = 0 then .ok ([], [])
  else (s.engineVread c src.bsc n).bind fun sc =>
    if f != 13 then .ok (sc, [])
    else
      let first := src.bc / 256
      let last := (src.bc + n - 1) / 256
      (s.engineVread c (src.bssc + BitVec.ofNat 64 (4 * first)) (4 * (last - first + 1))).bind fun bs =>
        let ws := ((chunks 4 (last - first + 2) bs).map fun b => BitVec.ofNat 32 (leNat b)).toArray
        .ok (sc, (List.range n).map fun i => ws.getD ((src.bc + i) / 256 - first) 0)

/-- The panel's bytes: a handle's region, or an operand (R148, R160). -/
def State.panelRead (s : State) (c : CoreNo) (f k : Nat) (src : LatchSource) : EngRes (List Byte) :=
  match src.handle with
  | some h =>
    let hd := (s.core c).handle h
    if hd.size.toNat < panelBytes f k then .fault { cause := Cause.protection, hnd := some h }
    else .ok ((s.core c).bench.bytes hd.base.toNat (panelBytes f k))
  | none => s.operand c src.virt src.addr (panelBytes f k)

/-- A load of latch `e` begins: it is invalid until the load completes (R158). -/
def State.beginLoad (s : State) (c : CoreNo) (e : BitVec 2) (f : BitVec 5) (k : Nat) (src : LatchSource) : State :=
  s.updMatrix c fun m => m.setLatch e { loading := true, fmt := f, k := k, source := src }

/-- R148, R216: the event of operand ranges that a loft refresh makes late. -/
def State.lateEvents (s : State) (c : CoreNo) (g : Charge) (virt : Bool) (rs : List (DWord × Nat)) : List StatEvent :=
  let w := rs.foldl (fun w r => max w (s.operandLate c virt r.1 r.2)) 0
  if w = 0 then [] else [g.event 7 1 w]

/-- R160: what a read of `n` operand bytes in a poisoned handle's region raises under MODE.PSN = 1. -/
def State.poisonFault (s : State) (c : CoreNo) (virt : Bool) (a : DWord) (n : Nat) : Option EngFault :=
  (s.operandPoison c virt a n).map fun (i, h) => { cause := poisonCause h, addr := some (a, true), hnd := some (BitVec.ofNat 6 i) }

/-- R63, R160: the event of a read that meets the poison `f` under MODE.PSN = 0. -/
def Charge.poisonEvent (g : Charge) (f : EngFault) : StatEvent := g.event 5 1 (f.hnd.elim 0 (·.toNat))

/-- R160: what a read of a poisoned tile handle raises under MODE.PSN = 1. -/
def handlePoison (h : BitVec 6) (hd : Handle) : Option EngFault :=
  if hd.psn = 0 then none else some { cause := poisonCause hd, hnd := some h }

/-- R63, R160, R186: a read that has met the poison `f`, if any: the fault under MODE.PSN = 1, else its event. -/
def poisonEvents (g : Charge) (psnTrap : Bool) (f : Option EngFault) : Except EngFault (List StatEvent) :=
  match f, psnTrap with
  | none, _ => .ok []
  | some f, true => .error f
  | some f, false => .ok [g.poisonEvent f]

/-- R63, R148, R160, R186: an operand range in a poisoned handle's region, and its late loft read. -/
def State.rangeEvents (s : State) (c : CoreNo) (g : Charge) (psnTrap virt : Bool) (a : DWord) (n : Nat) : Except EngFault (List StatEvent) :=
  match poisonEvents g psnTrap (s.poisonFault c virt a n) with
  | .error f => .error f
  | .ok evs => .ok (evs ++ s.lateEvents c g virt [(a, n)])

def State.postAll (s : State) (c : CoreNo) (evs : List StatEvent) : State := evs.foldl (fun s e => s.postEvent c e) s

/-- The poison and refresh of a panel's source (R148, R160), where a reload meets them as the load did (R152). -/
def State.panelEvents (s : State) (c : CoreNo) (n : Nat) (src : LatchSource) : Except EngFault (List StatEvent) :=
  match src.handle with
  | some h => poisonEvents src.charge src.psnTrap (handlePoison h ((s.core c).handle h))
  | none => s.rangeEvents c src.charge src.psnTrap src.virt src.addr n

/-- What a load in flight comes to: the panel with its scales, and on a reload the events of its source. -/
def State.loadLatch (s : State) (c : CoreNo) (l : Latch) : EngRes (List StatEvent × List Byte × List Byte × List Word) :=
  let f := l.fmt.toNat
  let scales := fun (evs : List StatEvent) (p : List Byte) => (s.panelScales c f l.k l.source).bind fun x => .ok (evs, p, x.1, x.2)
  if (s.matrix c).reloading then
    match s.panelEvents c (panelBytes f l.k) l.source with
    | .error x => .fault x
    | .ok evs => (s.panelRead c f l.k l.source).bind (scales evs)
  else if l.source.handle.isSome then scales [] l.panel
  else (s.panelRead c f l.k l.source).bind (scales [])

/-- A latch takes what its load came to; the reload is over with the last of them (R152). -/
def Matrix.endLoad (m : Matrix) (e : BitVec 2) (l : Latch) : Matrix :=
  let m := m.setLatch e l
  if m.latches.any (·.loading) then m else { m with reloading := false }

/-- R223: the virtual bytes that a load in flight reads. -/
def State.reachLoad (s : State) (c : CoreNo) (l : Latch) : State :=
  let f := l.fmt.toNat
  let n := panelBlocks f l.k
  let src := l.source
  let s := if src.handle.isNone && src.virt then s.engineReach c true src.addr (panelBytes f l.k) else s
  if n = 0 then s
  else
    let s := s.engineReach c true src.bsc n
    if f != 13 then s
    else s.engineReach c true (src.bssc + BitVec.ofNat 64 (4 * (src.bc / 256))) (4 * ((src.bc + n - 1) / 256 - src.bc / 256 + 1))

/-- LATCH_LOAD_COMPLETE (R152, R158): the panel and its scales are in the latch, or the load meets its fault, which is the engine's
(R167). -/
def execLatchLoadComplete (c : CoreNo) (e : BitVec 2) (s : State) : Result :=
  let m := s.matrix c
  let l := m.latch e
  if !l.loading || m.fault.isSome || (s.core c).recordWaits 1 then .next s
  else
    let o : MatOp := { instr := .mnop 0, charge := l.source.charge }
    let s := s.reachLoad c l
    match s.loadLatch c l with
    | .ok (evs, p, sc, su) =>
      .next ((s.postAll c evs).updMatrix c fun m =>
        m.endLoad e { l with valid := true, loading := false, panel := p, scales := sc, supers := su })
    | .fault x =>
      let s := s.updMatrix c fun m => m.endLoad e { l with valid := false, loading := false }
      .next (s.matrixFault c o l.source.micro { x with hnd := x.hnd.or l.source.handle })
    | .page v w => .next (s.matrixStop c o l.source.micro (.page v w) l.source.handle)
    | .file i sz => .next (s.matrixStop c o l.source.micro (.file i sz))

/-! ### The operations as they run -/

/-- The record FS selects (R176, R178). -/
def MatOp.record (o : MatOp) (fs : BitVec 1) : FmtRec := if fs = 1 then o.cur else o.expl

/-- The events of one operand range of an operation. -/
def State.operandEvents (s : State) (c : CoreNo) (o : MatOp) (virt : Bool) (a : DWord) (n : Nat) : Except EngFault (List StatEvent) :=
  s.rangeEvents c o.charge o.psnTrap virt a n

/-- MLATCH (R176): the load begins and the operation is over; MWAIT waits for the load. -/
def State.startMlatch (s : State) (c : CoreNo) (o : MatOp) (e : BitVec 2) (b : BitVec 3) (v : BitVec 1) (k : BitVec 10)
    (fs : BitVec 1) : State :=
  let rec_ := o.record fs
  let kk := k.toNat + 1
  match loadCheck rec_ kk with
  | .ok _ =>
    let src : LatchSource := { addr := o.m[b.toNat] + BitVec.ofNat 64 (o.j * panelBytes rec_.bf.toNat kk), virt := v == 1
                               bsc := rec_.bsb, bssc := rec_.bssb, charge := o.charge, psnTrap := o.psnTrap }
    match s.operandEvents c o src.virt src.addr (panelBytes rec_.bf.toNat kk) with
    | .error f => s.matrixFault c o none f
    | .ok evs => ((s.postAll c evs).beginLoad c e rec_.bf kk src).matrixRun c o
  | .fault f => s.matrixFault c o none f
  | _ => s

/-- R144, R178: the checks of a retirement's destination and formats. DESIGN CHOICE (notes/assumptions/71.md): of several that fail the tile's
is raised, then the record's, then ALIGN, then the place's. -/
def State.retireCheck (s : State) (c : CoreNo) (o : MatOp) (m : BitVec 3) (v fs : BitVec 1) : EngRes (Nat × DWord × Nat) :=
  ((s.matrix c).tileOf (o.tileAddr o.m[m.toNat])).bind fun t =>
    let rec_ := o.record fs
    let cf := rec_.cf.toNat
    if 9 < cf || (arrayMode rec_.af.toNat rec_.bf.toNat).isNone then .fault { cause := Cause.microcode }
    else
      let n := 128 * 128 * (elemBits cf / 8)
      let a := o.a + BitVec.ofNat 64 (o.j * n)
      if a.toNat % 64 != 0 then .fault { cause := Cause.align, addr := some (a, v == 0) }
      else if v = 1 then (if virtOk a then .ok (t, a, n) else .fault (virtFault Cause.protection a.toNat))
      else (s.localDest c a n).bind fun _ => .ok (t, a, n)

/-- R178: the elements of a row of a tile's image, with their flags. -/
def retireRow (m : Matrix) (t : Nat) (r : FmtRec) (row : Nat) : List (Nat × Fl) :=
  (m.tileRow t row).map fun x => convert r.cf.toNat r.rm.toNat (r.sat == 1) false (Fmt.f32.decode x)

/-- R101, R178: flags set when an image is written, with their events, charged to the bundle that queued it. -/
def State.raiseFlags (s : State) (c : CoreNo) (g : Charge) (fs : List Fl) : State :=
  let evs := (List.range 4).filterMap fun i =>
    let n := (fs.filter fun f => f.getLsbD i).length
    if n = 0 then none else some (g.event i n 0)
  let s := s.updCore c fun k => { k with ctl := { k.ctl with flags := k.ctl.flags ||| anyFlag fs } }
  evs.foldl (fun s e => s.postEvent c e) s

/-- MRETIRE (R178) writes the row of its image that comes next; with the last one the flags of all are set and it is over. -/
def State.finishRetire (s : State) (c : CoreNo) (o : MatOp) (m : BitVec 3) (v fs keep : BitVec 1) : State :=
  match s.retireCheck c o m v fs with
  | .ok (t, a, n) =>
    let row := retireRow (s.matrix c) t (o.record fs)
    let (s, r) := s.writeDest c (v == 1) (a + BitVec.ofNat 64 (o.rows * (n / 128)))
      ((row o.rows).flatMap fun e => leBytes (n / 16384) e.1)
    match r with
    | .ok _ =>
      if o.rows + 1 < 128 then s.updMatrix c fun x => { x with running := some { o with rows := o.rows + 1 } }
      else ((s.raiseFlags c o.charge (((List.range 128).flatMap row).map (·.2))).dropTile c t keep).matrixDone c true
    | e => s.matrixStop c o none e
  | .fault f => s.matrixFault c o none f
  | _ => s

/-- MUPLD (R179). -/
def State.finishMupld (s : State) (c : CoreNo) (o : MatOp) (n : BitVec 8) (word cnt : BitVec 11) : State :=
  let a := o.a.toNat
  let words := cnt.toNat + 1
  if a % 8 != 0 then s.matrixFault c o none (localFault Cause.align o.a)
  else if benchSize < a + 8 * words then s.matrixFault c o none (localFault Cause.protection o.a)
  else if !(s.core c).owns a (8 * words) then s.matrixFault c o none (localFault Cause.ownership o.a)
  else
    match s.operandEvents c o false o.a (8 * words) with
    | .error f => s.matrixFault c o none f
    | .ok evs =>
      ((s.postAll c evs).updMatrix c fun m => { m with
        ustore := m.ustore.write (8 * word.toNat) ((s.core c).bench.bytes a (8 * words))
        udir := m.udir.set n.toNat (word, BitVec.ofNat 12 words) }).matrixDone c false

/-- R155, R175: a routine begins: the explicit record is active, its loop counters disarmed. -/
def State.startMcall (s : State) (c : CoreNo) (o : MatOp) (n : BitVec 8) : State :=
  let d := (s.matrix c).udir[n.toNat]
  if d.2 = 0 then s.matrixFault c o (some (n, 0)) { cause := Cause.microcode }
  else
    (s.matrixRun c o).updMatrix c fun m => { m with
      routine := some { rout := n, first := d.1.toNat, len := d.2.toNat, w := o.m, active := o.expl
                        asc := o.expl.asb, bsc := o.expl.bsb, bssc := o.expl.bssb } }
/-- MNOP issued by itself (R172). -/
def execMnop (_bt : BitVec 2) (s : State) : Result := s.solo 4 1 (opMnop _bt)
/-- MSETP issued by itself (R173). -/
def execMsetp (_bt : BitVec 2) (m : BitVec 3) (a : BitVec 5) (p : BitVec 1) (s : State) : Result := s.solo 4 1 (opMsetp _bt m a p)
/-- MFMT issued by itself (R174). -/
def execMfmt (_bt : BitVec 2) (a : BitVec 5) (b : BitVec 5) (c : BitVec 5) (r : BitVec 2) (t : BitVec 1) (s : State) : Result := s.solo 4 1 (opMfmt _bt a b c r t)
/-- MWAIT issued by itself (R172). -/
def execMwait (_bt : BitVec 2) (s : State) : Result := s.solo 4 1 (opMwait _bt)
/-- MCALL issued by itself (R175). -/
def execMcall (bt : BitVec 2) (n : BitVec 8) (s : State) : Result := s.solo 4 1 (opMcall bt n)
/-- MLATCH issued by itself (R176). -/
def execMlatch (bt : BitVec 2) (e : BitVec 2) (b : BitVec 3) (v : BitVec 1) (k : BitVec 10) (f : BitVec 1) (s : State) : Result := s.solo 4 1 (opMlatch bt e b v k f)
/-- MACCZ issued by itself (R177). -/
def execMaccz (bt : BitVec 2) (m : BitVec 3) (s : State) : Result := s.solo 4 1 (opMaccz bt m)
/-- MRETIRE issued by itself (R178). -/
def execMretire (bt : BitVec 2) (m : BitVec 3) (a : BitVec 5) (v : BitVec 1) (f : BitVec 1) (e : BitVec 1) (s : State) : Result := s.solo 4 1 (opMretire bt m a v f e)
/-- MUPLD issued by itself (R179). -/
def execMupld (bt : BitVec 2) (n : BitVec 8) (a : BitVec 5) (word : BitVec 11) (cnt : BitVec 11) (s : State) : Result := s.solo 4 2 (opMupld bt n a word cnt)

end Sys2Proof.Machine
end

