-- ==== Sys2Proof/Machine/Micro.lean ====
section
/-! DEFINITION. The micro-ops (R155 to R163). Each acts on the routine that runs in the matrix engine of the core under way
(`State.cur`); where none runs it does nothing. -/

namespace Sys2Proof.Machine

/-- What a micro-op does: go on with the routine, end it, wait, or stop on a fault or a hold with the routine as it stands, and with the
handle it names. -/
inductive Micro where
  | go (s : State) (r : Routine)
  | finish
  | wait
  | stop (s : State) (r : Routine) (e : EngRes Unit) (hnd : Option (BitVec 6) := none)
  deriving DecidableEq

def microcode : EngRes Unit := .fault { cause := Cause.microcode }

/-- The routine and micro-op index a record carries (R167). -/
def Routine.place (r : Routine) : Option (BitVec 8 × BitVec 11) := some (r.rout, BitVec.ofNat 11 r.idx)

def Routine.next (r : Routine) : Routine := { r with idx := r.idx + 1 }
def Routine.reg (r : Routine) (i : BitVec 3) : DWord := r.w[i.toNat]
def Routine.setReg (r : Routine) (i : BitVec 3) (v : DWord) : Routine := { r with w := r.w.set i.toNat v }

/-- One micro-op of the routine of core `c`. -/
def State.microAt (s : State) (c : CoreNo) (f : State → CoreNo → MatOp → Routine → Micro) : Result :=
  let m := s.matrix c
  match m.running, m.routine with
  | some o, some r =>
    if m.fault.isSome || (s.core c).recordWaits 1 then .next s
    else
      match f s c o r with
      | .go t r => .next (t.updMatrix c fun m => { m with routine := some r })
      | .finish => .next (s.matrixDone c false)
      | .wait => .next s
      | .stop t r e hnd => .next ((t.updMatrix c fun m => { m with routine := some r }).matrixStop c o r.place e hnd)
  | _, _ => .next s

def State.micro (s : State) (f : State → CoreNo → MatOp → Routine → Micro) : Result := s.microAt s.cur f

/-- R157: UPASS; its cycles are not counted (notes/assumptions/7.md). -/
def execUpass (_n : BitVec 8) (s : State) : Result := s.micro fun s _ _ r => .go s r.next

/-- R157: UEND. -/
def execUend (s : State) : Result := s.micro fun _ _ _ _ => .finish

/-- R151, R155: a record becomes active. -/
def Routine.activate (r : Routine) (f : FmtRec) : Routine :=
  { r with active := f, asc := f.asb, bsc := f.bsb, bssc := f.bssb, bc := 0 }

/-- R157: UFMT. -/
def execUfmt (src : BitVec 2) (af : BitVec 5) (bf : BitVec 5) (s : State) : Result :=
  s.micro fun s _ o r =>
    let f := match src.toNat with
      | 0 => o.expl
      | 1 => o.cur
      | _ => { o.expl with af := af, bf := bf }
    .go s (r.activate f).next

/-- R161: ULOOP; `target` is the index of a word of the routine. -/
def execUloop (l : BitVec 2) (count : BitVec 8) (target : BitVec 11) (s : State) : Result :=
  s.micro fun s _ _ r =>
    if r.idx < target.toNat then .stop s r microcode
    else
      let n := match r.lc[l.toNat] with
        | none => count.toNat
        | some k => k - 1
      if n = 0 then .go s { r.next with lc := r.lc.set l.toNat none }
      else .go s { r with idx := target.toNat, lc := r.lc.set l.toNat (some n) }

/-- R163: UROWP. -/
def execUrowp (mr : BitVec 3) (s : State) : Result :=
  s.micro fun s c _ r =>
    let v := (r.reg mr).toNat
    if 127 < v then .stop s r microcode
    else .go (s.updCore c fun k => { k with ctl := { k.ctl with rowp := BitVec.ofNat 7 v } }) r.next

/-- R162: UACC. -/
def execUacc (ms : BitVec 3) (md : BitVec 3) (s : State) : Result :=
  s.micro fun s c _ r =>
    let m := s.matrix c
    match (m.tileOf (r.reg ms)).bind fun a => (m.tileOf (r.reg md)).bind fun b => .ok (a, b) with
    | .ok (a, b) =>
      if m.live.getLsbD a && m.live.getLsbD b then
        let m' := (List.range 128).foldl (fun (x : Matrix) row =>
          x.setTileRow b row (((m.tileRow a row).zip (m.tileRow b row)).map fun p => fp32Add p.2 p.1)) m
        .go (s.updMatrix c fun _ => m') r.next
      else .stop s r microcode
    | .fault f => .stop s r (.fault f)
    | _ => .wait

/-- R160: UWAIT. -/
def execUwait (h : BitVec 6) (s : State) : Result :=
  s.micro fun s c _ r => if ((s.core c).handle h).st == Hs.full then .go s r.next else .wait

/-- R160, R192: the command of a UFETCH, or what stops it. -/
def State.fetchCommand (s : State) (c : CoreNo) (o : MatOp) (r : Routine) (h : BitVec 6) (md : BitVec 3) (v : BitVec 1) :
    Except EngFault CopyCmd :=
  let k := s.core c
  let a := r.reg md
  match k.readDescriptor a with
  | .error cause => .error { localFault cause a with hnd := some h }
  | .ok d =>
    let m : CopyCmd := { instr := .cnop 0, h := h, desc := d, base := (Desc.base d).toNat
                         extent := (Desc.dims d).map fun i => ((Desc.extent d i : Nat) : Int)
                         virt := v == 1, charge := o.charge, micro := r.place, psnTrap := o.psnTrap }
    let bad : EngFault := { cause := Cause.protection, hnd := some h }
    let hd := k.handle h
    if !Desc.valid d then .error bad
    else if !Desc.aligned d then .error { bad with cause := Cause.align }
    else if !hd.declared || hd.ring.isSome || (hd.st == Hs.free && hd.o == 0) then .error bad
    else if !baseOk m.virt (Desc.base d) || !m.farOk then .error bad
    else if (k.handle h).size.toNat < Desc.tileBytes d then .error bad
    else .ok m

/-- R160: UFETCH. A handle that is FREE with O = 0 fails check 7 of R192 (R184); any other that is not FREE is waited for. -/
def execUfetch (h : BitVec 6) (md : BitVec 3) (v : BitVec 1) (s : State) : Result :=
  s.micro fun s c o r =>
    match s.fetchCommand c o r h md v, s.operandEvents c o false (r.reg md) 64 with
    | .error f, _ | .ok _, .error f => .stop s r (.fault f) (some h)
    | .ok m, .ok evs =>
      let hd := (s.core c).handle h
      if hd.st == Hs.free && hd.o == 1 then
        let s := (s.postAll c evs).updCore c fun k => k.setHandle h { hd.acceptFill with fetch := true }
        .go (s.updMatrix c fun x => { x with fetches := x.fetches ++ [{ m with poison := evs.any (·.cls == 5) }] }) r.next
      else .wait

/-- R160: the release of a tile handle that UFETCH filled; one FULL with O = 0 is left unchanged. -/
def Handle.releasedBy (h : Handle) (rel : BitVec 1) : Handle :=
  if rel = 1 && h.st == Hs.full && h.o == 1 then { h with st := Hs.free } else h

/-- R151: the cursors after a panel of `blocks` blocks. -/
def Routine.consumeB (r : Routine) (f blocks : Nat) : Routine :=
  { r with bsc := r.bsc + BitVec.ofNat 64 blocks, bc := if f == 13 then r.bc + blocks else r.bc }

/-- R158: ULATCH. -/
def execUlatch (u : LatchU) (s : State) : Result :=
  s.micro fun s c o r =>
    let kk := u.k.toNat + 1
    let f := r.active.bf
    let named := if u.tb = 1 then some u.h else none
    match loadCheck r.active kk with
    | .fault x => .stop s r (.fault x) named
    | .ok _ =>
      if ((s.matrix c).latch u.e).loading then .wait
      else
        let n := panelBytes f.toNat kk
        let src : LatchSource := { bsc := r.bsc, bssc := r.bssc, bc := r.bc, charge := o.charge, psnTrap := o.psnTrap, micro := r.place }
        let r' := (r.consumeB f.toNat (panelBlocks f.toNat kk)).next
        let r' := if u.pi = 1 then r'.setReg u.mb (r.reg u.mb + BitVec.ofNat 64 n) else r'
        if u.tb = 1 then
          let hd := (s.core c).handle u.h
          if hd.st != Hs.full then .wait
          else if hd.size.toNat < n then .stop s r (.fault { cause := Cause.protection, hnd := some u.h })
          else
            match poisonEvents o.charge o.psnTrap (handlePoison u.h hd) with
            | .error x => .stop s r (.fault x)
            | .ok evs =>
              let panel := (s.core c).bench.bytes hd.base.toNat n
              let s := (s.postAll c evs).updCore c fun k => k.setHandle u.h (hd.releasedBy u.rel)
              .go (s.updMatrix c fun m => m.setLatch u.e
                { loading := true, fmt := f, k := kk, panel := panel, source := { src with handle := some u.h } }) r'
        else
          let a := r.reg u.mb
          match s.operandEvents c o (u.v == 1) a n with
          | .error x => .stop s r (.fault x)
          | .ok evs =>
            .go ((s.postAll c evs).beginLoad c u.e f kk { src with addr := a, virt := u.v == 1 }) r'
    | _ => .wait

/-- The bytes of one row of A, or its poison under MODE.PSN = 1. -/
def rowBytesOr (psnTrap : Bool) (met : Option EngFault) (r : EngRes (List Byte)) : EngRes (List Byte) :=
  match r, met, psnTrap with
  | .ok _, some f, true => .fault f
  | r, _, _ => r

/-- R159, R163: the row at ROWP, which counts it when it is done. Its operand `bs` is read first, then its poison `met` counts (R160), then its
scales are read. -/
def State.rowStep (s : State) (c : CoreNo) (o : MatOp) (mode : ArrayMode) (p : Panel) (t k : Nat) (bs : EngRes (List Byte))
    (met : Option EngFault) (r : Routine) : State × Routine × EngRes Unit :=
  let af := r.active.af.toNat
  let row := (s.core c).ctl.rowp.toNat
  let blocks := if isMx af then k / 32 else 0
  match rowBytesOr o.psnTrap met bs with
  | .ok bs =>
    let (s, r) := match met, r.poisoned with
      | some f, false => (s.postEvent c (o.charge.poisonEvent f), { r with poisoned := true })
      | _, _ => (s, r)
    match if blocks = 0 then .ok [] else s.engineVread c r.asc blocks with
    | .ok sc =>
      let (xs, early) := stepRow mode af r.active.bf.toNat k (rowNums af k bs) sc.toArray p ((s.matrix c).tileRow t row)
      (s.updCore c fun x => { x with
          matrix := x.matrix.setTileRow t row xs, ctl := { x.ctl with rowp := BitVec.ofNat 7 (row + 1) } },
        { r with asc := r.asc + BitVec.ofNat 64 blocks, early := r.early + early }, .ok ())
    | e => (s, r, e.unit)
  | e => (s, r, e.unit)

/-- The panel of a latch, as the array uses it. -/
def Latch.asPanel (l : Latch) (mode : ArrayMode) : Panel :=
  let a := l.panel.toArray
  { columns := (List.range 128).map fun n => chunks mode.group (l.k + 1) (columnNums l.fmt.toNat l.k a n)
    scales := l.scales.toArray, supers := l.supers.toArray }

/-- R143, R144, R152, R159: what a USTEP checks: the mode with its depth, the tile and the latch. DESIGN CHOICE (notes/assumptions/72.md): of
several that fail the pair's is raised, then the tile's, then the latch's and the depth's, and the end of the handle's region after these. -/
def Matrix.stepCheck (m : Matrix) (r : Routine) (u : StepU) : EngRes (ArrayMode × Nat) :=
  match arrayMode r.active.af.toNat r.active.bf.toNat with
  | none => .fault { cause := Cause.microcode }
  | some mode =>
    (m.tileOf (r.reg u.mc)).bind fun t =>
      let l := m.latch u.e
      if mode.kOk (u.k.toNat + 1) && l.valid && l.fmt == r.active.bf && l.k == u.k.toNat + 1 then .ok (mode, t) else .fault { cause := Cause.microcode }

/-- R223: the virtual bytes that the row at ROWP of a USTEP, and its scales, take. -/
def State.reachRow (s : State) (c : CoreNo) (r : Routine) (u : StepU) (pitch rowBytes : Nat) : State :=
  let row := (s.core c).ctl.rowp.toNat
  let s := if u.ta = 0 && u.v = 1 then s.engineReach c true (r.reg u.ma + BitVec.ofNat 64 (row * pitch)) rowBytes else s
  if isMx r.active.af.toNat then s.engineReach c true r.asc ((u.k.toNat + 1) / 32) else s

/-- R159, R163: USTEP does its row at ROWP, and with the last one it is over. -/
def execUstep (u : StepU) (s : State) : Result :=
  s.micro fun s c o r =>
    let m := s.matrix c
    let hd := (s.core c).handle u.h
    let named := if u.ta = 1 then some u.h else none
    if (m.latch u.e).loading || (u.ta = 1 && hd.st != Hs.full) then .wait
    else
      match m.stepCheck r u with
      | .fault f => .stop s r (.fault f) named
      | .ok (mode, t) =>
        let k := u.k.toNat + 1
        let rows := u.rows.toNat + 1
        let rowBytes := k * elemBits r.active.af.toNat / 8
        let pitch := if u.pe = 1 then (r.reg u.mp).toNat % 2 ^ 32 else rowBytes
        let a := r.reg u.ma
        let span := (rows - 1) * pitch + rowBytes
        if u.ta = 1 && hd.size.toNat < span then .stop s r (.fault { cause := Cause.protection, hnd := some u.h })
        else
          let rowAddr := fun (row : Nat) => a + BitVec.ofNat 64 (row * pitch)
          let late := if u.ta = 1 || r.begun then []
            else s.lateEvents c o.charge (u.v == 1) ((List.range rows).drop (s.core c).ctl.rowp.toNat |>.map fun i => (rowAddr i, rowBytes))
          let row := (s.core c).ctl.rowp.toNat
          let s := s.postAll c late
          let s := (if row < rows then s.reachRow c r u pitch rowBytes else s).updMatrix c fun m => m.setLive t true
          let r := { r with begun := true }
          let (s, r, e) := if rows ≤ row then (s, r, .ok ())
            else
              let bs := if u.ta = 1 then EngRes.ok ((s.core c).bench.bytes (hd.base.toNat + row * pitch) rowBytes)
                else s.operand c (u.v == 1) (rowAddr row) rowBytes
              let met := if u.ta = 1 then handlePoison u.h hd else s.poisonFault c (u.v == 1) (rowAddr row) rowBytes
              s.rowStep c o mode ((m.latch u.e).asPanel mode) t k bs met r
          match e with
          | .ok _ =>
            if row + 1 < rows then .go s r else
            let s := s.updCore c fun x => { x with ctl := { x.ctl with rowp := 0 } }
            let s := if r.early = 0 then s
              else s.postEvent c (o.charge.event 4 r.early (r.rout.toNat + r.idx % 2048 * 2 ^ 8))
            let s := if u.ta = 1 then s.updCore c fun x => x.setHandle u.h (hd.releasedBy u.rel) else s
            let r := { r.next with early := 0, begun := false, poisoned := false }
            .go s (if u.pi = 1 then r.setReg u.ma (a + BitVec.ofNat 64 rowBytes) else r)
          | e => .stop s r e named
      | _ => .wait

end Sys2Proof.Machine
end

