-- ==== Sys2Proof/Machine/Loom.lean ====
section
/-! DEFINITION. The rule operations and the Loom (R240 to R261), and with them the start and the end of every queued operation
of the matrix engine (R153). -/

namespace Sys2Proof.Machine

/-! ### The M-slot words (R253): each is queued with its copies -/

/-- R254: Loads rule-table entries from the bench. -/
def opRtload (bt : BitVec 2) (a : BitVec 5) (f : BitVec 6) (c : BitVec 6) (s : State) : OpRes := s.enqueue 0x10 (.rtload bt a f c) a
/-- R255: Defines the Loom grid. -/
def opRgrid (bt : BitVec 2) (x : BitVec 3) (w : BitVec 4) (h : BitVec 11) (c : BitVec 1) (g : BitVec 3) (s : State) : OpRes :=
  s.enqueue 0x11 (.rgrid bt x w h c g) 0
/-- R255: Releases the Loom grid. -/
def opRgridOff (bt : BitVec 2) (s : State) : OpRes := s.enqueue 0x11 (.rgridOff bt) 0
/-- R256: Writes the rule mode. -/
def opRmode (bt : BitVec 2) (n : BitVec 1) (i : BitVec 1) (u : BitVec 1) (x : BitVec 2) (y : BitVec 2) (o : BitVec 2) (p : BitVec 1) (s : State) : OpRes :=
  s.enqueue 0x12 (.rmode bt n i u x y o p) 0
/-- R257: Steps the grid to an absolute generation target. -/
def opRstep (bt : BitVec 2) (a : BitVec 5) (s : State) : OpRes := s.enqueue 0x13 (.rstep bt a) a
/-- R258: Moves a band of rows into the grid. -/
def opRload (bt : BitVec 2) (m : BitVec 3) (y : BitVec 3) (v : BitVec 1) (r : BitVec 11) (s : State) : OpRes :=
  s.enqueue 0x14 (.rload bt m y v r) 0
/-- R258: Moves a band of rows out of the grid. -/
def opRstore (bt : BitVec 2) (m : BitVec 3) (y : BitVec 3) (v : BitVec 1) (r : BitVec 11) (s : State) : OpRes :=
  s.enqueue 0x15 (.rstore bt m y v r) 0
/-- R259: Exports a halo strip to the bench. -/
def opRhalox (bt : BitVec 2) (d : BitVec 2) (a : BitVec 5) (s : State) : OpRes := s.enqueue 0x16 (.rhalox bt d a) a
/-- R259: Imports a halo strip and resets the side's count. -/
def opRhaloi (bt : BitVec 2) (d : BitVec 2) (a : BitVec 5) (s : State) : OpRes := s.enqueue 0x17 (.rhaloi bt d a) a
/-- R261: Counts interior cells by code into the bench. -/
def opRcensus (bt : BitVec 2) (a : BitVec 5) (s : State) : OpRes := s.enqueue 0x18 (.rcensus bt a) a

/-! ### The grid (R240 to R242) -/

def Grid.rowBytes (g : Grid) : Nat := g.width * g.cw / 8
def Grid.bytes (g : Grid) : Nat := g.height * g.rowBytes
def Grid.base (g : Grid) : Nat := g.tile * tileBytes

/-- R241: the tiles it covers. -/
def Grid.tiles (g : Grid) : BitVec 8 :=
  (List.range ((g.bytes + tileBytes - 1) / tileBytes)).foldl (fun m i => m ||| (1#8 <<< (g.tile + i))) 0

/-- Packed codes (R94), and back. -/
def unpackCodes (cw n : Nat) (bs : List Byte) : List Nat :=
  let a := bs.toArray
  (List.range n).map fun i => packedElem a cw i
def packCodes (cw : Nat) (xs : List Nat) : List Byte :=
  (chunks (8 / cw) (xs.length + 1) xs).map fun c => BitVec.ofNat 8 (c.foldr (fun x v => v * 2 ^ cw + x % 2 ^ cw) 0)

/-- The interior's codes, row by row. -/
def Matrix.cells (m : Matrix) (g : Grid) : List Nat := unpackCodes g.cw (g.width * g.height) (m.acc.bytes g.base g.bytes)
def Matrix.setCells (m : Matrix) (g : Grid) (xs : List Nat) : Matrix := { m with acc := m.acc.write g.base (packCodes g.cw xs) }

/-- Places in the frame: the halo store lists a code for each frame cell outside the interior, numbered row by row. -/
def Grid.frameWidth (g : Grid) : Nat := g.width + 2 * g.halo
def Grid.frameHeight (g : Grid) : Nat := g.height + 2 * g.halo
def Grid.frameIndex (g : Grid) (x y : Int) : Nat := ((y + g.halo) * g.frameWidth + (x + g.halo)).toNat
def Grid.interior (g : Grid) (x y : Int) : Bool := 0 ≤ x && x < g.width && 0 ≤ y && y < g.height

/-- The whole frame as the codes of its cells, interior and halo, row by row. -/
def Matrix.frame (m : Matrix) (g : Grid) : Array Nat :=
  let cells := (m.cells g).toArray
  let halo := (m.halo.bytes 0 (g.frameWidth * g.frameHeight)).toArray
  ((List.range (g.frameWidth * g.frameHeight)).map fun i =>
    let x : Int := (i % g.frameWidth : Nat) - (g.halo : Int)
    let y : Int := (i / g.frameWidth : Nat) - (g.halo : Int)
    if g.interior x y then cells.getD (y * g.width + x).toNat 0 else (halo.getD i 0).toNat).toArray

/-- A frame put back into the tiles and the halo store. -/
def Matrix.setFrame (m : Matrix) (g : Grid) (f : Array Nat) : Matrix :=
  let at_ := fun (x y : Int) => f.getD (g.frameIndex x y) 0
  let cells := (List.range (g.width * g.height)).map fun i => at_ (i % g.width : Nat) (i / g.width : Nat)
  let halo := (List.range (g.frameWidth * g.frameHeight)).map fun i =>
    let x : Int := (i % g.frameWidth : Nat) - (g.halo : Int)
    let y : Int := (i / g.frameWidth : Nat) - (g.halo : Int)
    if g.interior x y then (0 : Byte) else BitVec.ofNat 8 (f.getD i 0)
  { (m.setCells g cells) with halo := Mem.write [] 0 halo }

/-- R242: read(x, y), `bound` the copy of BOUND. -/
def readCell (g : Grid) (r : RuleMode) (bound : Nat) (f : Array Nat) (x y : Int) : Nat :=
  let outX := x < 0 || g.width ≤ x
  let outY := y < 0 || g.height ≤ y
  if (outX && r.bx = 1) || (outY && r.by_ = 1) then bound % 2 ^ g.cw
  else
    let x := if outX && r.bx = 2 then x % (g.width : Int) else x
    let y := if outY && r.by_ = 2 then y % (g.height : Int) else y
    f.getD (g.frameIndex x y) 0

/-- R243: a cell's new code. -/
def newCode (g : Grid) (r : RuleMode) (bound : Nat) (rules : Array Byte) (f : Array Nat) (x y : Int) : Nat :=
  let at_ := fun (dx dy : Int) => readCell g r bound f (x + dx) (y + dy)
  let own := at_ 0 0
  let n := at_ 0 (-1)
  let e := at_ 1 0
  let s := at_ 0 1
  let w := at_ (-1) 0
  let i := if r.ix = 0 then own * 256 + n * 64 + e * 16 + s * 4 + w
    else own * 128 + (n + e + s + w
      + if r.nb = 1 then at_ (-1) (-1) + at_ 1 (-1) + at_ (-1) 1 + at_ 1 1 else 0)
  (rules.getD ((r.toff.toNat * 1024 + i) % 4096) 0).toNat % 2 ^ g.cw

/-- The halo counts, north, east, south, west. -/
structure HaloCounts where
  n : Nat
  e : Nat
  s : Nat
  w : Nat
  deriving DecidableEq, Repr

def Ctl.haloCounts (c : Ctl) : HaloCounts := ⟨c.hln.toNat, c.hle.toNat, c.hls.toNat, c.hlw.toNat⟩
def Ctl.setHaloCounts (c : Ctl) (h : HaloCounts) : Ctl :=
  { c with hln := BitVec.ofNat 4 h.n, hle := BitVec.ofNat 4 h.e, hls := BitVec.ofNat 4 h.s, hlw := BitVec.ofNat 4 h.w }

/-- R246: the cells a phase updates, parity apart: a halo cell counts its depth from 1 at the interior's edge. -/
def updates (g : Grid) (r : RuleMode) (h : HaloCounts) (x y : Int) : Bool :=
  let okX := if x < 0 then r.bx = 0 && decide (-x < (h.w : Int))
    else if g.width ≤ x then r.bx = 0 && decide (x - g.width + 1 < (h.e : Int)) else true
  let okY := if y < 0 then r.by_ = 0 && decide (-y < (h.n : Int))
    else if g.height ≤ y then r.by_ = 0 && decide (y - g.height + 1 < (h.s : Int)) else true
  okX && okY

/-- R245, R246: one phase; `parity` is `none` in SYNC mode. -/
def phase (g : Grid) (r : RuleMode) (bound : Nat) (rules : Array Byte) (h : HaloCounts) (parity : Option Nat) (f : Array Nat) :
    Array Nat :=
  ((List.range (g.frameWidth * g.frameHeight)).map fun i =>
    let x : Int := (i % g.frameWidth : Nat) - (g.halo : Int)
    let y : Int := (i / g.frameWidth : Nat) - (g.halo : Int)
    let mine := match parity with
      | none => true
      | some p => (x + y + r.po.toNat) % 2 == (p : Int)
    if mine && updates g r h x y then newCode g r bound rules f x y else f.getD i 0).toArray

/-- R246: the counts after a phase. -/
def HaloCounts.after (h : HaloCounts) (r : RuleMode) : HaloCounts :=
  { n := if r.by_ = 0 then h.n - 1 else h.n, s := if r.by_ = 0 then h.s - 1 else h.s
    e := if r.bx = 0 then h.e - 1 else h.e, w := if r.bx = 0 then h.w - 1 else h.w }

/-- R287: the short sides of a HALO_SHORT event: N, E, S, W from bit 0. -/
def HaloCounts.short (h : HaloCounts) (r : RuleMode) (need : Nat) : Nat :=
  (if r.by_ = 0 && decide (h.n < need) then 1 else 0) + (if r.bx = 0 && decide (h.e < need) then 2 else 0)
    + (if r.by_ = 0 && decide (h.s < need) then 4 else 0) + (if r.bx = 0 && decide (h.w < need) then 8 else 0)

/-- R245: a whole generation. -/
def generation (m : Matrix) (g : Grid) (bound : Nat) (h : HaloCounts) : Matrix × HaloCounts :=
  let r := m.mode
  let rules := (m.rules.bytes 0 4096).toArray
  let f := m.frame g
  if r.up = 0 then (m.setFrame g (phase g r bound rules h none f), h.after r)
  else
    let f1 := phase g r bound rules h (some 0) f
    let h1 := h.after r
    (m.setFrame g (phase g r bound rules h1 (some 1) f1), h1.after r)

/-! ### Running the operations (R254 to R261) -/

def ruleFault : EngFault := { cause := Cause.rule }

/-- A local operand in the own bench with an alignment (R254, R259, R261); a write into the loft is LOFT_WRITE (R148). -/
def State.benchOperand (s : State) (c : CoreNo) (a : DWord) (n align : Nat) (write : Bool) : EngRes Unit :=
  if a.toNat % align != 0 then .fault (localFault Cause.align a)
  else if write && localOf a.toNat n == some .loft then .fault (localFault Cause.loftWrite a)
  else if benchSize < a.toNat + n then .fault (localFault Cause.protection a)
  else if !(s.core c).owns a.toNat n then .fault (localFault Cause.ownership a)
  else .ok ()

/-- The bytes of a bench operand, with the poison rule of R251. -/
def State.readBenchOperand (s : State) (c : CoreNo) (o : MatOp) (a : DWord) (n align : Nat) : EngRes (State × List Byte) :=
  (s.benchOperand c a n align false).bind fun _ =>
    match s.operandEvents c o false a n with
    | .error f => .fault f
    | .ok evs => .ok (s.postAll c evs, (s.core c).bench.bytes a.toNat n)

/-- Ends an operation that answers a state, or stops it. -/
def State.ruleEnd (s : State) (c : CoreNo) (o : MatOp) (r : EngRes State) : State :=
  match r with
  | .ok t => t.matrixDone c true
  | .fault f => s.matrixFault c o none f
  | .page v w => s.matrixStop c o none (.page v w)
  | .file i sz => s.matrixStop c o none (.file i sz)

/-- R254. -/
def State.runRtload (s : State) (c : CoreNo) (o : MatOp) (f n : BitVec 6) : EngRes State :=
  let count := 64 * (n.toNat + 1)
  (s.readBenchOperand c o o.a (count / 2) 32).bind fun (t, bs) =>
    .ok (t.updMatrix c fun m => { m with
      rules := m.rules.write (64 * f.toNat) ((unpackCodes 4 count bs).map (BitVec.ofNat 8)) })

/-- R255. -/
def State.runRgrid (s : State) (c : CoreNo) (g : Grid) : EngRes State :=
  let m := s.matrix c
  if m.grid.isSome || m.live &&& g.tiles != 0 then .fault ruleFault
  else .ok (s.updCore c fun k => { k with
    matrix := { k.matrix with grid := some g, halo := [], live := k.matrix.live ||| g.tiles, gridTiles := g.tiles }
    ctl := k.ctl.setHaloCounts ⟨g.halo, g.halo, g.halo, g.halo⟩ })

/-- R255: the release. -/
def State.runRgridOff (s : State) (c : CoreNo) : State :=
  match (s.matrix c).grid with
  | none => s
  | some g => s.updCore c fun k => { k with
      matrix := { k.matrix with
        grid := none, halo := [], live := k.matrix.live &&& ~~~g.tiles, gridTiles := 0
        acc := (List.range 8).foldl (fun a t => if g.tiles.getLsbD t then zeroRange a (t * tileBytes) tileBytes else a) k.matrix.acc }
      ctl := k.ctl.setHaloCounts ⟨0, 0, 0, 0⟩ }

/-- R257: one generation of an RSTEP, or its end. -/
def State.runRstep (s : State) (c : CoreNo) (o : MatOp) : State :=
  let k := s.core c
  let m := k.matrix
  let target := o.a.toNat % 2 ^ 32
  match m.grid with
  | none => s.matrixFault c o none ruleFault
  | some g =>
    if m.mode.ix = 0 && g.cw == 4 then s.matrixFault c o none ruleFault
    else
      let need := if m.mode.up = 1 then 2 else 1
      let h := k.ctl.haloCounts
      if target ≤ k.ctl.genCount.toNat then s.matrixDone c true
      else if h.short m.mode need != 0 then
        (s.postEvent c (o.charge.event 10 (target - k.ctl.genCount.toNat) (h.short m.mode need))).matrixDone c true
      else
        let (m', h') := generation m g o.bound.toNat h
        let point := s.crewStopping c
        let s := s.setCore c { k with
          matrix := { m' with retiredAt := k.cycleNat, closed := m'.closed || point }
          ctl := { k.ctl.setHaloCounts h' with genCount := k.ctl.genCount + 1 } }
        if target ≤ k.ctl.genCount.toNat + 1 then s.matrixDone c true else s

/-- R258: a row of a band, from address `a` to the grid's bytes at `cell`, or from there to it. -/
def State.bandRow (s : State) (c : CoreNo) (g : Grid) (load virt : Bool) (a : DWord) (cell : Nat) : State × EngRes Unit :=
  if load then
    let s := if virt then s.engineReach c true a g.rowBytes else s
    match s.operand c virt a g.rowBytes with
    | .ok bs => (s.updMatrix c fun m => { m with acc := m.acc.write cell bs }, .ok ())
    | e => (s, e.unit)
  else s.writeDest c virt a ((s.matrix c).acc.bytes cell g.rowBytes)

/-- R258: RLOAD and RSTORE move the row that comes next, and with the last one are over; ROWP counts the band's own rows from its start (R251). -/
def State.runBand (s : State) (c : CoreNo) (o : MatOp) (load : Bool) (m y : BitVec 3) (v : BitVec 1) (r : BitVec 11) : State :=
  let s := s.updCore c fun k => { k with ctl := { k.ctl with rowp := BitVec.ofNat 7 o.rows } }
  match (s.matrix c).grid with
  | none => s.matrixFault c o none ruleFault
  | some g =>
    let rows := r.toNat + 1
    let band := rows * g.rowBytes
    let a := o.m[m.toNat] + BitVec.ofNat 64 (o.j * band)
    let first := o.m[y.toNat]
    let y0 := first.toNat % 2048 + o.j * rows
    if 2048 ≤ first.toNat || g.height < y0 + rows then s.matrixFault c o none ruleFault
    else if a.toNat % 32 != 0 then s.matrixFault c o none { cause := Cause.align, addr := some (a, v == 0) }
    else
      let local_ := if v = 1 then EngRes.ok () else if load then (s.engineLocal c a band).bind fun _ => .ok () else s.localDest c a band
      match local_ with
      | .fault f => s.matrixFault c o none f
      | _ =>
        match (if load && o.rows == 0 then s.operandEvents c o (v == 1) a band else .ok []) with
        | .error f => s.matrixFault c o none f
        | .ok evs =>
          let (t, e) := (s.postAll c evs).bandRow c g load (v == 1) (a + BitVec.ofNat 64 (o.rows * g.rowBytes)) (g.base + (y0 + o.rows) * g.rowBytes)
          let counted := fun (n : Nat) => t.updCore c fun k => { k with ctl := { k.ctl with rowp := BitVec.ofNat 7 n } }
          match e with
          | .ok _ =>
            if o.rows + 1 < rows then (counted (o.rows + 1)).updMatrix c fun x => { x with running := some { o with rows := o.rows + 1 } }
            else (counted 0).matrixDone c true
          | e => t.matrixStop c o none e

/-- R259: the cells of a side's strip, `out` for an export. -/
def stripCells (g : Grid) (side : Nat) (out : Bool) : List (Int × Int) :=
  let h := g.halo
  let row := fun (y : Int) => (List.range g.frameWidth).map fun (i : Nat) => ((i : Int) - h, y)
  let rect := fun (x0 : Int) => (List.range g.height).flatMap fun (y : Nat) => (List.range h).map fun (i : Nat) => (x0 + i, (y : Int))
  match side with
  | 0 => (List.range h).flatMap fun (i : Nat) => row (if out then i else (i : Int) - h)
  | 1 => rect (if out then (g.width : Int) - h else g.width)
  | 2 => (List.range h).flatMap fun (i : Nat) => row (if out then (g.height : Int) - h + i else (g.height : Int) + i)
  | _ => rect (if out then 0 else -(h : Int))

def stripBytes (g : Grid) (side : Nat) : Nat := ((stripCells g side true).length * g.cw + 127) / 128 * 16

/-- R251, R259: what both strip operations check of the grid. -/
def Matrix.stripGrid (m : Matrix) (side : Nat) : EngRes Grid :=
  match m.grid with
  | none => .fault ruleFault
  | some g => if side % 2 == 0 && g.height < g.halo then .fault ruleFault else .ok g

/-- R259: RHALOX. -/
def State.runRhalox (s : State) (c : CoreNo) (o : MatOp) (side : Nat) : EngRes State :=
  ((s.matrix c).stripGrid side).bind fun g =>
    let n := stripBytes g side
    (s.benchOperand c o.a n 16 true).bind fun _ =>
      let f := (s.matrix c).frame g
      let bs := packCodes g.cw ((stripCells g side true).map fun p => f.getD (g.frameIndex p.1 p.2) 0)
      .ok (s.updCore c fun k => { k with bench := k.bench.write o.a.toNat (bs ++ List.replicate (n - bs.length) 0) })

/-- R259: RHALOI. -/
def State.runRhaloi (s : State) (c : CoreNo) (o : MatOp) (side : Nat) : EngRes State :=
  ((s.matrix c).stripGrid side).bind fun g =>
    (s.readBenchOperand c o o.a (stripBytes g side) 16).bind fun (t, bs) =>
      let cells := stripCells g side false
      let codes := unpackCodes g.cw cells.length bs
      .ok (t.updCore c fun k =>
        let h := k.ctl.haloCounts
        let h := match side with
          | 0 => { h with n := g.halo } | 1 => { h with e := g.halo } | 2 => { h with s := g.halo } | _ => { h with w := g.halo }
        { k with
          matrix := { k.matrix with
            halo := k.matrix.halo.writeEach ((cells.zip codes).map fun p => (g.frameIndex p.1.1 p.1.2, BitVec.ofNat 8 p.2)) }
          ctl := k.ctl.setHaloCounts h })

/-- R261: RCENSUS. -/
def State.runRcensus (s : State) (c : CoreNo) (o : MatOp) : EngRes State :=
  match (s.matrix c).grid with
  | none => .fault ruleFault
  | some g =>
    (s.benchOperand c o.a 64 64 true).bind fun _ =>
      let cells := (s.matrix c).cells g
      let counts := (List.range 16).map fun i => (cells.filter (· == i)).length
      .ok (s.updCore c fun k => { k with bench := k.bench.write o.a.toNat (counts.flatMap (leBytes 4)) })

/-! ### Start and end of a queued operation (R153) -/

/-- An operation starts: it is checked, and ACCLIVE changes with it (R146). -/
def State.startMatOp (s : State) (c : CoreNo) (o : MatOp) : State :=
  match o.instr with
  | .mcall _ n => s.startMcall c o n
  | .mlatch _ e b v k f => s.startMlatch c o e b v k f
  | .maccz _ m =>
    match (s.matrix c).tileOf (o.tileAddr o.m[m.toNat]) with
    | .ok t => (s.matrixRun c o).updMatrix c fun x => (x.zeroTile t).setLive t true
    | .fault f => s.matrixFault c o none f
    | _ => s
  | .mretire _ m _ v f e =>
    match s.retireCheck c o m v f with
    | .ok (t, _, _) => (s.matrixRun c o).updMatrix c fun x => if e = 0 then x.setLive t false else x
    | .fault f => s.matrixFault c o none f
    | _ => s
  | .rgrid _ x w h cw g =>
    let grid : Grid := { tile := x.toNat, width := 128 * (w.toNat + 1), height := h.toNat + 1, cw := if cw = 1 then 4 else 2
                         halo := g.toNat + 1 }
    match s.runRgrid c grid with
    | .ok t => t.matrixRun c o
    | .fault f => s.matrixFault c o none f
    | _ => s
  | .rgridOff _ => (s.runRgridOff c).matrixRun c o
  | _ => s.matrixRun c o

/-- A running operation does its work, or for RSTEP one generation of it. -/
def State.finishMatOp (s : State) (c : CoreNo) (o : MatOp) : State :=
  match o.instr with
  | .mretire _ m _ v f e => s.finishRetire c o m v f e
  | .mupld _ n _ word cnt => s.finishMupld c o n word cnt
  | .rtload _ _ f n => s.ruleEnd c o (s.runRtload c o f n)
  | .rgrid .. | .rgridOff _ => s.matrixDone c true
  | .rmode _ n i u x y t p =>
    (s.updMatrix c fun m => { m with mode := { nb := n, ix := i, up := u, bx := x, by_ := y, toff := t, po := p } }).matrixDone c true
  | .rstep _ _ => s.runRstep c o
  | .rload _ m y v r => s.runBand c o true m y v r
  | .rstore _ m y v r => s.runBand c o false m y v r
  | .rhalox _ d _ => s.ruleEnd c o (s.runRhalox c o d.toNat)
  | .rhaloi _ d _ => s.ruleEnd c o (s.runRhaloi c o d.toNat)
  | .rcensus _ _ => s.ruleEnd c o (s.runRcensus c o)
  | _ => s.matrixDone c false

/-- R172, R249: every earlier operation has completed, with its latch loads and its fetches, and its virtual writes acknowledged. -/
def State.matrixSettled (s : State) (c : CoreNo) : Bool :=
  (s.matrix c).fetches.isEmpty && !(s.egressHolds c (·.eng == 2)) && (s.matrix c).latches.all fun l => !l.loading

/-- What a queued operation waits for besides its turn: a rule operation for all earlier ones to complete (R249), an MLATCH for the load in
flight into its latch, as ULATCH does (R158, R176). -/
def State.matrixWaits (s : State) (c : CoreNo) (o : MatOp) : Bool :=
  (isRuleOp o.instr && !s.matrixSettled c) || match o.instr with
    | .mlatch _ e _ _ _ _ => ((s.matrix c).latch e).loading
    | _ => false

/-- The engine may start its next operation (R152, R153, R169, R249, R269). -/
def State.matrixReady (s : State) (c : CoreNo) : Bool :=
  let m := s.matrix c
  !(m.queue.head?.any (s.matrixWaits c)) && m.running.isNone && m.fault.isNone && !m.closed && !m.reloading && !m.queue.isEmpty
    && !(s.core c).recordWaits 1

/-- MATRIX_OPERATION_START (R153). -/
def execMatrixOperationStart (c : CoreNo) (s : State) : Result :=
  let k := s.core c
  match k.matrix.queue with
  | o :: rest =>
    if s.matrixReady c then .next ((s.updMatrix c fun m => { m with queue := rest }).startMatOp c o) else .next s
  | [] => .next s

/-- The word of a routine that comes next, where there is one and it decodes (R155). -/
def Matrix.microWord (m : Matrix) (r : Routine) : Option Instr :=
  if r.idx < r.len then
    match decodeMicro (m.ustore.num (8 * (r.first + r.idx)) 8) with
    | .ok i => some i
    | _ => none
  else none

def isRstep : Instr → Bool
  | .rstep .. => true
  | _ => false

/-- MATRIX_OPERATION_COMPLETE (R153): the running operation does its work and ends; an MCALL ends with its UEND, or here at a
word it cannot run (R155). -/
def execMatrixOperationComplete (c : CoreNo) (s : State) : Result :=
  let m := s.matrix c
  match m.running with
  | none => .next s
  | some o =>
    -- R252: between generations an RSTEP yields to a save.
    if m.fault.isSome || (s.core c).recordWaits 1 || (m.closed && isRstep o.instr) then .next s
    else
      match m.routine with
      | some r => if (m.microWord r).isSome then .next s else .next (s.matrixFault c o r.place { cause := Cause.microcode })
      | none => .next (s.finishMatOp c o)

/-- MAXRED_EXPIRY (R169): under a request, for which a stopped core's cycles pass, past MAXRED cycles without a retirement point the engine accepts no more. -/
def execMaxredExpiry (c : CoreNo) (s : State) : Result :=
  if !s.crewStopping c then .next s
  else
    let s := if s.mustStop c then s.passHeld c 1 none else s
    let k := s.core c
    if k.theLaunch.maxred < k.cycleNat - k.matrix.retiredAt then .next (s.updMatrix c fun m => { m with closed := true }) else .next s
/-- RTLOAD issued by itself (R254). -/
def execRtload (bt : BitVec 2) (a : BitVec 5) (f : BitVec 6) (c : BitVec 6) (s : State) : Result := s.solo 4 1 (opRtload bt a f c)
/-- RGRID issued by itself (R255). -/
def execRgrid (bt : BitVec 2) (x : BitVec 3) (w : BitVec 4) (h : BitVec 11) (c : BitVec 1) (g : BitVec 3) (s : State) : Result := s.solo 4 1 (opRgrid bt x w h c g)
/-- RGRID_OFF issued by itself (R255). -/
def execRgridOff (bt : BitVec 2) (s : State) : Result := s.solo 4 1 (opRgridOff bt)
/-- RMODE issued by itself (R256). -/
def execRmode (bt : BitVec 2) (n : BitVec 1) (i : BitVec 1) (u : BitVec 1) (x : BitVec 2) (y : BitVec 2) (o : BitVec 2) (p : BitVec 1) (s : State) : Result := s.solo 4 1 (opRmode bt n i u x y o p)
/-- RSTEP issued by itself (R257). -/
def execRstep (bt : BitVec 2) (a : BitVec 5) (s : State) : Result := s.solo 4 1 (opRstep bt a)
/-- RLOAD issued by itself (R258). -/
def execRload (bt : BitVec 2) (m : BitVec 3) (y : BitVec 3) (v : BitVec 1) (r : BitVec 11) (s : State) : Result := s.solo 4 1 (opRload bt m y v r)
/-- RSTORE issued by itself (R258). -/
def execRstore (bt : BitVec 2) (m : BitVec 3) (y : BitVec 3) (v : BitVec 1) (r : BitVec 11) (s : State) : Result := s.solo 4 1 (opRstore bt m y v r)
/-- RHALOX issued by itself (R259). -/
def execRhalox (bt : BitVec 2) (d : BitVec 2) (a : BitVec 5) (s : State) : Result := s.solo 4 1 (opRhalox bt d a)
/-- RHALOI issued by itself (R259). -/
def execRhaloi (bt : BitVec 2) (d : BitVec 2) (a : BitVec 5) (s : State) : Result := s.solo 4 1 (opRhaloi bt d a)
/-- RCENSUS issued by itself (R261). -/
def execRcensus (bt : BitVec 2) (a : BitVec 5) (s : State) : Result := s.solo 4 1 (opRcensus bt a)

end Sys2Proof.Machine
end

