-- ==== Sys2Proof/Machine/Slack.lean ====
section
/-! DEFINITION. The windows of 50 µs of a cluster: the clock by sensitivity (R308, R311), and the slack cap with the slack that collective
segments leave (R310, R311). -/

namespace Sys2Proof.Machine

namespace Sens
def hi (v : DWord) : Nat := bitsOf v.toNat 48 10
def lo (v : DWord) : Nat := bitsOf v.toNat 32 10
def fmax (v : DWord) : Nat := bitsOf v.toNat 16 11
def fmin (v : DWord) : Nat := bitsOf v.toNat 0 11
def reset : DWord := 0x02BC012C03200190
end Sens

/-- R311: SENS of a cluster as it is written. -/
def State.sensReg (s : State) (cl : ClusterNo) : DWord := s.hub.bar0.get (0x4000 + 32 * cl.toNat) Sens.reset

/-- R308: the base clock after a window with `i` cycles of issue and `m` held for memory. -/
def sensStep (sens : DWord) (base i m : Nat) : Nat :=
  if i + m == 0 then base
  else
    let x := 1000 * i / (i + m)
    if x < Sens.lo sens && Sens.fmin sens < base then base - 25
    else if Sens.hi sens < x && base < Sens.fmax sens then base + 25
    else base

/-- R308, R311: `n` windows end: without a lease the base clock may move by what the first counted; SENS as written acts from here on. -/
def State.endSensWindows (s : State) (cl : ClusterNo) (n : Nat) : State :=
  let y := s.cluster cl
  let cs := s.crewHere cl
  let i := (cs.map fun c => (s.core c).issued).sum
  let m := (cs.map fun c => (s.core c).heldMem).sum
  let base := if y.lease.isSome then y.base else sensStep y.sens y.base i m
  let s := s.setCluster cl { y with base := base, sens := s.sensReg cl, windowAt := y.windowAt + 50000 * n }
  ((List.range 8).map (coreAt cl)).foldl (fun s c => s.updCore c fun k => { k with issued := 0, heldMem := 0 }) s

/-- R308, R311: the windows that have ended take effect. -/
def State.sensDue (s : State) (cl : ClusterNo) : State :=
  match (s.now - (s.cluster cl).windowAt) / 50000 with
  | 0 => s
  | n + 1 => s.endSensWindows cl (n + 1)

/-- R311: SLACK as written. -/
def State.slackReg (s : State) : DWord := s.hub.bar0.get 0x4800 0x000A0002

/-- R310: the cap after a window in which the cluster saw slack `x`, in nanoseconds. -/
def capStep (hi lo fmin : Nat) (cap : Option Nat) (x : Int) : Option Nat :=
  if 1000 * (hi : Int) < x then some (max (cap.getD 1150 - 25) fmin)
  else if x < 1000 * (lo : Int) then cap.bind fun c => if 1150 ≤ c + 25 then none else some (c + 25)
  else cap

/-- R310: the cap at the end of the window under way. -/
def Cluster.capAfter (y : Cluster) (slack : DWord) : Option Nat :=
  if !y.collSeen then none
  else match y.slack with
    | some x => capStep (bitsOf slack.toNat 16 16) (bitsOf slack.toNat 0 16) (Sens.fmin y.sens) y.cap x
    | none => y.cap

/-- R310: the windows that have ended by now. -/
def Cluster.slackEnded (y : Cluster) (now : Nat) : Nat := (now - y.slackAt) / 50000

/-- R310: the throttling marks of the window under way and the two before it, the newest in bit 0. -/
def Cluster.marksAt (y : Cluster) (now : Nat) : BitVec 3 := y.throttleMarks <<< y.slackEnded now

/-- R310: the windows that have ended take effect, in their order: in all but the first no COLL was issued. -/
def State.slackDue (s : State) (cl : ClusterNo) : State :=
  let y := s.cluster cl
  match y.slackEnded s.now with
  | 0 => s
  | n + 1 => s.setCluster cl { y with
      cap := if n = 0 then y.capAfter s.slackReg else none
      slack := none, collSeen := false, throttleMarks := y.marksAt s.now, slackAt := y.slackAt + 50000 * (n + 1) }

/-- R310, R311: before SENS or SLACK takes a new value, the windows that have ended take effect with the old one. -/
def State.windowsDue (s : State) (off : Nat) : State :=
  if off == 0x4800 then (List.range 64).foldl (fun s i => s.slackDue (BitVec.ofNat 6 i)) s
  else if 0x4000 ≤ off && off < 0x4800 then s.sensDue (BitVec.ofNat 6 ((off - 0x4000) / 32))
  else s

end Sys2Proof.Machine
end

