-- ==== Sys2Proof/Machine/Copy.lean ====
section
/-! DEFINITION. The C slots: acceptance (R184, R188, R189, R192), the handle and ring operations (R199 to R204), and the work of
the copy engines (R191, R193). -/

namespace Sys2Proof.Machine

/-! ### The engines of a core -/

/-- The engine of a slot: 0 C0, 1 C1. -/
def engineOfSlot (slot : Nat) : Nat := slot - 5

def Core.copyEngine (k : Core) (eng : Nat) : CopyEngine := if eng = 0 then k.c0 else k.c1
def Core.setEngine (k : Core) (eng : Nat) (e : CopyEngine) : Core := if eng = 0 then { k with c0 := e } else { k with c1 := e }
def State.engine (s : State) (c : CoreNo) (eng : Nat) : CopyEngine := (s.core c).copyEngine eng
def State.updEngine (s : State) (c : CoreNo) (eng : Nat) (f : CopyEngine → CopyEngine) : State :=
  s.updCore c fun k => k.setEngine eng (f (k.copyEngine eng))

/-- R189. -/
def copyQueueSize : Nat := 8

/-- What an acceptance answers: the checks passed and the handle may be taken, it must wait, or a trap. -/
inductive Taken where
  | take (h : BitVec 6)
  | hold
  | trap (t : TrapRecord)
  deriving DecidableEq, Repr

/-- A trap at an acceptance that names a handle (R192, R264). -/
def State.copyTrap (s : State) (cause : BitVec 5) (op : Nat) (h : BitVec 6) : TrapRecord :=
  { s.mkTrap cause op with hv := true, hnd := h }

/-- R184: a handle named by number, `dest` or source. -/
def State.takeHandle (s : State) (op : Nat) (h : BitVec 6) (dest : Bool) : Taken :=
  let hd := s.me.handle h
  if !hd.declared || hd.ring.isSome then .trap (s.copyTrap Cause.protection op h)
  else match if dest then hd.asDest else hd.asSource with
    | .yes => .take h
    | .hold => .hold
    | .protection => .trap (s.copyTrap Cause.protection op h)

/-- R188: the slot of a ring that an inbound (`dest`) or outbound command takes. -/
def State.takeRing (s : State) (op n : Nat) (dest : Bool) : Taken :=
  match s.me.ring n with
  | none => .trap (s.mkTrap Cause.protection op none false n)
  | some r =>
    if r.out == dest then .trap (s.mkTrap Cause.protection op none false n)
    else
      let h := r.at (if dest then r.p else r.c)
      let hd := s.me.handle h
      if dest then (if hd.st == Hs.free && hd.o == 1 then .take h else .hold)
      else (if hd.st == Hs.full && hd.o == 1 then .take h else .hold)

/-- R196: the handle or ring an operation with RG and H names at its re-issue. -/
def State.takeNamed (s : State) (op : Nat) (g : BitVec 1) (h : BitVec 6) (dest : Bool) : Taken :=
  if g = 1 then s.takeRing op h.toNat dest else s.takeHandle op (h + BitVec.ofNat 6 s.me.reissue) dest

/-- The pointer a ring command advances at its acceptance (R188). -/
def Core.advanceRing (k : Core) (n : Nat) (producer : Bool) : Core :=
  k.setRing n ((k.ring n).map fun r => if producer then { r with p := r.next r.p } else { r with c := r.next r.c })

/-- R186: what the acceptance of a poisoned source does. -/
def State.sourcePoison (s : State) (op : Nat) (h : BitVec 6) : Except TrapRecord (List StatEvent) :=
  let hd := s.me.handle h
  if hd.psn = 0 then .ok []
  else if s.me.psnTraps then .error (s.copyTrap (poisonCause hd) op h)
  else .ok [s.event 5 1 h.toNat (srcOfSlot s.me.slot)]

/-- A command enters its engine's queue: its handle and its ring pointer move with it (R182, R188). -/
def State.acceptCommand (s : State) (m : CopyCmd) (g : BitVec 1) (ring : Nat) : State :=
  let k := s.me
  let e := k.copyEngine (engineOfSlot k.slot)
  let m := { m with no := k.c0.accepted + k.c1.accepted }
  let k := k.setEngine (engineOfSlot k.slot) { e with queue := e.queue ++ [m], accepted := e.accepted + 1 }
  let k := k.updHandle m.h fun h => if m.inbound then h.acceptFill else h.acceptDrain
  s.setMe (if g = 1 then k.advanceRing ring m.inbound else k)

/-- Accepts a built command, or holds: a full queue (R189), the handle (R184, R188), a poisoned source (R186). -/
def State.tryAccept (s : State) (op : Nat) (g : BitVec 1) (ring : Nat) (t : Taken) (build : BitVec 6 → CopyCmd) : OpRes :=
  match t with
  | .trap r => .trap r
  | .hold => .hold .accept
  | .take h =>
    let m := build h
    if copyQueueSize ≤ (s.me.copyEngine (engineOfSlot s.me.slot)).queue.length then .hold .accept
    else if m.inbound then .done (s.acceptCommand m g ring)
    else match s.sourcePoison op h with
      | .error r => .trap r
      | .ok evs => .done (s.postAll s.cur evs |>.acceptCommand { m with poison := (s.me.handle h).psn == 1 } g ring)

/-! ### COPY, COPYO, TILEF, GATHER, SCATTR (R190 to R192, R197, R198) -/

/-- R192, checks 1 to 5 and 8, for a command that `build` makes of its descriptor; `more` is what check 4 adds. -/
def State.readCommand (s : State) (op : Nat) (h : BitVec 6) (a : BitVec 5) (virt : Bool) (more : BitVec 512 → Bool)
    (build : BitVec 512 → Except TrapRecord CopyCmd) : Except TrapRecord CopyCmd :=
  let ad := s.me.readS a
  match s.me.readDescriptor ad with
  | .error cause => .error { s.mkTrap cause op (some ad) true with hv := true, hnd := h }
  | .ok d =>
    if !Desc.valid d || !more d then .error (s.copyTrap Cause.protection op h)
    else if !Desc.aligned d then .error (s.copyTrap Cause.align op h)
    else match build d with
      | .error t => .error t
      | .ok m => .ok { m with virt := virt, desc := d, charge := s.charge op }

/-- R192, checks 7 to 9 in their order, and the acceptance. -/
def State.acceptTile (s : State) (op : Nat) (g : BitVec 1) (h : BitVec 6) (inbound virt : Bool) (r : Except TrapRecord CopyCmd) :
    OpRes :=
  match r with
  | .error t => .trap t
  | .ok m =>
    let m := { m with inbound := inbound }
    let taken := s.takeNamed op g h inbound
    match taken with
    | .trap t => .trap t
    | _ =>
      let region := match taken with
        | .take x => x
        | _ => match s.me.ring h.toNat with
          | some rg => if g = 1 then rg.at (if inbound then rg.p else rg.c) else h + BitVec.ofNat 6 s.me.reissue
          | none => h + BitVec.ofNat 6 s.me.reissue
      if !baseOk virt (Desc.base m.desc) || !m.farOk then .trap (s.copyTrap Cause.protection op region)
      else if (s.me.handle region).size.toNat < Desc.tileBytes m.desc then .trap (s.copyTrap Cause.protection op region)
      else s.tryAccept op g h.toNat taken fun x => { m with h := x }

/-- R191: base and extents of re-issue `j` along dimension `sd`. -/
def stepTile (d : BitVec 512) (sd j : Nat) : Int × List Int :=
  ((Desc.base d).toNat + (j * Desc.count d sd : Nat) * Desc.stride d sd,
   (Desc.dims d).map fun i => (Desc.extent d i : Int) - if i = sd then (j * Desc.count d sd : Nat) else 0)

/-- R197: TILEF's origin at tile (x, y). -/
def tileOrigin (d : BitVec 512) (x y : Nat) : Int × List Int :=
  ((Desc.base d).toNat + (x * Desc.count d 0 : Nat) * Desc.stride d 0 + (y * Desc.count d 1 : Nat) * Desc.stride d 1,
   (Desc.dims d).map fun i =>
    (Desc.extent d i : Int) - if i = 0 then (x * Desc.count d 0 : Nat) else if i = 1 then (y * Desc.count d 1 : Nat) else 0)

/-- COPY and COPYO. -/
def State.copyTile (s : State) (op : Nat) (i : Instr) (g : BitVec 1) (h : BitVec 6) (a : BitVec 5) (v : BitVec 1) (sd : BitVec 3)
    (inbound : Bool) : OpRes :=
  s.acceptTile op g h inbound (v == 1) (s.readCommand op h a (v == 1) (fun d => sd.toNat < Desc.ndim d) fun d =>
    let (b, ext) := stepTile d sd.toNat s.me.reissue
    .ok { instr := i, base := b, extent := ext })

/-- R197: Copies a far tile into a handle. -/
def opCopy (bt : BitVec 2) (g : BitVec 1) (h : BitVec 6) (a : BitVec 5) (v : BitVec 1) (sd : BitVec 3) (s : State) : OpRes :=
  s.copyTile 0x01 (.copy bt g h a v sd) g h a v sd true
/-- R197: Copies a handle's region out to a far tile. -/
def opCopyo (bt : BitVec 2) (g : BitVec 1) (h : BitVec 6) (a : BitVec 5) (v : BitVec 1) (sd : BitVec 3) (s : State) : OpRes :=
  s.copyTile 0x02 (.copyo bt g h a v sd) g h a v sd false
/-- R197: Copies tile (x, y) of a far tensor into a handle. -/
def opTilef (bt : BitVec 2) (g : BitVec 1) (h : BitVec 6) (a : BitVec 5) (b : BitVec 5) (v : BitVec 1) (sd : BitVec 3) (s : State) : OpRes :=
  s.acceptTile 0x0F g h true (v == 1) (s.readCommand 0x0F h a (v == 1) (fun d => 2 ≤ Desc.ndim d) fun d =>
    let xy := (s.me.readS b).toNat
    let (base, ext) := tileOrigin d (xy % 2 ^ 32 + s.me.reissue) (xy / 2 ^ 32)
    .ok { instr := .tilef bt g h a b v sd, base := base, extent := ext })

/-- R198: the index array, with its checks. -/
def State.readIndex (s : State) (op : Nat) (h : BitVec 6) (b : BitVec 5) (d : BitVec 512) : Except TrapRecord (List Word) :=
  let n := Desc.count d 1
  let ad := s.me.readS b + BitVec.ofNat 64 (s.me.reissue * 4 * n)
  let t := fun cause => { s.mkTrap cause op (some ad) true with hv := true, hnd := h }
  if ad.toNat % 4 != 0 then .error (t Cause.align)
  else if benchSize < ad.toNat + 4 * n then .error (t Cause.protection)
  else if !s.me.owns ad.toNat (4 * n) then .error (t Cause.ownership)
  else .ok ((List.range n).map fun i => BitVec.ofNat 32 (s.me.bench.num (ad.toNat + 4 * i) 4))

def State.copyRows (s : State) (op : Nat) (i : Instr) (g : BitVec 1) (h : BitVec 6) (a b : BitVec 5) (v : BitVec 1) (inbound : Bool) :
    OpRes :=
  s.acceptTile op g h inbound (v == 1) (s.readCommand op h a (v == 1) (fun d => Desc.ndim d == 2) fun d =>
    match s.readIndex op h b d with
    | .error t => .error t
    | .ok ix => .ok { instr := i, base := (Desc.base d).toNat, index := ix
                      extent := (Desc.dims d).map fun i => ((Desc.extent d i : Nat) : Int) })

/-- R198: Gathers far rows by index into a handle. -/
def opGather (bt : BitVec 2) (g : BitVec 1) (h : BitVec 6) (a : BitVec 5) (b : BitVec 5) (v : BitVec 1) (s : State) : OpRes :=
  s.copyRows 0x03 (.gather bt g h a b v) g h a b v true
/-- R198: Scatters a handle's rows to far rows by index. -/
def opScattr (bt : BitVec 2) (g : BitVec 1) (h : BitVec 6) (a : BitVec 5) (b : BitVec 5) (v : BitVec 1) (s : State) : OpRes :=
  s.copyRows 0x04 (.scattr bt g h a b v) g h a b v false

/-- R199. One-shot: no re-issue steps its handle. -/
def opFillh (bt : BitVec 2) (g : BitVec 1) (h : BitVec 6) (a : BitVec 5) (s : State) : OpRes :=
  s.tryAccept 0x05 g h.toNat (s.takeNamed 0x05 g h true) fun x =>
    { instr := .fillh bt g h a, h := x, fill := (s.me.readS a).setWidth 8, charge := s.charge 0x05 }

/-! ### Handles and rings at their issue (R200 to R202, R204) -/

/-- R211: Issues nothing and idles the copy engine's record. -/
def opCnop (_bt : BitVec 2) (s : State) : OpRes := .done s

/-- R200. -/
def opFlip (_bt : BitVec 2) (h : BitVec 6) (s : State) : OpRes :=
  let hd := s.me.handle h
  if !hd.declared || hd.ring.isSome then .trap (s.copyTrap Cause.protection 0x08 h)
  else match hd.flipped with
    | some x => .done (s.updMe fun k => k.setHandle h x)
    | none => .trap (s.copyTrap Cause.protection 0x08 h)

/-- R188, R200: ADVP on an outbound ring, ADVC on an inbound one. -/
def State.advance (s : State) (op n : Nat) (producer : Bool) : OpRes :=
  match s.me.ring n with
  | none => .trap (s.mkTrap Cause.protection op none false n)
  | some r =>
    if r.out != producer then .trap (s.mkTrap Cause.protection op none false n)
    else
      let h := r.at (if producer then r.p else r.c)
      let hd := s.me.handle h
      if (if producer then hd.st == Hs.free && hd.o == 0 else hd.fullMine) then
        .done (s.updMe fun k => (k.setHandle h (hd.flipped.getD hd)).advanceRing n producer)
      else .hold .accept

/-- R200: Publishes the outbound ring's producer slot. -/
def opAdvp (_bt : BitVec 2) (r : BitVec 3) (s : State) : OpRes := s.advance 0x06 r.toNat true
/-- R200: Releases the inbound ring's consumer slot. -/
def opAdvc (_bt : BitVec 2) (r : BitVec 3) (s : State) : OpRes := s.advance 0x07 r.toNat false

/-- The members of a run of handles. -/
def runOf (f l : Nat) : List (BitVec 6) := (List.range l).map fun i => BitVec.ofNat 6 (f + i)

/-- R187, R201. -/
def opRingdef (_bt : BitVec 2) (f : BitVec 6) (l : BitVec 6) (n : BitVec 3) (o : BitVec 1) (s : State) : OpRes :=
  let k := s.me
  let len := l.toNat + 1
  let old := match k.ring n.toNat with
    | some r => runOf r.f.toNat r.l.toNat
    | none => []
  let fail : OpRes := .trap (s.mkTrap Cause.protection 0x09 none false n.toNat)
  if !old.all fun h => (k.handle h).st == Hs.free then fail
  else
    let k := old.foldl (fun (k : Core) h => k.updHandle h fun x => { x with ring := none }) k
    let new := runOf f.toNat len
    if !new.all fun h => (k.handle h).declared && (k.handle h).st == Hs.free && (k.handle h).ring.isNone then fail
    else
      let k := new.foldl (fun (k : Core) h => k.updHandle h fun x => { x with ring := some n, o := ~~~o }) k
      .done (s.setMe (k.setRing n.toNat (some { f := f, l := BitVec.ofNat 7 len, out := o == 1 })))

/-- R204. -/
def opHarm (_bt : BitVec 2) (h : BitVec 6) (a : BitVec 5) (s : State) : OpRes :=
  let v := s.me.readS a
  if !(s.me.handle h).declared then .trap (s.copyTrap Cause.protection 0x0A h)
  else if v.toNat % 16 != 0 then .trap { s.mkTrap Cause.align 0x0A (some v) with hv := true, hnd := h }
  else .done (s.updMe fun k => k.updHandle h fun x => { x with arm := true, entry := v })

/-- R204: Disarms a handle. -/
def opHarmOff (_bt : BitVec 2) (h : BitVec 6) (s : State) : OpRes :=
  if !(s.me.handle h).declared then .trap (s.copyTrap Cause.protection 0x0A h)
  else .done (s.updMe fun k => k.updHandle h fun x => { x with arm := false })

/-- R202. -/
def opHpois (_bt : BitVec 2) (h : BitVec 6) (c : BitVec 1) (s : State) : OpRes :=
  let hd := s.me.handle h
  if !hd.declared then .trap (s.copyTrap Cause.protection 0x0E h)
  else if hd.o == 1 then .trap (s.copyTrap Cause.ownership 0x0E h)
  else .done (s.updMe fun k => k.setHandle h { hd with psn := ~~~c, abort := false })

/-! ### SEND, SACC, COLL at their issue (R203, R207, R209) -/

/-- R203: the source is accepted; the engine judges the destination when it reaches the receiver. -/
def opSend (bt : BitVec 2) (g : BitVec 1) (d : BitVec 6) (h : BitVec 6) (b : BitVec 5) (s : State) : OpRes :=
  let k := s.me
  let rank := (k.readS b).toNat
  let src := h + BitVec.ofNat 6 k.reissue
  let taken := s.takeHandle 0x0B src false
  match taken with
  | .trap t => .trap t
  | _ =>
    if (s.coreOfRank s.cur rank).isNone then .trap (s.copyTrap Cause.protection 0x0B src)
    else s.tryAccept 0x0B 0 0 taken fun x =>
      { instr := .send bt g d h b, h := x, inbound := false, rank := rank, toRing := g == 1
        dest := if g = 1 then d else d + BitVec.ofNat 6 k.reissue, charge := s.charge 0x0B }

/-- R186, R207: both streams are accepted as sources, a poisoned one with one event or trap, and the command joins the round of the quantum under
way (R208). DESIGN CHOICE (notes/assumptions/74.md): the sizes are judged before s[sa], which raises ALIGN, then PROTECTION; the POISON_READ event
of R186 is posted although R207 says that SACC posts none. -/
def opSacc (bt : BitVec 2) (i : BitVec 6) (v : BitVec 6) (a : BitVec 5) (o : BitVec 3) (s : State) : OpRes :=
  let k := s.me
  let hi := i + BitVec.ofNat 6 k.reissue
  let hv := v + BitVec.ofNat 6 k.reissue
  let base := k.readS a
  let ti := s.takeHandle 0x0C hi false
  let tv := s.takeHandle 0x0C hv false
  let p := if (k.handle hi).psn = 1 then hi else hv
  match ti, tv with
  | .trap t, _ => .trap t
  | _, .trap t => .trap t
  | _, _ =>
    if (k.handle hi).size != (k.handle hv).size then .trap (s.copyTrap Cause.protection 0x0C hi)
    else if base.toNat % 4 != 0 then .trap { s.mkTrap Cause.align 0x0C (some base) true with hv := true, hnd := hi }
    else if localOf base.toNat 4 != some .yard then .trap { s.mkTrap Cause.protection 0x0C (some base) true with hv := true, hnd := hi }
    else if ti == .hold || tv == .hold || copyQueueSize ≤ (k.copyEngine (engineOfSlot k.slot)).queue.length then .hold .accept
    else match s.sourcePoison 0x0C p with
      | .error t => .trap t
      | .ok evs =>
        let t := (s.postAll s.cur evs).acceptCommand
          { instr := .sacc bt i v a o, h := hi, inbound := false, dest := hv, charge := s.charge 0x0C } 0 0
        let t := t.updMe fun k => k.updHandle hv Handle.acceptDrain
        let cmd : SaccCmd := { core := s.cur, eng := BitVec.ofNat 1 (engineOfSlot k.slot), hi := hi, hv := hv, base := base
                               opc := o, round := k.ctl.quantEnd.toNat + 1, charge := s.charge 0x0C }
        .done (t.updCluster s.myCluster fun y => { y with sacc := y.sacc ++ [cmd] })

namespace CollDesc
def fieldNat (d : BitVec 256) (byte n : Nat) : Nat := bitsOf d.toNat (8 * byte) (8 * n)
def table (d : BitVec 256) : DWord := BitVec.ofNat 64 (fieldNat d 0 8)
def seg (d : BitVec 256) : Nat := fieldNat d 8 4
def npart (d : BitVec 256) : Nat := fieldNat d 12 2
def rank (d : BitVec 256) : Nat := fieldNat d 14 2
def op (d : BitVec 256) : Nat := fieldNat d 16 1
def type (d : BitVec 256) : Nat := fieldNat d 17 1
def root (d : BitVec 256) : Nat := fieldNat d 18 2
def group (d : BitVec 256) : Nat := fieldNat d 20 4
def valid (d : BitVec 256) : Bool :=
  2 ≤ npart d && npart d ≤ 1024 && rank d < npart d && op d ≤ 3 && (type d == 0 || type d == 1 || type d == 3)
    && (op d != 3 || root d < npart d) && fieldNat d 24 8 == 0
end CollDesc

/-- R310: the clusters of the crew that issued COLL in this window. -/
def State.markColl (s : State) : State :=
  (((s.crewAt s.cur).map (·.clusters)).getD []).foldl (fun s cl =>
    (s.slackDue cl).updCluster cl fun y => { y with collSeen := true }) s

/-- COLL at its issue (R209); its descriptor travels in the low half of a copy command's. DESIGN CHOICE (notes/assumptions/73.md): a descriptor's
place raises ALIGN, then PROTECTION, then OWNERSHIP, its contents PROTECTION, and a destination smaller than the source PROTECTION, all precise. -/
def opColl (bt : BitVec 2) (h : BitVec 6) (d : BitVec 6) (a : BitVec 5) (s : State) : OpRes :=
  let k := s.me
  let ad := k.readS a
  let t := fun cause => { s.mkTrap cause 0x0D (some ad) true with hv := true, hnd := h }
  if ad.toNat % 32 != 0 then .trap (t Cause.align)
  else if benchSize < ad.toNat + 32 then .trap (t Cause.protection)
  else if !k.owns ad.toNat 32 then .trap (t Cause.ownership)
  else
    let desc : BitVec 256 := BitVec.ofNat 256 (k.bench.num ad.toNat 32)
    if !CollDesc.valid desc then .trap (s.copyTrap Cause.protection 0x0D h)
    else
      let src := s.takeHandle 0x0D h false
      let dst := s.takeHandle 0x0D d true
      match src, dst with
      | .trap r, _ => .trap r
      | _, .trap r => .trap r
      | _, _ =>
        if (k.handle d).size.toNat < (k.handle h).size.toNat then .trap (s.copyTrap Cause.protection 0x0D d)
        else if dst == .hold then .hold .accept
        else
          match s.tryAccept 0x0D 0 0 src fun x =>
            { instr := .coll bt h d a, h := x, inbound := false, dest := d, desc := desc.setWidth 512, virt := true
              charge := s.charge 0x0D } with
          | .done u => .done ((u.updMe fun k => k.updHandle d Handle.acceptFill).markColl)
          | r => r

/-! ### The work of an engine (R191, R193) -/

/-- R265. -/
def CopyCmd.progress (m : CopyCmd) : Nat :=
  match m.instr with
  | .sacc .. => m.rd % 2 ^ 20 * 2 ^ 24
  | _ => m.landed % 2 ^ 20 * 2 ^ 44 + m.rd % 2 ^ 20 * 2 ^ 24

/-- The counts of a command shown in its handle (R185). -/
def Core.showCounts (k : Core) (m : CopyCmd) : Core :=
  k.updHandle m.h fun h => { h with landed := BitVec.ofNat 20 m.landed, rd := BitVec.ofNat 20 m.rd }

/-- Replaces the command at the head of an engine's queue, with its counts. -/
def State.setHead (s : State) (c : CoreNo) (eng : Nat) (m : CopyCmd) : State :=
  (s.updEngine c eng fun e => { e with queue := m :: e.queue.tail }).updCore c fun k => k.showCounts m

/-- The head of the queue is done. -/
def State.popHead (s : State) (c : CoreNo) (eng : Nat) : State :=
  s.updEngine c eng fun e => { e with queue := e.queue.tail, completed := e.completed + 1 }

/-- R193: the error code of a handle by the cause that stopped its command. -/
def errCode (cause : BitVec 5) : BitVec 4 := if cause == Cause.peerLost then 3 else 2

/-- R193: a fault that stops the head command: its handle is FULL with O = 0, its record is written, its trap pends. `also` is a
second handle of it. -/
def State.copyFault (s : State) (c : CoreNo) (eng : Nat) (m : CopyCmd) (f : EngFault) (also : Option (BitVec 6)) : State :=
  let t := s.engineRecord c (2 + eng) m.charge m.progress { f with hnd := some m.h } none
  let s := (s.raiseEngine c t).updCore c fun k =>
    let k := (k.showCounts m).updHandle m.h fun h => h.stopped (errCode f.cause)
    match also with
    | some x => k.updHandle x fun h => h.stopped (errCode f.cause)
    | none => k
  s.popHead c eng

/-- R193, R371: the head command stops at the element it has reached. -/
def State.copyStop (s : State) (c : CoreNo) (eng : Nat) (m : CopyCmd) (r : EngRes Unit) : State :=
  match r with
  | .ok _ => s.setHead c eng m
  | .fault f => s.copyFault c eng m f none
  | .page va wr =>
    let t := s.engineRecord c (2 + eng) m.charge m.progress
      { cause := Cause.pageFault, addr := some (va, false), hnd := some m.h } none
    let (s, h) := s.holdEngine c t va wr
    (s.setHead c eng { m with fault := some h }).updCore c fun k => k.updHandle m.h fun x => { x with err := 1 }
  | .file i sz => (s.startFileRead i sz).setHead c eng { m with fault := some (heldOnFile i) }

/-- R193: a command that goes on has no error pending. -/
def State.clearErr (s : State) (c : CoreNo) (m : CopyCmd) : State := s.updCore c fun k => k.updHandle m.h fun h => { h with err := 0 }

/-- R199: a FILLH's bytes. -/
def State.moveFill (s : State) (c : CoreNo) (m : CopyCmd) : State × CopyCmd :=
  let h := (s.core c).handle m.h
  let n := h.size.toNat
  (s.updCore c fun k => { k with bench := k.bench.write h.base.toNat (List.replicate n m.fill) },
   { m with landed := n, rd := 0, moved := true })

/-- R209: a COLL reads its participant table and joins its segment. -/
def State.joinColl (s : State) (c : CoreNo) (eng : Nat) (m : CopyCmd) : State :=
  let d : BitVec 256 := m.desc.setWidth 256
  let n := 8 * CollDesc.npart d
  let s := s.engineReach c true (CollDesc.table d) n
  match s.engineVread c (CollDesc.table d) n with
  | .ok bs =>
    let k := s.core c
    let part : CollPart := { core := c, eng := BitVec.ofNat 1 eng, hs := m.h, hd := m.dest, desc := d
                             table := (chunks 8 (CollDesc.npart d + 1) bs).map leNat
                             data := k.region m.h, poison := m.poison, charge := m.charge, arrived := s.now
                             reference := !(s.clusters.any fun y => y.marksAt s.now != 0) }
    (s.setHead c eng { m with started := true }).updHub fun h => { h with colls := h.colls ++ [part] }
  | .fault f => s.copyFault c eng m f (some m.dest)
  | .page v w => s.copyStop c eng m (.page v w)
  | .file i sz => s.copyStop c eng m (.file i sz)

/-- COPY_COMMAND_START (R189): the head of the queue moves the next element of its tile (R191), each at a moment of its own (R233), or fills its
region; SENDs, SACCs and COLLs move by events of their own. -/
def execCopyCommandStart (c : CoreNo) (eng : BitVec 1) (s : State) : Result :=
  let n := eng.toNat
  match (s.engine c n).queue.head? with
  | none => .next s
  | some m =>
    if m.moved || m.fault.isSome || (s.core c).recordWaits (2 + n) then .next s
    else
      match m.instr with
      | .send .. | .sacc .. => .next s
      | .coll .. => if m.started then .next s else .next ((s.clearErr c m).joinColl c n m)
      | .fillh .. =>
        let (t, m) := s.moveFill c m
        .next (t.setHead c n m)
      | _ =>
        let (t, m, r) := (s.clearErr c m).moveElement c n { m with started := true }
        match r with
        | .ok _ => .next (t.setHead c n { m with moved := m.allMoved })
        | r => .next (t.copyStop c n m r)

/-- R160: a fetch of UFETCH has moved, and its handle is FULL with O = 1, or it meets its fault, which is the engine's (R167). -/
def State.endFetch (s : State) (c : CoreNo) (m : CopyCmd) (r : EngRes Unit) : State :=
  let t := s.updCore c fun k => k.showCounts m
  let others := fun (x : Matrix) (new : List CopyCmd) =>
    { x with fetches := new ++ x.fetches.filter fun f => f.h != m.h }
  match r with
  | .ok _ => (t.updCore c fun k => k.updHandle m.h fun h => { h.filled with psn := 0, err := 0 }).updMatrix c fun x => others x []
  | .fault f =>
    let t := (t.updCore c fun k => k.updHandle m.h fun h => h.stopped (errCode f.cause)).updMatrix c fun x => others x []
    t.matrixFault c { instr := .mnop 0, charge := m.charge } m.micro { f with hnd := f.hnd.or (some m.h) }
  | .page va wr =>
    let rec_ := t.engineRecord c 1 m.charge (t.core c).ctl.rowp.toNat
      { cause := Cause.pageFault, addr := some (va, false), hnd := some m.h } m.micro
    let (t, h) := t.holdEngine c rec_ va wr
    (t.updCore c fun k => k.updHandle m.h fun x => { x with err := 1 }).updMatrix c fun x => others x [{ m with fault := some h }]
  | .file i sz => (t.startFileRead i sz).updMatrix c fun x => others x [{ m with fault := some (heldOnFile i) }]

/-- R160: the poison that a fetch meets at the bench element it has reached. -/
def State.fetchPoison (s : State) (c : CoreNo) (m : CopyCmd) : Option EngFault :=
  let (x, inside) := m.element m.pos
  let a : DWord := BitVec.ofInt 64 x
  let e := Desc.esize m.desc
  if !inside || m.virt || localOf a.toNat e != some .bench || !(s.core c).engineOwns a.toNat e then none
  else ((s.core c).poisonAt a.toNat e).map fun (i, h) =>
    { cause := poisonCause h, addr := some (a, true), hnd := some (BitVec.ofNat 6 i) }

/-- R160: a fetch of UFETCH moves its next element, or with the last one ends; its micro-op posts one POISON_READ event at the most. -/
def State.stepFetch (s : State) (c : CoreNo) (m : CopyCmd) : State :=
  match s.fetchPoison c m, m.psnTrap with
  | some f, true => s.endFetch c m (.fault f)
  | f, _ =>
    let (s, m) := match f, m.poison with
      | some f, false => (s.postEvent c (m.charge.poisonEvent f), { m with poison := true })
      | _, _ => (s, m)
    let (t, m, r) := s.moveElement c 2 m
    match r with
    | .ok _ =>
      if m.allMoved then t.endFetch c m r
      else (t.updCore c fun k => k.showCounts m).updMatrix c fun x => { x with
        fetches := x.fetches.map fun f => if f.h == m.h then m else f }
    | r => t.endFetch c m r

/-- R193: the address of the far element a command has reached. -/
def CopyCmd.farAddr (m : CopyCmd) : DWord := BitVec.ofInt 64 (m.element m.pos).1

/-- R193: an uncorrectable error in the far data of the command under way of C0, C1 (0, 1) or of a UFETCH (2), at the element it has
reached: the memory is code 5 (R267). -/
def State.farError (s : State) (c : CoreNo) (eng : Nat) : State :=
  let f := fun (m : CopyCmd) => { cause := Cause.ecc, addr := some (m.farAddr, !m.virt), hnd := some m.h, aux := 5 : EngFault }
  if eng = 2 then
    match (s.matrix c).fetches.head? with
    | some m => if m.fault.isSome then s else s.endFetch c m (.fault (f m))
    | none => s
  else
    match (s.engine c eng).queue.head? with
    | none => s
    | some m =>
      if m.moved || m.fault.isSome || (s.core c).recordWaits (2 + eng) then s
      else match m.instr with
        | .copy .. | .copyo .. | .tilef .. | .gather .. | .scattr .. => s.copyFault c eng m (f m) none
        | _ => s

/-- FILL_COMPLETE (R182): the head command whose bytes have all landed flips its handle; a UFETCH's fetch goes on, and flips its handle with its
last element. -/
def execFillComplete (c : CoreNo) (h : BitVec 6) (s : State) : Result :=
  match (s.matrix c).fetches.find? fun m => m.h == h with
  | some m => if m.fault.isSome then .next s else .next (s.stepFetch c m)
  | none =>
    match ([0, 1] : List Nat).find? fun n =>
        match (s.engine c n).queue.head? with
        | some m => m.h == h && m.inbound && m.moved
        | none => false with
    | some n => .next ((s.updCore c fun k => k.updHandle h fun x => { x.filled with psn := 0, abort := false }).popHead c n)
    | none => .next s

/-- HANDLE_DRAIN_COMPLETE (R193): every write of the head command has been performed, at SYS scope; its sources are FREE with O = 0. -/
def execHandleDrainComplete (c : CoreNo) (h : BitVec 6) (s : State) : Result :=
  match ([0, 1] : List Nat).find? fun n =>
      match (s.engine c n).queue.head? with
      | some m => m.h == h && !m.inbound && m.moved && !s.egressHolds c (·.eng == n)
      | none => false with
  | none => .next s
  | some n =>
    match (s.engine c n).queue.head? with
    | none => .next s
    | some m =>
      let s := s.updCore c fun k =>
        let k := k.updHandle h Handle.drained
        match m.instr with
        | .sacc .. => k.updHandle m.dest Handle.drained
        | _ => k
      .next (s.popHead c n)

/-- R203: the receiver's handle, or why the send is refused or waits. -/
inductive Delivery where
  | into (h : BitVec 6)
  | refused (aux : Nat)
  | wait
  deriving DecidableEq, Repr

def Core.delivery (k : Core) (m : CopyCmd) (size : Nat) : Delivery :=
  let judge := fun (h : BitVec 6) (aux : Nat) =>
    let hd := k.handle h
    if hd.size.toNat < size then Delivery.refused aux
    else if hd.st == Hs.free && hd.o == 1 then .into h else .wait
  if m.toRing then
    match k.ring m.dest.toNat with
    | none => .refused m.dest.toNat
    | some r => if r.out then .refused m.dest.toNat else judge (r.at r.p) m.dest.toNat
  else judge m.dest 0

def isSend : Instr → Bool
  | .send .. => true
  | _ => false

/-- R203: the core's other engine holds an earlier SEND to the same receiver. -/
def State.sendWaits (s : State) (c : CoreNo) (n : Nat) (m : CopyCmd) : Bool :=
  (s.engine c (1 - n)).queue.any fun q => isSend q.instr && q.rank == m.rank && q.no < m.no

/-- SEND_DELIVERY (R203, R278). -/
def execSendDelivery (c : CoreNo) (eng : BitVec 1) (s : State) : Result :=
  let n := eng.toNat
  match (s.engine c n).queue.head? with
  | none => .next s
  | some m =>
    match m.instr with
    | .send .. =>
      if (s.core c).recordWaits (2 + n) || s.sendWaits c n m then .next s
      else
        match s.coreOfRank c m.rank with
        | none => .next s
        | some peer =>
          let src := (s.core c).handle m.h
          let size := src.size.toNat
          if (s.core peer).status == .contained then .next (s.copyFault c n m { cause := Cause.peerLost } none)
          else
            match (s.core peer).delivery m size with
            | .wait => .next s
            | .refused aux => .next (s.copyFault c n m { cause := Cause.protection, aux := aux } none)
            | .into d =>
              let bytes := (s.core c).region m.h
              let s := s.updCore peer fun k =>
                let k := { k with bench := k.bench.write (k.handle d).base.toNat bytes }
                let k := k.updHandle d fun h =>
                  Handle.filled { h with landed := BitVec.ofNat 20 size, rd := BitVec.ofNat 20 size, err := 0, fetch := false
                                         psn := BitVec.ofBool m.poison, abort := false }
                if m.toRing then k.advanceRing m.dest.toNat true else k
              let s := s.updCore c fun k => k.updHandle m.h fun h =>
                { h.drained with landed := BitVec.ofNat 20 size, rd := BitVec.ofNat 20 size }
              .next (s.popHead c n)
    | _ => .next s
/-- COPY issued by itself (R197). -/
def execCopy (bt : BitVec 2) (g : BitVec 1) (h : BitVec 6) (a : BitVec 5) (v : BitVec 1) (sd : BitVec 3) (s : State) : Result := s.solo 5 1 (opCopy bt g h a v sd)
/-- COPYO issued by itself (R197). -/
def execCopyo (bt : BitVec 2) (g : BitVec 1) (h : BitVec 6) (a : BitVec 5) (v : BitVec 1) (sd : BitVec 3) (s : State) : Result := s.solo 5 1 (opCopyo bt g h a v sd)
/-- TILEF issued by itself (R197). -/
def execTilef (bt : BitVec 2) (g : BitVec 1) (h : BitVec 6) (a : BitVec 5) (b : BitVec 5) (v : BitVec 1) (sd : BitVec 3) (s : State) : Result := s.solo 5 1 (opTilef bt g h a b v sd)
/-- GATHER issued by itself (R198). -/
def execGather (bt : BitVec 2) (g : BitVec 1) (h : BitVec 6) (a : BitVec 5) (b : BitVec 5) (v : BitVec 1) (s : State) : Result := s.solo 5 1 (opGather bt g h a b v)
/-- SCATTR issued by itself (R198). -/
def execScattr (bt : BitVec 2) (g : BitVec 1) (h : BitVec 6) (a : BitVec 5) (b : BitVec 5) (v : BitVec 1) (s : State) : Result := s.solo 5 1 (opScattr bt g h a b v)
/-- FILLH issued by itself (R199). -/
def execFillh (bt : BitVec 2) (g : BitVec 1) (h : BitVec 6) (a : BitVec 5) (s : State) : Result := s.solo 5 1 (opFillh bt g h a)
/-- CNOP issued by itself (R211). -/
def execCnop (_bt : BitVec 2) (s : State) : Result := s.solo 5 1 (opCnop _bt)
/-- FLIP issued by itself (R200). -/
def execFlip (_bt : BitVec 2) (h : BitVec 6) (s : State) : Result := s.solo 5 1 (opFlip _bt h)
/-- ADVP issued by itself (R200). -/
def execAdvp (_bt : BitVec 2) (r : BitVec 3) (s : State) : Result := s.solo 5 1 (opAdvp _bt r)
/-- ADVC issued by itself (R200). -/
def execAdvc (_bt : BitVec 2) (r : BitVec 3) (s : State) : Result := s.solo 5 1 (opAdvc _bt r)
/-- RINGDEF issued by itself (R201). -/
def execRingdef (_bt : BitVec 2) (f : BitVec 6) (l : BitVec 6) (n : BitVec 3) (o : BitVec 1) (s : State) : Result := s.solo 5 1 (opRingdef _bt f l n o)
/-- HARM issued by itself (R204). -/
def execHarm (_bt : BitVec 2) (h : BitVec 6) (a : BitVec 5) (s : State) : Result := s.solo 5 1 (opHarm _bt h a)
/-- HARM_OFF issued by itself (R204). -/
def execHarmOff (_bt : BitVec 2) (h : BitVec 6) (s : State) : Result := s.solo 5 1 (opHarmOff _bt h)
/-- HPOIS issued by itself (R202). -/
def execHpois (_bt : BitVec 2) (h : BitVec 6) (c : BitVec 1) (s : State) : Result := s.solo 5 1 (opHpois _bt h c)
/-- SEND issued by itself (R203). -/
def execSend (bt : BitVec 2) (g : BitVec 1) (d : BitVec 6) (h : BitVec 6) (b : BitVec 5) (s : State) : Result := s.solo 5 1 (opSend bt g d h b)
/-- SACC issued by itself (R207). -/
def execSacc (bt : BitVec 2) (i : BitVec 6) (v : BitVec 6) (a : BitVec 5) (o : BitVec 3) (s : State) : Result := s.solo 5 1 (opSacc bt i v a o)
/-- COLL issued by itself (R209). -/
def execColl (bt : BitVec 2) (h : BitVec 6) (d : BitVec 6) (a : BitVec 5) (s : State) : Result := s.solo 5 1 (opColl bt h d a)

end Sys2Proof.Machine
end

