-- ==== Sys2Proof/Machine/Ordering.lean ====
section
/-! DEFINITION. What the cluster does between its cores: quantum commits (R228 to R230), the scatter-accumulate rounds (R207,
R208), barriers (R86), the end of a DRAIN's hold (R238, R239), and collective segments (R209, R210). -/

namespace Sys2Proof.Machine

/-! ### Quanta -/

/-- The core has ended quantum `q`: by its own count, at its end, or by being held (R228, R230). -/
def Core.ended (k : Core) (q : Nat) : Bool := k.atEnd || q ≤ k.ctl.quantEnd.toNat || k.heldEnded

/-- The core has ended quantum `q` of its own, with a store in it where it is only at its end. -/
def Core.reached (k : Core) (q : Nat) : Bool :=
  (!k.atEnd && q ≤ k.ctl.quantEnd.toNat) || (k.atEnd && k.buffer.any fun b => q ≤ b.quantum)

/-- R229: whether the cluster's next quantum can commit. -/
def State.canCommit (s : State) (cl : ClusterNo) : Bool :=
  let q := (s.cluster cl).committed + 1
  let cs := s.crewHere cl
  (cs.any (fun c => (s.core c).reached q) || (s.cluster cl).sacc.any fun m => (s.core m.core).atEnd && q ≤ m.round)
    && cs.all fun c => (s.core c).ended q

/-- R229: the stores of quantum `q` of one core leave its buffer for the yard, each with an access of its banks (R214). -/
def State.commitCore (s : State) (cl : ClusterNo) (q : Nat) (c : CoreNo) : State :=
  let k := s.core c
  let mine := k.buffer.filter fun b => b.quantum ≤ q
  let lines := fun (b : BufStore) => (b.bytes.map fun w => w.1 / 64).eraseDups
  let s := mine.foldl (fun s b => (s.claimYard cl (requesterOf c 0) k.cycleNat (lines b)).1) s
  let s := s.updCluster cl fun y => { y with yard := mine.foldl (fun m b => m.writeEach b.bytes) y.yard }
  s.setCore c { k with
    buffer := k.buffer.filter fun b => q < b.quantum
    ctl := if !k.atEnd && k.ctl.quantEnd.toNat < q then { k.ctl with quantEnd := BitVec.ofNat 32 q } else k.ctl }

/-- QUANTUM_COMMIT (R229): cores in ascending index, each core's stores in order. -/
def execQuantumCommit (cl : ClusterNo) (s : State) : Result :=
  if s.canCommit cl then
    let q := (s.cluster cl).committed + 1
    let s := (s.crewHere cl).foldl (fun s c => s.commitCore cl q c) s
    .next (s.updCluster cl fun y => { y with committed := q })
  else .next s

/-! ### Scatter-accumulate (R207, R208) -/

/-- R207: the update of a yard word. -/
def saccOp (opc y v : Nat) : Nat :=
  let sx := toSigned 32
  let pick := fun (wantMax : Bool) =>
    (Fmt.f32.encode 0 false false (FNum.extreme wantMax (Fmt.f32.decode y) (Fmt.f32.decode v))).1
  match opc with
  | 0 => fp32Add y v
  | 1 => (y + v) % 2 ^ 32
  | 2 => pick true
  | 3 => pick false
  | 4 => ofSigned 32 (max (sx y) (sx v))
  | _ => ofSigned 32 (min (sx y) (sx v))

/-- R207: equal indices of a packet combined in stream order, in order of first occurrence. -/
def mergePacket (opc : Nat) : List (Nat × Nat) → List (Nat × Nat) → List (Nat × Nat)
  | acc, [] => acc.reverse
  | acc, (i, v) :: xs =>
    if acc.any fun a => a.1 == i then mergePacket opc (acc.map fun a => if a.1 == i then (i, saccOp opc a.2 v) else a) xs
    else mergePacket opc ((i, v) :: acc) xs

/-- The stream of a command from its position on, at most one packet. -/
def State.saccPacket (s : State) (m : SaccCmd) : List (Nat × Nat) :=
  let k := s.core m.core
  let n := min 64 ((k.handle m.hi).size.toNat / 4 - m.pos)
  let word := fun (h : BitVec 6) (i : Nat) => k.bench.num ((k.handle h).base.toNat + 4 * (m.pos + i)) 4
  (List.range n).map fun i => (word m.hi i, word m.hv i)

/-- The yard offset that index `i` updates, where it lies in the yard. -/
def SaccCmd.target (m : SaccCmd) (i : Nat) : Option Nat :=
  let a := m.base.toNat + 4 * i
  if localOf a 4 == some .yard then some (a - yardBase) else none

/-- The copy command that stands for a scatter-accumulate command in its engine's queue. -/
def State.markSacc (s : State) (m : SaccCmd) (f : CopyCmd → CopyCmd) : State :=
  let g := fun (q : CopyCmd) => match q.instr with
    | .sacc .. => if q.h == m.hi && !q.moved then f q else q
    | _ => q
  s.updEngine m.core m.eng.toNat fun e => { e with queue := e.queue.map g }

/-- One packet of one command: applied whole, or the command stops at an index outside the yard. `none`: it is over. -/
def State.saccStep (s : State) (m : SaccCmd) : State × Option SaccCmd :=
  let cl := clusterOf m.core
  let packet := s.saccPacket m
  if packet.any fun p => (m.target p.1).isNone then
    let bad := (packet.find? fun p => (m.target p.1).isNone).elim 0 (·.1)
    let cmd : CopyCmd := { instr := .sacc 0 m.hi m.hv 0 m.opc, h := m.hi, dest := m.hv, rd := 4 * m.pos, charge := m.charge }
    let t := s.engineRecord m.core (2 + m.eng.toNat) m.charge cmd.progress
      { localFault Cause.protection (m.base + BitVec.ofNat 64 (4 * bad)) with hnd := some m.hi } none
    let stop := fun (h : Handle) => { h.stopped 2 with rd := BitVec.ofNat 20 (4 * m.pos) }
    let s := (s.raiseEngine m.core t).updCore m.core fun k => (k.updHandle m.hi stop).updHandle m.hv stop
    (s.updEngine m.core m.eng.toNat fun e =>
      { e with completed := e.completed + 1, queue := e.queue.filter fun q => !(q.h == m.hi && !q.inbound && !q.moved) }, none)
  else
    let put := fun (y : Mem) (p : Nat × Nat) => match m.target p.1 with
      | some o => y.write o (leBytes 4 (saccOp m.opc.toNat (y.num o 4) p.2))
      | none => y
    let merged := mergePacket m.opc.toNat [] packet
    let now := (s.core m.core).cycleNat
    let s := (merged.filterMap fun p => m.target p.1).foldl (fun s o => (s.claimYard cl saccRequester now [o / 64]).1) s
    let s := s.updCluster cl fun y => { y with yard := merged.foldl put y.yard }
    let pos := m.pos + packet.length
    let count := fun (h : Handle) => { h with rd := BitVec.ofNat 20 (4 * pos) }
    let s := s.updCore m.core fun k => (k.updHandle m.hi count).updHandle m.hv count
    if 4 * pos < ((s.core m.core).handle m.hi).size.toNat then (s, some { m with pos := pos })
    else (s.markSacc m fun q => { q with moved := true, rd := 4 * pos }, none)

/-- R208: one packet from each core in ascending index, of its first command of the round. -/
def State.saccTurn (s : State) (cms : List SaccCmd) : State × List SaccCmd :=
  cms.foldl (fun (acc : State × List SaccCmd × List CoreNo) m =>
    if acc.2.2.contains m.core then (acc.1, acc.2.1 ++ [m], acc.2.2)
    else
      match acc.1.saccStep m with
      | (s, some m') => (s, acc.2.1 ++ [m'], acc.2.2 ++ [m.core])
      | (s, none) => (s, acc.2.1, acc.2.2 ++ [m.core])) (s, [], [])
    |> fun r => (r.1, r.2.1)

def State.saccTurns : Nat → State → List SaccCmd → State
  | 0, s, _ => s
  | n + 1, s, cms => if cms.isEmpty then s else
    let (t, rest) := s.saccTurn cms
    saccTurns n t rest

/-- Packets that the commands of a round can take at most. -/
def saccFuel (cms : List SaccCmd) : Nat := 2050 * (cms.length + 1)

/-- SACC_ROUND (R208): the round that follows the last one, once its quantum has committed. -/
def execSaccRound (cl : ClusterNo) (s : State) : Result :=
  let y := s.cluster cl
  let k := y.saccRounds + 1
  if y.committed < k then .next s
  else
    let mine := (y.sacc.filter fun m => m.round ≤ k)
    let cms := (List.range 8).flatMap fun i => mine.filter fun m => m.core == coreAt cl i
    let s := s.updCluster cl fun y => { y with saccRounds := k, sacc := y.sacc.filter fun m => k < m.round }
    .next (State.saccTurns (saccFuel cms) s cms)

/-! ### Barriers (R86) -/

/-- R86: the participants: cores of the crew here that have not halted. -/
def State.participants (s : State) (cl : ClusterNo) : List CoreNo := (s.crewHere cl).filter fun c => !(s.core c).atEnd

/-- R86: the core is held at barrier `b`. -/
def Core.atBarrier (k : Core) (b : BitVec 3) : Bool := k.hold == .bar b

/-- R86: of each participant the arrival with the number of the one that core `c` is held for, where it has been made. -/
def State.peerArrivals (s : State) (cl : ClusterNo) (b : BitVec 3) (c : CoreNo) : List (Option (Nat × Nat)) :=
  let j := (s.core c).arrivals[b.toNat].length
  (s.participants cl).map fun d => if j = 0 then none else (s.core d).arrivals[b.toNat][j - 1]?

/-- R86: every participant has made the arrival that core `c` is held for, and the quanta that these arrivals ended have committed. -/
def State.barrierMet (s : State) (cl : ClusterNo) (b : BitVec 3) (c : CoreNo) : Bool :=
  (s.core c).atBarrier b && (s.peerArrivals cl b c).all fun x => x.any fun a => a.2 ≤ (s.cluster cl).committed

/-- R86: the cycle of the last of the arrivals that core `c` waits for. -/
def State.lastArrival (s : State) (cl : ClusterNo) (b : BitVec 3) (c : CoreNo) : Nat :=
  (s.peerArrivals cl b c).foldl (fun m x => max m (x.elim 0 (·.1))) 0

/-- A core whose wait is met: its bundle issues next, in cycle `cycle` at the earliest. -/
def Core.release (k : Core) (cycle : Nat) : Core :=
  { k with hold := .none, released := true, ctl := { k.ctl with cycle := BitVec.ofNat 64 (max k.cycleNat cycle) } }

/-- One held core is released (R86, R230). -/
def State.releaseAt (s : State) (b : BitVec 3) (c : CoreNo) : State :=
  let due := s.lastArrival (clusterOf c) b c + 4
  ((s.riseEnd c).passHeld c 0 none).updCore c fun k => k.release due

/-- BARRIER_RELEASE (R86): the held bundles whose arrivals are complete issue next, no earlier than 4 cc after the last of these. -/
def execBarrierRelease (cl : ClusterNo) (b : BitVec 3) (s : State) : Result :=
  .next (((s.participants cl).filter (s.barrierMet cl b)).foldl (fun s c => s.releaseAt b c) s)

/-! ### DRAIN (R238, R239) -/

/-- A command with a far write still to perform: into the own bench or yard (`local_`), or anywhere. -/
def CopyCmd.farWritePending (m : CopyCmd) (anywhere : Bool) : Bool :=
  match m.instr with
  | .copyo .. | .scattr .. => !m.moved && (anywhere || !m.virt)
  | _ => false

/-- A queued operation that writes far memory (R178, R258). -/
def MatOp.writesFar (o : MatOp) : Bool :=
  match o.instr with
  | .mretire _ _ _ v _ _ => v == 1
  | .rstore _ _ _ v _ => v == 1
  | _ => false

/-- R238: the commands of an engine accepted at or before the DRAIN that are still there. -/
def CopyEngine.covered (e : CopyEngine) (accepted : Nat) : List CopyCmd := e.queue.take (accepted - e.completed)

/-- R232, R238: what a DRAIN waits for is done: at DIE scope a far write is performed once the egress or the CXL port has accepted it, at PKG once
its stack has, at SYS once the host has completed it too. -/
def State.drainMet (s : State) (c : CoreNo) (scope : BitVec 2) (q c0 c1 m : Nat) : Bool :=
  let k := s.core c
  let far := scope != 0
  decide (q ≤ (s.cluster (clusterOf c)).committed)
    && (k.c0.covered c0 ++ k.c1.covered c1).all (fun x => !x.farWritePending far)
    && (!far || ((k.matrix.running.toList ++ k.matrix.queue).take (m - k.matrix.completed)).all fun o => !o.writesFar)
    && (scope.toNat < 2 || !s.egressHolds c fun w => scope.toNat = 3 || !w.host)

/-- DRAIN_HOLD_END (R238, R239): the bundle after the DRAIN may issue. -/
def execDrainHoldEnd (c : CoreNo) (s : State) : Result :=
  match (s.core c).hold with
  | .drain scope q c0 c1 m => if s.drainMet c scope q c0 c1 m then
      .next (((s.riseEnd c).passHeld c 0 none).updCore c fun k => { k with hold := .none })
    else .next s
  | _ => .next s

/-! ### Collective segments (R209, R210) -/

/-- What the parts of one segment must agree on. -/
def CollPart.key (p : CollPart) : List Nat :=
  [CollDesc.npart p.desc, CollDesc.op p.desc, CollDesc.type p.desc, CollDesc.root p.desc, p.data.length]

/-- The participant's own table entry, and the package it names. -/
def CollPart.entry (p : CollPart) : Nat := p.table.getD (CollDesc.rank p.desc) 0
def entryPackage (e : Nat) : Nat := e % 2 ^ 16
def entryErrand (e : Nat) : Nat := e / 2 ^ 16 % 2 ^ 16

/-- Some participant of its table is on another package. -/
def CollPart.remote (p : CollPart) : Bool := p.foreign || p.table.any fun e => entryPackage e != entryPackage p.entry

/-- R210: errand `r` of this package is a participant's. -/
def CollPart.names (p : CollPart) (r : RecNo) : Bool :=
  p.table.any fun e => entryPackage e == entryPackage p.entry && entryErrand e == r.toNat

/-- R209: one element folded in ascending rank. -/
def collFold (op type : Nat) (xs : List Nat) : Nat :=
  let f := if type = 1 then Fmt.bf16 else Fmt.f32
  let wide := xs.map fun x => (Fmt.f32.encode 0 false false (f.decode x)).1
  let step := fun (a b : Nat) =>
    match type, op with
    | 3, 0 => (a + b) % 2 ^ 32
    | 3, 1 => ofSigned 32 (max (toSigned 32 a) (toSigned 32 b))
    | 3, _ => ofSigned 32 (min (toSigned 32 a) (toSigned 32 b))
    | _, 0 => fp32Add a b
    | _, o => (Fmt.f32.encode 0 false false (FNum.extreme (o == 1) (Fmt.f32.decode a) (Fmt.f32.decode b))).1
  match (if type = 3 then xs else wide) with
  | [] => 0
  | a :: as =>
    let r := as.foldl step a
    if type = 1 then (Fmt.bf16.encode 0 false false (Fmt.f32.decode r)).1 else r

/-- R209: the result of a segment, its parts in ascending rank. -/
def collResult (ps : List CollPart) : List Byte :=
  match ps.head? with
  | none => []
  | some p =>
    let op := CollDesc.op p.desc
    let type := CollDesc.type p.desc
    if op = 3 then ((ps.find? fun q => CollDesc.rank q.desc == CollDesc.root p.desc).map (·.data)).getD []
    else
      let n := elemBits type / 8
      let streams := ps.map fun q => ((chunks n (q.data.length + 1) q.data).map leNat).toArray
      (List.range (p.data.length / n)).flatMap fun i => leBytes n (collFold op type (streams.map fun a => a.getD i 0))

/-- The parts of a segment. -/
def State.collParts (s : State) (group seg : Nat) : List CollPart :=
  s.hub.colls.filter fun p => CollDesc.group p.desc == group && CollDesc.seg p.desc == seg

def State.dropColl (s : State) (group seg : Nat) : State :=
  s.updHub fun h => { h with colls := h.colls.filter fun p => !(CollDesc.group p.desc == group && CollDesc.seg p.desc == seg) }

/-- A part's command leaves its engine: the source FREE with O = 0, the destination FULL with O = 0. One of another package, or of a
launch that is over, ends there. -/
def State.endColl (s : State) (p : CollPart) (bytes : List Byte) (poison abort : Bool) : State :=
  if p.foreign || p.gone then s else
  let s := s.updCore p.core fun k =>
    let d := k.handle p.hd
    let bytes := if abort then List.replicate d.size.toNat 0 else bytes
    let k := { k with bench := k.bench.write d.base.toNat bytes }
    let k := k.updHandle p.hd fun h => Handle.filled
      { h with landed := BitVec.ofNat 20 bytes.length, rd := BitVec.ofNat 20 p.data.length, fetch := false
               psn := BitVec.ofBool (poison || abort), err := if abort then 4 else 0, abort := abort }
    k.updHandle p.hs fun h =>
      { h.drained with landed := BitVec.ofNat 20 p.data.length, rd := BitVec.ofNat 20 p.data.length }
  s.popHead p.core p.eng.toNat

/-- R210: errand `r` of this package has been killed, or a core of its crew contained, and it has run no launch since (DEDUCED,
notes/assumptions/65.md). -/
def State.lostErrand (s : State) (r : RecNo) : Bool := s.hub.lostErrands.contains r

/-- R285: what the saves of stopped crews hold of collectives. -/
def State.savedParts (s : State) : List CollPart := s.hub.waiting.flatMap fun q => q.saved.elim [] (·.colls)

def CollPart.isOf (p : CollPart) (group seg : Nat) : Bool := CollDesc.group p.desc == group && CollDesc.seg p.desc == seg

/-- R210: the table entries of a segment's participants that are still to issue, or to come back from a save. -/
def State.stillToCome (s : State) (group seg : Nat) : List Nat :=
  let ps := s.collParts group seg
  (((ps ++ s.savedParts.filter fun p => p.isOf group seg).flatMap fun p =>
      p.table.filter fun e => entryPackage e == entryPackage p.entry && !s.lostErrand (BitVec.ofNat 11 (entryErrand e)))
    |>.filter fun e => !(ps.any fun p => p.entry == e)).eraseDups

/-- R210: every participant's segment aborts, of those that have yet to issue when they do. -/
def State.abortColl (s : State) (group seg : Nat) : State :=
  let ps := s.collParts group seg
  let left := s.stillToCome group seg
  ((ps.foldl (fun s p => s.endColl p [] false true) s).dropColl group seg).updHub fun h =>
    if left.isEmpty then h else { h with aborted := h.aborted ++ [{ group := group, seg := seg, left := left }] }

/-- Aborts every segment some part of which `bad` holds of (R210). -/
def State.abortColls (s : State) (bad : CollPart → Bool) : State :=
  (((s.hub.colls ++ s.savedParts).filter bad).map fun p => (CollDesc.group p.desc, CollDesc.seg p.desc)).eraseDups.foldl
    (fun s g => s.abortColl g.1 g.2) s

/-- R210: the segments of which a participant's errand is lost abort, and none of its participants is still to come; so do those that another
participant of it joins later. -/
def State.loseErrand (s : State) (r : RecNo) : State :=
  let keep := fun (x : AbortedColl) => { x with left := x.left.filter fun e => entryErrand e != r.toNat }
  (s.abortColls fun p => p.names r).updHub fun h => { h with
    aborted := (h.aborted.map keep).filter fun x => !x.left.isEmpty, lostErrands := r :: h.lostErrands.erase r }

/-- R210: errand `r` takes part in collectives again, with a new program or a new launch. -/
def State.findErrand (s : State) (r : RecNo) : State := s.updHub fun h => { h with lostErrands := h.lostErrands.erase r }

/-- R210: the part has joined a segment that has aborted already. -/
def AbortedColl.awaits (x : AbortedColl) (p : CollPart) : Bool :=
  !p.foreign && x.group == CollDesc.group p.desc && x.seg == CollDesc.seg p.desc && x.left.contains p.entry

/-- R210: a participant of the part's segment is lost already. -/
def State.partLost (s : State) (p : CollPart) : Bool :=
  p.table.any fun e => entryPackage e == entryPackage p.entry && s.lostErrand (BitVec.ofNat 11 (entryErrand e))

/-- R210: a part whose segment has aborted before it came aborts too; one that is lost takes its segment with it. -/
def State.joinAborts (s : State) (p : CollPart) : State :=
  if s.hub.aborted.any fun x => x.awaits p then
    let gone := fun (x : AbortedColl) => if x.awaits p then { x with left := x.left.erase p.entry } else x
    (s.endColl p [] false true).updHub fun h => { h with
      colls := h.colls.erase p, aborted := (h.aborted.map gone).filter fun x => !x.left.isEmpty }
  else s.abortColl (CollDesc.group p.desc) (CollDesc.seg p.desc)

/-- R210: the part cannot go on as its segment's. -/
def State.joinsLost (s : State) (p : CollPart) : Bool := (s.hub.aborted.any fun x => x.awaits p) || s.partLost p

/-- Insertion by rank. -/
def insertByRank (p : CollPart) : List CollPart → List CollPart
  | [] => [p]
  | q :: qs => if CollDesc.rank p.desc < CollDesc.rank q.desc then p :: q :: qs else q :: insertByRank p qs

/-- R310: a segment's slack, in ns: the latest arrival among the packages whose times are references, less this package's own, which is the
last of its participants' (DEDUCED, notes/assumptions/66.md) and may be later. None where no time is a reference. -/
def collSlack (ps : List CollPart) : Option Int :=
  let mine := ps.filter fun p => !p.foreign
  let own := (mine.map (·.arrived)).foldl max 0
  let times := (if mine.all (·.reference) then [own] else []) ++ ((ps.filter fun p => p.foreign && p.reference).map (·.arrived))
  if times.isEmpty then none else some ((times.foldl max 0 : Nat) - (own : Int))

/-- R310: the clusters of the crews that took part see the slack. -/
def State.noteSlack (s : State) (ps : List CollPart) : State :=
  match collSlack ps with
  | none => s
  | some t => ((ps.filter fun p => !p.foreign && !p.gone).flatMap fun p => ((s.crewAt p.core).map (·.clusters)).getD []).foldl (fun s cl =>
    (s.slackDue cl).updCluster cl fun y => { y with slack := some (y.slack.elim t (max t)) }) s

/-- COLL_SEGMENT_COMPLETE (R209, R210): every rank has issued and the result goes to every destination; parts that disagree, or
give one rank twice, abort the segment, and so does a part whose segment is lost already. -/
def execCollSegmentComplete (group : Word) (seg : Word) (s : State) : Result :=
  let g := group.toNat
  let n := seg.toNat
  let ps := (s.collParts g n).foldl (fun a p => insertByRank p a) []
  match ps.head?, ps.find? s.joinsLost with
  | none, _ => .next s
  | some _, some p => .next (s.joinAborts p)
  | some p, none =>
    let ranks := ps.map fun q => CollDesc.rank q.desc
    if ps.any (fun q => q.key != p.key) || ranks.eraseDups.length != ranks.length then .next (s.abortColl g n)
    else if ps.length < CollDesc.npart p.desc then .next s
    else
      let r := collResult ps
      let poison := ps.any (·.poison)
      .next (((ps.foldl (fun s q => s.endColl q r poison false) s).dropColl g n).noteSlack ps)

/-- R209, R210: a participant on another package has issued its COLL; of a segment that has aborted it comes too late. -/
def State.takeForeign (s : State) (p : CollPart) : State :=
  if s.hub.aborted.any fun x => x.group == CollDesc.group p.desc && x.seg == CollDesc.seg p.desc then s
  else s.updHub fun h => { h with colls := h.colls ++ [{ p with foreign := true }] }

/-- LINK_PEER_LOST (R210): the segments with a participant on another package abort. -/
def execLinkPeerLost (_port : BitVec 4) (s : State) : Result := .next (s.abortColls fun p => p.remote)

end Sys2Proof.Machine
end

