-- ==== Sys2Proof/Machine/Scalar.lean ====
section
/-! DEFINITION. The S slot's arithmetic, selects, immediates and bit fields (R70 to R77). `op…` is what a slot does within an
issue; `exec…` is the operation issued by itself. -/

namespace Sys2Proof.Machine

/-- sd := f(a, b) of the ADD to MAXN group, with latency `lat` (R65, R71, R72). -/
def State.alu (s : State) (o : SReg) (lat : Nat) (f : DWord → DWord → DWord) : OpRes :=
  let k := s.me
  .done (s.setMe (k.push lat (k.sWrite o.d (f (k.readS o.a) (k.operand o.f o.b)))))

/-- The immediate form (R72). -/
def State.aluImm (s : State) (o : SImm) (f : DWord → DWord → DWord) : OpRes :=
  let k := s.me
  .done (s.setMe (k.push 1 (k.sWrite o.d (f (k.readS o.a) (imm o.i)))))

/-- sd := v with latency 1. -/
def State.setS (s : State) (d : BitVec 5) (v : DWord) : OpRes :=
  let k := s.me
  .done (s.setMe (k.push 1 (k.sWrite d v)))

def boolWord (b : Bool) : DWord := if b then 1 else 0

/-- R72: the high half of a product. -/
def mulHighSigned (a b : DWord) : DWord := BitVec.ofInt 64 (a.toInt * b.toInt / 2 ^ 64)
def mulHighUnsigned (a b : DWord) : DWord := BitVec.ofNat 64 (a.toNat * b.toNat / 2 ^ 64)

/-- R73: quotients round toward zero; division by zero and −2^63 by −1 have the results the rule gives. -/
def divSigned (a b : DWord) : DWord := if b = 0 then BitVec.allOnes 64 else a.sdiv b
def divUnsigned (a b : DWord) : DWord := if b = 0 then BitVec.allOnes 64 else a / b
def remSigned (a b : DWord) : DWord := if b = 0 then a else a.srem b
def remUnsigned (a b : DWord) : DWord := if b = 0 then a else a % b

/-- A shift count (R72). -/
def shiftCount (b : DWord) : Nat := b.toNat % 64

def leadingZeros (a : DWord) : Nat := ((List.range 64).takeWhile fun i => !a.getLsbD (63 - i)).length
def trailingZeros (a : DWord) : Nat := ((List.range 64).takeWhile fun i => !a.getLsbD i).length
def popCount (a : DWord) : Nat := ((List.range 64).filter fun i => a.getLsbD i).length

/-- R74: field(a, P, L). -/
def field (a : DWord) (p l : Nat) : DWord := BitVec.ofNat 64 (a.toNat / 2 ^ p % 2 ^ l)

/-- R74: BFXS of a field of `l` bits. -/
def fieldSigned (a : DWord) (p l : Nat) : DWord :=
  if l = 0 then 0 else BitVec.ofInt 64 (toSigned l (field a p l).toNat)

/-- R74: BFI; field bits past 63 are dropped. -/
def fieldInsert (t a : DWord) (p l : Nat) : DWord :=
  let mask : DWord := BitVec.ofNat 64 ((2 ^ l - 1) * 2 ^ p)
  (t &&& ~~~mask) ||| BitVec.ofNat 64 (a.toNat % 2 ^ l * 2 ^ p)

/-- R72: Does nothing in the S slot. -/
def opSnop (_bt : BitVec 2) (s : State) : OpRes := .done s
/-- R72: Integer add. -/
def opAdd (o : SReg) (s : State) : OpRes := s.alu o 1 (· + ·)
/-- R72: Integer subtract. -/
def opSub (o : SReg) (s : State) : OpRes := s.alu o 1 (· - ·)
/-- R72: Integer add of a signed immediate. -/
def opAddi (o : SImm) (s : State) : OpRes := s.aluImm o (· + ·)
/-- R72: Low 64 bits of a product. -/
def opMul (o : SReg) (s : State) : OpRes := s.alu o 3 (· * ·)
/-- R72: High 64 bits of a signed product. -/
def opMulhs (o : SReg) (s : State) : OpRes := s.alu o 3 mulHighSigned
/-- R72: High 64 bits of an unsigned product. -/
def opMulhn (o : SReg) (s : State) : OpRes := s.alu o 3 mulHighUnsigned
/-- R73: Signed quotient toward zero. -/
def opDivs (o : SReg) (s : State) : OpRes := s.alu o 20 divSigned
/-- R73: Unsigned quotient. -/
def opDivn (o : SReg) (s : State) : OpRes := s.alu o 20 divUnsigned
/-- R73: Signed remainder. -/
def opRems (o : SReg) (s : State) : OpRes := s.alu o 20 remSigned
/-- R73: Unsigned remainder. -/
def opRemn (o : SReg) (s : State) : OpRes := s.alu o 20 remUnsigned
/-- R72: Bitwise AND. -/
def opAnd (o : SReg) (s : State) : OpRes := s.alu o 1 (· &&& ·)
/-- R72: Bitwise OR. -/
def opOr (o : SReg) (s : State) : OpRes := s.alu o 1 (· ||| ·)
/-- R72: Bitwise XOR. -/
def opXor (o : SReg) (s : State) : OpRes := s.alu o 1 (· ^^^ ·)
/-- R72: a AND NOT b. -/
def opAndn (o : SReg) (s : State) : OpRes := s.alu o 1 fun a b => a &&& ~~~b
/-- R72: AND with a sign-extended immediate. -/
def opAndi (o : SImm) (s : State) : OpRes := s.aluImm o (· &&& ·)
/-- R72: OR with a sign-extended immediate. -/
def opOri (o : SImm) (s : State) : OpRes := s.aluImm o (· ||| ·)
/-- R72: XOR with a sign-extended immediate. -/
def opXori (o : SImm) (s : State) : OpRes := s.aluImm o (· ^^^ ·)
/-- R72: Shift left by b[5:0]. -/
def opShl (o : SReg) (s : State) : OpRes := s.alu o 1 fun a b => a <<< shiftCount b
/-- R72: Logical shift right by b[5:0]. -/
def opShr (o : SReg) (s : State) : OpRes := s.alu o 1 fun a b => a >>> shiftCount b
/-- R72: Arithmetic shift right by b[5:0]. -/
def opSar (o : SReg) (s : State) : OpRes := s.alu o 1 fun a b => a.sshiftRight (shiftCount b)
/-- R72: Shift left by an immediate. -/
def opShli (o : SShift) (s : State) : OpRes := s.setS o.d (s.me.readS o.a <<< o.i.toNat)
/-- R72: Logical shift right by an immediate. -/
def opShri (o : SShift) (s : State) : OpRes := s.setS o.d (s.me.readS o.a >>> o.i.toNat)
/-- R72: Arithmetic shift right by an immediate. -/
def opSari (o : SShift) (s : State) : OpRes := s.setS o.d ((s.me.readS o.a).sshiftRight o.i.toNat)
/-- R72: Rotate right by b[5:0]. -/
def opRor (o : SReg) (s : State) : OpRes := s.alu o 1 fun a b => a.rotateRight (shiftCount b)
/-- R72: Rotate right by an immediate. -/
def opRori (o : SShift) (s : State) : OpRes := s.setS o.d ((s.me.readS o.a).rotateRight o.i.toNat)
/-- R72: Counts leading zeros. -/
def opClz (o : SUnary) (s : State) : OpRes := s.setS o.d (BitVec.ofNat 64 (leadingZeros (s.me.readS o.a)))
/-- R72: Counts trailing zeros. -/
def opCtz (o : SUnary) (s : State) : OpRes := s.setS o.d (BitVec.ofNat 64 (trailingZeros (s.me.readS o.a)))
/-- R72: Counts one bits. -/
def opPopc (o : SUnary) (s : State) : OpRes := s.setS o.d (BitVec.ofNat 64 (popCount (s.me.readS o.a)))
/-- R74: Extracts a bit field, zero-extended. -/
def opBfx (o : SField) (s : State) : OpRes := s.setS o.d (field (s.me.readS o.a) o.p.toNat o.l.toNat)
/-- R74: Extracts a bit field, sign-extended. -/
def opBfxs (o : SField) (s : State) : OpRes := s.setS o.d (fieldSigned (s.me.readS o.a) o.p.toNat o.l.toNat)
/-- R74: Inserts a bit field into sd. -/
def opBfi (o : SField) (s : State) : OpRes :=
  s.setS o.d (fieldInsert (s.me.readS o.d) (s.me.readS o.a) o.p.toNat o.l.toNat)
/-- R74: Extracts a bit field with position and width from a register. -/
def opBfxv (_bt : BitVec 2) (d : BitVec 5) (a : BitVec 5) (b : BitVec 5) (x : BitVec 1) (s : State) : OpRes :=
  let sb := (s.me.readS b).toNat
  let p := sb % 64
  let l := min (bitsOf sb 8 7) 64
  s.setS d (if x = 1 then fieldSigned (s.me.readS a) p l else field (s.me.readS a) p l)
/-- R72: 1 if equal. -/
def opCeq (o : SReg) (s : State) : OpRes := s.alu o 1 fun a b => boolWord (a == b)
/-- R72: 1 if not equal. -/
def opCne (o : SReg) (s : State) : OpRes := s.alu o 1 fun a b => boolWord (a != b)
/-- R72: 1 if less, signed. -/
def opClt (o : SReg) (s : State) : OpRes := s.alu o 1 fun a b => boolWord (a.slt b)
/-- R72: 1 if less, unsigned. -/
def opCltn (o : SReg) (s : State) : OpRes := s.alu o 1 fun a b => boolWord (a.ult b)
/-- R72: 1 if less or equal, signed. -/
def opCle (o : SReg) (s : State) : OpRes := s.alu o 1 fun a b => boolWord (a.sle b)
/-- R72: 1 if less or equal, unsigned. -/
def opClen (o : SReg) (s : State) : OpRes := s.alu o 1 fun a b => boolWord (a.ule b)
/-- R72: 1 if equal to an immediate. -/
def opCeqi (o : SImm) (s : State) : OpRes := s.aluImm o fun a b => boolWord (a == b)
/-- R72: 1 if less than an immediate, signed. -/
def opClti (o : SImm) (s : State) : OpRes := s.aluImm o fun a b => boolWord (a.slt b)
/-- R75: Selects s[sa] or s[sb] by a q predicate. -/
def opSel (_bt : BitVec 2) (d : BitVec 5) (a : BitVec 5) (b : BitVec 5) (q : BitVec 3) (s : State) : OpRes :=
  s.setS d (if s.me.q[q.toNat] = 1 then s.me.readS a else s.me.readS b)
/-- R72: Signed minimum. -/
def opMin (o : SReg) (s : State) : OpRes := s.alu o 1 fun a b => if a.sle b then a else b
/-- R72: Signed maximum. -/
def opMax (o : SReg) (s : State) : OpRes := s.alu o 1 fun a b => if a.sle b then b else a
/-- R72: Unsigned minimum. -/
def opMinn (o : SReg) (s : State) : OpRes := s.alu o 1 fun a b => if a.ule b then a else b
/-- R72: Unsigned maximum. -/
def opMaxn (o : SReg) (s : State) : OpRes := s.alu o 1 fun a b => if a.ule b then b else a
/-- R76: Loads a sign-extended 12-bit immediate. -/
def opLi (_bt : BitVec 2) (d : BitVec 5) (i : BitVec 12) (s : State) : OpRes := s.setS d (imm i)
/-- R76: Loads a sign-extended 32-bit immediate from the extension word. -/
def opLiExt (_bt : BitVec 2) (d : BitVec 5) (x : Word) (s : State) : OpRes := s.setS d (x.signExtend 64)
/-- R76: Places a 32-bit extension value in the high half above s[sa][31:0]. -/
def opLih (_bt : BitVec 2) (d : BitVec 5) (a : BitVec 5) (x : Word) (s : State) : OpRes :=
  s.setS d (((s.me.readS a).setWidth 32).setWidth 64 ||| (x.setWidth 64 <<< 32))
/-- R77: Forms b[B] + s[sa] + (s[sb] << K). -/
def opAddr (_bt : BitVec 2) (d : BitVec 5) (a : BitVec 5) (b : BitVec 5) (k : BitVec 2) (r : BitVec 3) (s : State) : OpRes :=
  s.setS d ((s.me.b[r.toNat]).setWidth 64 + s.me.readS a + (s.me.readS b <<< k.toNat))
/-- SNOP issued by itself (R72). -/
def execSnop (_bt : BitVec 2) (s : State) : Result := s.solo 1 1 (opSnop _bt)
/-- ADD issued by itself (R72). -/
def execAdd (o : SReg) (s : State) : Result := s.solo 1 1 (opAdd o)
/-- SUB issued by itself (R72). -/
def execSub (o : SReg) (s : State) : Result := s.solo 1 1 (opSub o)
/-- ADDI issued by itself (R72). -/
def execAddi (o : SImm) (s : State) : Result := s.solo 1 1 (opAddi o)
/-- MUL issued by itself (R72). -/
def execMul (o : SReg) (s : State) : Result := s.solo 1 1 (opMul o)
/-- MULHS issued by itself (R72). -/
def execMulhs (o : SReg) (s : State) : Result := s.solo 1 1 (opMulhs o)
/-- MULHN issued by itself (R72). -/
def execMulhn (o : SReg) (s : State) : Result := s.solo 1 1 (opMulhn o)
/-- DIVS issued by itself (R73). -/
def execDivs (o : SReg) (s : State) : Result := s.solo 1 1 (opDivs o)
/-- DIVN issued by itself (R73). -/
def execDivn (o : SReg) (s : State) : Result := s.solo 1 1 (opDivn o)
/-- REMS issued by itself (R73). -/
def execRems (o : SReg) (s : State) : Result := s.solo 1 1 (opRems o)
/-- REMN issued by itself (R73). -/
def execRemn (o : SReg) (s : State) : Result := s.solo 1 1 (opRemn o)
/-- AND issued by itself (R72). -/
def execAnd (o : SReg) (s : State) : Result := s.solo 1 1 (opAnd o)
/-- OR issued by itself (R72). -/
def execOr (o : SReg) (s : State) : Result := s.solo 1 1 (opOr o)
/-- XOR issued by itself (R72). -/
def execXor (o : SReg) (s : State) : Result := s.solo 1 1 (opXor o)
/-- ANDN issued by itself (R72). -/
def execAndn (o : SReg) (s : State) : Result := s.solo 1 1 (opAndn o)
/-- ANDI issued by itself (R72). -/
def execAndi (o : SImm) (s : State) : Result := s.solo 1 1 (opAndi o)
/-- ORI issued by itself (R72). -/
def execOri (o : SImm) (s : State) : Result := s.solo 1 1 (opOri o)
/-- XORI issued by itself (R72). -/
def execXori (o : SImm) (s : State) : Result := s.solo 1 1 (opXori o)
/-- SHL issued by itself (R72). -/
def execShl (o : SReg) (s : State) : Result := s.solo 1 1 (opShl o)
/-- SHR issued by itself (R72). -/
def execShr (o : SReg) (s : State) : Result := s.solo 1 1 (opShr o)
/-- SAR issued by itself (R72). -/
def execSar (o : SReg) (s : State) : Result := s.solo 1 1 (opSar o)
/-- SHLI issued by itself (R72). -/
def execShli (o : SShift) (s : State) : Result := s.solo 1 1 (opShli o)
/-- SHRI issued by itself (R72). -/
def execShri (o : SShift) (s : State) : Result := s.solo 1 1 (opShri o)
/-- SARI issued by itself (R72). -/
def execSari (o : SShift) (s : State) : Result := s.solo 1 1 (opSari o)
/-- ROR issued by itself (R72). -/
def execRor (o : SReg) (s : State) : Result := s.solo 1 1 (opRor o)
/-- RORI issued by itself (R72). -/
def execRori (o : SShift) (s : State) : Result := s.solo 1 1 (opRori o)
/-- CLZ issued by itself (R72). -/
def execClz (o : SUnary) (s : State) : Result := s.solo 1 1 (opClz o)
/-- CTZ issued by itself (R72). -/
def execCtz (o : SUnary) (s : State) : Result := s.solo 1 1 (opCtz o)
/-- POPC issued by itself (R72). -/
def execPopc (o : SUnary) (s : State) : Result := s.solo 1 1 (opPopc o)
/-- BFX issued by itself (R74). -/
def execBfx (o : SField) (s : State) : Result := s.solo 1 1 (opBfx o)
/-- BFXS issued by itself (R74). -/
def execBfxs (o : SField) (s : State) : Result := s.solo 1 1 (opBfxs o)
/-- BFI issued by itself (R74). -/
def execBfi (o : SField) (s : State) : Result := s.solo 1 1 (opBfi o)
/-- BFXV issued by itself (R74). -/
def execBfxv (_bt : BitVec 2) (d : BitVec 5) (a : BitVec 5) (b : BitVec 5) (x : BitVec 1) (s : State) : Result := s.solo 1 1 (opBfxv _bt d a b x)
/-- CEQ issued by itself (R72). -/
def execCeq (o : SReg) (s : State) : Result := s.solo 1 1 (opCeq o)
/-- CNE issued by itself (R72). -/
def execCne (o : SReg) (s : State) : Result := s.solo 1 1 (opCne o)
/-- CLT issued by itself (R72). -/
def execClt (o : SReg) (s : State) : Result := s.solo 1 1 (opClt o)
/-- CLTN issued by itself (R72). -/
def execCltn (o : SReg) (s : State) : Result := s.solo 1 1 (opCltn o)
/-- CLE issued by itself (R72). -/
def execCle (o : SReg) (s : State) : Result := s.solo 1 1 (opCle o)
/-- CLEN issued by itself (R72). -/
def execClen (o : SReg) (s : State) : Result := s.solo 1 1 (opClen o)
/-- CEQI issued by itself (R72). -/
def execCeqi (o : SImm) (s : State) : Result := s.solo 1 1 (opCeqi o)
/-- CLTI issued by itself (R72). -/
def execClti (o : SImm) (s : State) : Result := s.solo 1 1 (opClti o)
/-- SEL issued by itself (R75). -/
def execSel (_bt : BitVec 2) (d : BitVec 5) (a : BitVec 5) (b : BitVec 5) (q : BitVec 3) (s : State) : Result := s.solo 1 1 (opSel _bt d a b q)
/-- MIN issued by itself (R72). -/
def execMin (o : SReg) (s : State) : Result := s.solo 1 1 (opMin o)
/-- MAX issued by itself (R72). -/
def execMax (o : SReg) (s : State) : Result := s.solo 1 1 (opMax o)
/-- MINN issued by itself (R72). -/
def execMinn (o : SReg) (s : State) : Result := s.solo 1 1 (opMinn o)
/-- MAXN issued by itself (R72). -/
def execMaxn (o : SReg) (s : State) : Result := s.solo 1 1 (opMaxn o)
/-- LI issued by itself (R76). -/
def execLi (_bt : BitVec 2) (d : BitVec 5) (i : BitVec 12) (s : State) : Result := s.solo 1 1 (opLi _bt d i)
/-- LI_EXT issued by itself (R76). -/
def execLiExt (_bt : BitVec 2) (d : BitVec 5) (x : Word) (s : State) : Result := s.solo 1 2 (opLiExt _bt d x)
/-- LIH issued by itself (R76). -/
def execLih (_bt : BitVec 2) (d : BitVec 5) (a : BitVec 5) (x : Word) (s : State) : Result := s.solo 1 2 (opLih _bt d a x)
/-- ADDR issued by itself (R77). -/
def execAddr (_bt : BitVec 2) (d : BitVec 5) (a : BitVec 5) (b : BitVec 5) (k : BitVec 2) (r : BitVec 3) (s : State) : Result := s.solo 1 1 (opAddr _bt d a b k r)

end Sys2Proof.Machine
end

