-- ==== Sys2Proof/Machine/Special.lean ====
section
/-! DEFINITION. The special functions (R140, R141). The spec fixes the results at NaN, infinities, zeros and outside a
domain, and bounds the others: within 2 or 64 ulp of the exact result in the fast grade, within 2^(1−N) in the accurate one
before one rounding. Here the exact result is computed to 480 binary places, and the written value is a free value
(`Config.special`) held inside that bound (notes/assumptions/1.md). -/

namespace Sys2Proof.Machine

namespace Special

/-- Binary places of the fixed-point numbers below. -/
def places : Nat := 480
def one : Int := (2 ^ places : Nat)
/-- π/2 and ln 2. -/
def halfPi : Int := 4903631156013654104835216594459417753999121174389642500969893891376420597345114094181205771426638395810007501500231852443806468116305670880520922
def ln2 : Int := 2163831206068626582013545711676841861948052748333448460576126764197453058704984291728498395082427418541825153072586431322543340688239788857703209

/-- Nearest integer to a / b, b positive. -/
def nearest (a b : Int) : Int := (2 * a + b) / (2 * b)

/-- A dyadic number in fixed point, rounded down. -/
def fixed (neg : Bool) (m : Nat) (e : Int) : Int :=
  let s := e + places
  let v : Int := if 0 ≤ s then (m * 2 ^ s.toNat : Nat) else (m / 2 ^ (-s).toNat : Nat)
  if neg then -v else v

/-- 1 + r/(k+1) (1 + r/(k+2) (…)), `n` terms: the exponential series from its end. -/
def expSeries (r : Int) : Nat → Nat → Int
  | 0, _ => one
  | n + 1, k => one + r * expSeries r n (k + 1) / one / (k + 1 : Nat)

/-- e^x for x in fixed point, |x| < 400: mantissa in fixed point and a power of two. -/
def expParts (x : Int) : Int × Int :=
  let k := nearest x ln2
  (expSeries (x - k * ln2) 100 0, k)

/-- e^x in fixed point, for x ≤ 0. -/
def expFixed (x : Int) : Int :=
  let (m, k) := expParts x
  m / (2 ^ (-k).toNat : Nat)

/-- Σ u^(2j+1)/(2j+1), `n` terms, with u² given. -/
def atanhSeries (u u2 : Int) : Nat → Nat → Int
  | 0, _ => 0
  | n + 1, k => u / (2 * k + 1 : Nat) + atanhSeries (u * u2 / one) u2 n (k + 1)

/-- ln of m × 2^e. -/
def ln (m : Nat) (e : Int) : Int :=
  let top : Int := m.log2
  let z0 := fixed false m (-top)
  let half := 3 * one < 2 * z0
  let z := if half then z0 / 2 else z0
  let k := if half then top + e + 1 else top + e
  let u := (z - one) * one / (z + one)
  k * ln2 + 2 * atanhSeries u (u * u / one) 110 0

/-- 1 − r²/((k+1)(k+2)) (1 − …): the cosine series with k = 0, the sine series over r with k = 1. -/
def trigSeries (r2 : Int) : Nat → Nat → Int
  | 0, _ => one
  | n + 1, k => one - r2 * trigSeries r2 n (k + 2) / one / ((k + 1) * (k + 2) : Nat)

/-- sin of x + quarters × π/2, x in fixed point with |x| < 2^130. -/
def sine (x : Int) (quarters : Int) : Int :=
  let q := nearest x halfPi
  let r := x - q * halfPi
  let r2 := r * r / one
  let s := r * trigSeries r2 50 1 / one
  let c := trigSeries r2 50 0
  match ((q + quarters) % 4).toNat with
  | 0 => s | 1 => c | 2 => -s | _ => -c

/-- Square root of a number below 2^(2n), digit by digit. -/
def isqrt (v : Nat) : Nat → Nat → Nat
  | 0, r => r
  | n + 1, r => let t := r + 2 ^ n; if t * t ≤ v then isqrt v n t else isqrt v n r

/-- A fixed-point number as a value; never zero, since no exact result here is. -/
def ofFixed (x : Int) (e : Int := 0) : FNum :=
  if x = 0 then .fin false 1 (-2000) else .fin (x < 0) x.natAbs (e - places)

/-- The exact result at a finite operand (−1)^neg × m × 2^e, m nonzero and inside the domain, to about 400 places of
relative precision. Function numbers are the V-slot opcodes less 0x29. -/
def exact (fn : Nat) (neg : Bool) (m : Nat) (e : Int) : FNum :=
  let x := fixed neg m e
  let big := 400 * one < x
  let small := x < -400 * one
  match fn with
  | 0 => if big then .fin false 1 2000 else if small then .fin false 1 (-2000) else
    let (v, k) := expParts x
    ofFixed v k
  | 1 => if m = 2 ^ m.log2 && e = -(m.log2 : Int) then .fin false 0 0 else ofFixed (ln m e)
  | 2 => .fin neg (2 ^ 960 / m) (-960 - e)
  | 3 =>
    let odd := e % 2
    .fin false (isqrt (2 ^ 1400 / (m * 2 ^ odd.toNat)) 720 0) (-700 - (e - odd) / 2)
  | 4 => ofFixed (sine x 0)
  | 5 => ofFixed (sine x 1)
  | 6 =>
    if big || small then .fin neg (2 ^ 480 - 1) (-480) else
    let t := expFixed (-2 * x.natAbs)
    let v := (one - t) * one / (one + t)
    ofFixed (if neg then -v else v)
  | _ =>
    if big then .fin false (2 ^ 480 - 1) (-480) else if small then .fin false 1 (-2000)
    else if neg then
      let (v, k) := expParts x
      let t := expFixed x
      ofFixed (v * one / (one + t)) k
    else ofFixed (one * one / (one + expFixed (-x)))

/-- R140: the results the table fixes; `none` where it does not. -/
def corner (fn : Nat) (x : FNum) : Option (FNum × Fl) :=
  let c1 : FNum := .fin false 1 0
  match fn, x with
  | _, .nan => some (.nan, Fl.none)
  | 0, .inf n => some (if n then .fin false 0 0 else .inf false, Fl.none)
  | 0, .fin _ 0 _ => some (c1, Fl.none)
  | 1, .inf n => some (if n then (.nan, Fl.nv) else (.inf false, Fl.none))
  | 1, .fin _ 0 _ => some (.inf true, Fl.none)
  | 1, .fin true _ _ => some (.nan, Fl.nv)
  | 2, .inf n => some (.fin n 0 0, Fl.none)
  | 2, .fin n 0 _ => some (.inf n, Fl.none)
  | 3, .inf n => some (if n then (.nan, Fl.nv) else (.fin false 0 0, Fl.none))
  | 3, .fin n 0 _ => some (.inf n, Fl.none)
  | 3, .fin true _ _ => some (.nan, Fl.nv)
  | 4, .inf _ => some (.nan, Fl.nv)
  | 4, .fin n 0 _ => some (.fin n 0 0, Fl.none)
  | 5, .inf _ => some (.nan, Fl.nv)
  | 5, .fin _ 0 _ => some (c1, Fl.none)
  | 6, .inf n => some (.fin n 1 0, Fl.none)
  | 6, .fin n 0 _ => some (.fin n 0 0, Fl.none)
  | 7, .inf n => some (.fin false (if n then 0 else 1) 0, Fl.none)
  | 7, .fin _ 0 _ => some (.fin false 1 (-1), Fl.none)
  | _, _ => none

/-- |a − b| ≤ n × 2^q. -/
def within (a b : FNum) (n : Nat) (q : Int) : Bool :=
  match a, b with
  | .fin s m e, .fin t k g =>
    let w := min (min e g) q
    decide ((signedAt s m e w - signedAt t k g w).natAbs ≤ n * 2 ^ (q - w).toNat)
  | _, _ => true

/-- R141, fast grade: a free written value within `ulps` of the exact one, subnormals flushed. -/
def fast (f : FloatFmt) (mode ulps free : Nat) (y : FNum) : Nat × Fl :=
  let (c, fl) := f.encode mode false true y
  match y with
  | .fin neg m e =>
    if m = 0 then (c, fl) else
    let top : Int := m.log2 + e
    let q := max top f.emin - f.mb
    let low := c % 2 ^ (f.eb + f.mb)
    let cand := low + free % (4 * ulps + 5) - (2 * ulps + 2)
    if cand < 2 ^ f.mb || f.infCode ≤ cand || f.infCode ≤ low || low = 0 then (c, fl)
    else if within (f.decode (f.signBit neg + cand)) y ulps q then (f.signBit neg + cand, fl)
    else (c, fl)
  | _ => (c, fl)

/-- R141, accurate grade: a free internal result within 2^(1−N) of the exact one, relative, or 2^−N absolute for sine and
cosine; rounded once. -/
def accurate (f : FloatFmt) (mode : Nat) (sub absolute : Bool) (n free : Nat) (y : FNum) : Nat × Fl :=
  match y with
  | .fin _ 0 _ => f.encode mode false sub y
  | .fin neg m e =>
    let d : Int := (free % (2 ^ 65 + 1) : Nat) - (2 ^ 64 : Nat)
    let off : FNum := if absolute then .fin (d < 0) d.natAbs (-64 - n) else .fin ((d < 0) != neg) (d.natAbs * m) (e - 63 - n)
    f.encode mode false sub (FNum.add mode y off).1
  | v => f.encode mode false sub v

/-- R140, R141: one lane. `iters` is 0 in the fast grade. DESIGN CHOICE (notes/assumptions/77.md): an overflow of VEXP gives +∞ with OF in every
rounding mode, as R140's table has it. -/
def lane (fn t mode : Nat) (sub : Bool) (iters x : Nat) : Nat × Fl :=
  match floatFmt t with
  | none => (0, Fl.none)
  | some f =>
    let flush := iters == 0 || sub
    let v := f.read flush x
    match corner fn v with
    | some (y, fl) => let (c, g) := f.encode mode false flush y; (c, fl ||| g)
    | none =>
      match v with
      | .fin neg m e =>
        let y := exact fn neg m e
        let free := Config.special fn iters t mode x
        let (c, fl) :=
          if iters == 0 then fast f mode (if t == 0 then 64 else 2) free y
          else accurate f mode sub (fn == 4 || fn == 5) iters free y
        if fn == 0 && fl == Fl.of_ then (f.infCode, fl) else (c, fl)
      | _ => (f.nan, Fl.none)

end Special

end Sys2Proof.Machine
end

