-- ==== Sys2Proof/Machine/Vector.lean ====
section
/-! DEFINITION. Lane arithmetic, bitwise operations, compares, moves, reductions, conversions, special functions and
predicates (R104 to R111, R119 to R131, R137 to R142). -/

namespace Sys2Proof.Machine

/-- The width of a W field, in bits. -/
def widthBits (w : BitVec 2) : Nat := 256 * 2 ^ w.toNat

/-- Lanes of an operation (R119). -/
def laneCount (w : BitVec 2) (t : Nat) : Nat := widthBits w / elemBits t

/-- Writes each active lane below `n` with what `f` gives, `db` bits a lane, with the flags the lanes raise (R119, R120). -/
def State.eachLane (s : State) (d : BitVec 5) (k : BitVec 3) (n db lat : Nat) (f : Nat → Nat × Fl) : OpRes :=
  let c := s.me
  let rs := (activeLanes (c.readK k) n).map fun i => (i, f i)
  let v := setLanes c.v[d.toNat] db (rs.map fun r => (r.1, r.2.1))
  .done (s.pushFlags lat [.v d v] (rs.map fun r => r.2.2))

/-! ### R124, R125 -/

inductive ArithOp where
  | add | sub | mul | fma | fms | min | max | abs | neg | clamp
  deriving DecidableEq, Repr

/-- R125: a floating-point lane's exact result. -/
def ArithOp.num (o : ArithOp) (mode : Nat) (a b d : FNum) : FNum × Fl :=
  match o with
  | .add => FNum.add mode a b
  | .sub => FNum.add mode a b.neg
  | .mul => FNum.mul a b
  | .fma => FNum.fma mode a b d false
  | .fms => FNum.fma mode a b d true
  | .min => (FNum.extreme false a b, Fl.none)
  | .max => (FNum.extreme true a b, Fl.none)
  | .abs => (if a.isNeg then a.neg else a, Fl.none)
  | .neg => (a.neg, Fl.none)
  | .clamp => (FNum.extreme false (FNum.extreme true d a) b, Fl.none)

/-- R124: an integer lane's exact result. -/
def ArithOp.int (o : ArithOp) (a b d : Int) : Int :=
  match o with
  | .add => a + b
  | .sub => a - b
  | .mul => a * b
  | .fma => a * b + d
  | .fms => d - a * b
  | .min => Min.min a b
  | .max => Max.max a b
  | .abs => a.natAbs
  | .neg => -a
  | .clamp => Min.min (Max.max d a) b

/-- R125: whether a floating-point result is rounded: VMIN to VCLAMP only choose or change a sign, and SAT has no effect. -/
def ArithOp.rounds : ArithOp → Bool
  | .add | .sub | .mul | .fma | .fms => true
  | _ => false

/-- R124: one lane. -/
def arithLane (o : ArithOp) (t mode : Nat) (sat sub : Bool) (a b d : Nat) : Nat × Fl :=
  match floatFmt t with
  | some f =>
    let (r, fl) := o.num mode (f.read sub a) (f.read sub b) (f.read sub d)
    let (c, g) := f.round mode (sat && o.rounds) sub r
    (c, fl ||| g)
  | none =>
    let r := o.int (intValue t a) (intValue t b) (intValue t d)
    if sat then clampInt t r else (ofSigned (elemBits t) r, Fl.none)

/-- R122. -/
def ArithOp.latency (o : ArithOp) (t : Nat) : Nat :=
  if o.rounds then (if (floatFmt t).isSome then 4 else if o == .add || o == .sub then 2 else 3) else 2

/-- R124, with SAT and the mode of the ARITH word where there is one. -/
def State.arith (s : State) (op : ArithOp) (y : BitVec 3) (d a b : BitVec 5) (w : BitVec 2) (k : BitVec 3) (sat : Bool)
    (mode : Nat) : OpRes :=
  let c := s.me
  let t := y.toNat
  let eb := elemBits t
  s.eachLane d k (laneCount w t) eb (op.latency t) fun i =>
    arithLane op t mode sat c.sub (lane c.v[a.toNat] eb i) (lane c.v[b.toNat] eb i) (lane c.v[d.toNat] eb i)

def State.vbin (s : State) (op : ArithOp) (o : VBin) : OpRes :=
  s.arith op o.y o.d o.a o.b o.w o.k false s.me.ctl.rnd.toNat
def State.vbinX (s : State) (op : ArithOp) (o : VBin) (x : ArithX) : OpRes :=
  s.arith op o.y o.d o.a o.b o.w o.k (x.sat == 1) (s.me.rounding x.rmo)
def State.vun (s : State) (op : ArithOp) (o : VUnary) (sat : Bool) : OpRes :=
  s.arith op o.y o.d o.a o.a o.w o.k sat s.me.ctl.rnd.toNat

/-- R35: Issues nothing and idles the vector slot's sticky record. -/
def opVnop (_bt : BitVec 2) (s : State) : OpRes := .done s
/-- R124: Lane add. -/
def opVadd (o : VBin) (s : State) : OpRes := s.vbin .add o
/-- R124: Lane add with the ARITH extension word. -/
def opVaddArith (o : VBin) (x : ArithX) (s : State) : OpRes := s.vbinX .add o x
/-- R124: Lane subtract. -/
def opVsub (o : VBin) (s : State) : OpRes := s.vbin .sub o
/-- R124: Lane subtract with the ARITH extension word. -/
def opVsubArith (o : VBin) (x : ArithX) (s : State) : OpRes := s.vbinX .sub o x
/-- R124: Lane multiply. -/
def opVmul (o : VBin) (s : State) : OpRes := s.vbin .mul o
/-- R124: Lane multiply with the ARITH extension word. -/
def opVmulArith (o : VBin) (x : ArithX) (s : State) : OpRes := s.vbinX .mul o x
/-- R124: Lane fused multiply-add. -/
def opVfma (o : VBin) (s : State) : OpRes := s.vbin .fma o
/-- R124: Lane fused multiply-add with the ARITH extension word. -/
def opVfmaArith (o : VBin) (x : ArithX) (s : State) : OpRes := s.vbinX .fma o x
/-- R124: Lane fused multiply-subtract. -/
def opVfms (o : VBin) (s : State) : OpRes := s.vbin .fms o
/-- R124: Lane fused multiply-subtract with the ARITH extension word. -/
def opVfmsArith (o : VBin) (x : ArithX) (s : State) : OpRes := s.vbinX .fms o x
/-- R124: Lane minimum. -/
def opVmin (o : VBin) (s : State) : OpRes := s.vbin .min o
/-- R124: Lane maximum. -/
def opVmax (o : VBin) (s : State) : OpRes := s.vbin .max o
/-- R124: Lane absolute value. -/
def opVabs (o : VUnary) (s : State) : OpRes := s.vun .abs o false
/-- R124: Lane absolute value with the ARITH word for SAT. -/
def opVabsArith (o : VUnary) (sat : BitVec 1) (s : State) : OpRes := s.vun .abs o (sat == 1)
/-- R124: Lane negation. -/
def opVneg (o : VUnary) (s : State) : OpRes := s.vun .neg o false
/-- R124: Lane negation with the ARITH word for SAT. -/
def opVnegArith (o : VUnary) (sat : BitVec 1) (s : State) : OpRes := s.vun .neg o (sat == 1)
/-- R124: Clamps each lane of vd between va and vb. -/
def opVclamp (o : VBin) (s : State) : OpRes := s.vbin .clamp o

/-! ### R126 -/

/-- A lane operation on patterns, of latency 2. -/
def State.bitwise (s : State) (o : VBin) (f : Nat → Nat → Nat → Nat) : OpRes :=
  let c := s.me
  let eb := elemBits o.y.toNat
  s.eachLane o.d o.k (laneCount o.w o.y.toNat) eb 2 fun i =>
    (f eb (lane c.v[o.a.toNat] eb i) (lane c.v[o.b.toNat] eb i), Fl.none)

/-- R126: shifts of an eb-bit lane by an unsigned count. -/
def shiftLeft (eb a c : Nat) : Nat := if eb ≤ c then 0 else a * 2 ^ c % 2 ^ eb
def shiftRight (eb a c : Nat) : Nat := if eb ≤ c then 0 else a / 2 ^ c
def shiftArith (eb a c : Nat) : Nat :=
  let v := toSigned eb a
  if eb ≤ c then (if v < 0 then 2 ^ eb - 1 else 0) else ofSigned eb (v / (2 ^ c : Nat))

/-- R126: Lane bitwise AND. -/
def opVand (o : VBin) (s : State) : OpRes := s.bitwise o fun _ a b => a &&& b
/-- R126: Lane bitwise OR. -/
def opVor (o : VBin) (s : State) : OpRes := s.bitwise o fun _ a b => a ||| b
/-- R126: Lane bitwise XOR. -/
def opVxor (o : VBin) (s : State) : OpRes := s.bitwise o fun _ a b => a ^^^ b
/-- R126: Lane shift left. -/
def opVshl (o : VBin) (s : State) : OpRes := s.bitwise o shiftLeft
/-- R126: Lane logical shift right. -/
def opVshr (o : VBin) (s : State) : OpRes := s.bitwise o shiftRight
/-- R126: Lane arithmetic shift right. -/
def opVsar (o : VBin) (s : State) : OpRes := s.bitwise o shiftArith

/-! ### R127, R128 -/

/-- R127: bit i of the destination for each active lane, every other bit 0. -/
def State.compareLanes (s : State) (o : VCmp) (test : Option Ordering → Bool) : OpRes :=
  let c := s.me
  let t := o.y.toNat
  let eb := elemBits t
  let on := (activeLanes (c.readK o.k) (laneCount o.w t)).filter fun i =>
    test (FNum.cmp (laneNum t c.sub (lane c.v[o.a.toNat] eb i)) (laneNum t c.sub (lane c.v[o.b.toNat] eb i)))
  .done (s.setMe (c.push 2 [.k o.d (on.foldl (fun p i => p ||| (1#128 <<< i)) 0)]))

/-- R127: Lane equality compare into a predicate. -/
def opVceq (o : VCmp) (s : State) : OpRes := s.compareLanes o (· == some .eq)
/-- R127: Lane less-than compare into a predicate. -/
def opVclt (o : VCmp) (s : State) : OpRes := s.compareLanes o (· == some .lt)
/-- R127: Lane less-or-equal compare into a predicate. -/
def opVcle (o : VCmp) (s : State) : OpRes := s.compareLanes o fun r => r == some .lt || r == some .eq
/-- R127: Lane unordered compare into a predicate. -/
def opVcun (o : VCmp) (s : State) : OpRes := s.compareLanes o (· == none)

/-- R128: k selects, and governs no lane. -/
def opVsel (o : VBin) (s : State) : OpRes :=
  let c := s.me
  let eb := elemBits o.y.toNat
  let p := c.readK o.k
  s.eachLane o.d 0 (laneCount o.w o.y.toNat) eb 2 fun i =>
    (if p.getLsbD i then lane c.v[o.a.toNat] eb i else lane c.v[o.b.toNat] eb i, Fl.none)

/-! ### Conversions (R104 to R111) -/

/-- R105. -/
def opVcvt (o : VUnary0) (x : CvtX) (s : State) : OpRes :=
  let c := s.me
  let src := x.src.toNat
  let dst := x.dst.toNat
  let sb := elemBits src
  let db := elemBits dst
  s.eachLane o.d o.k (widthBits o.w / max sb db) db 3 fun i =>
    convert dst (c.rounding x.rmo) (x.sat == 1) c.sub (laneNum src c.sub (lane c.v[o.a.toNat] sb i))

/-- The lanes of `n` elements of `b` bits put at the bottom of a register. -/
def packInto (r : VReg) (b : Nat) (xs : List Nat) : VReg := setLanes r b (xs.zipIdx.map fun (x, i) => (i, x))

/-- R107: lanes of va into blocks of 32 elements; the codes and, by block, the scale bytes and flags. Where vd is vb, the bytes that R106
gives to both are free values. DESIGN CHOICE (notes/assumptions/50.md): the NV event of a block counts its 32 lanes; no element is flushed
under MODE.SUB. -/
def State.mxEncodeLanes (s : State) (o : VBlock) (src dst mode : Nat) (f : FloatFmt) : OpRes :=
  let c := s.me
  let sb := elemBits src
  let n := 1024 / sb
  let xs := (List.range n).map fun i => laneNum src c.sub (lane c.v[o.a.toNat] sb i)
  let blocks := (List.range (n / 32)).map fun j => mxEncode f mode ((xs.drop (32 * j)).take 32)
  let codes := blocks.flatMap fun b => b.2.1
  let coded := packInto c.v[o.d.toNat] (elemBits dst) codes
  let fls := blocks.flatMap fun b => List.replicate 32 b.2.2
  if o.d == o.b then
    let mixed := (List.range blocks.length).map fun i => (Config.mixedByte s.free i).toNat
    .done (s.pushFlags 6 [.v o.d (packInto coded 8 mixed)] fls).takeFree
  else .done (s.pushFlags 6 [.v o.d coded, .v o.b (packInto c.v[o.b.toNat] 8 (blocks.map (·.1)))] fls)

/-- R108. DESIGN CHOICE (notes/assumptions/50.md): no result is flushed under MODE.SUB, which R99 names and R108's exactness excludes; a value
beyond the destination gives R103's result in the mode, with no flag. -/
def State.mxDecodeLanes (s : State) (o : VBlock) (src dst mode : Nat) (f : FloatFmt) : OpRes :=
  let c := s.me
  let db := elemBits dst
  let n := 1024 / db
  let xs := (List.range n).map fun i =>
    (convert dst mode false false
      (mxValue f (lane c.v[o.b.toNat] 8 (i / 32)) (lane c.v[o.a.toNat] (elemBits src) i))).1
  .done (s.pushFlags 6 [.v o.d (packInto c.v[o.d.toNat] db xs)] [])

/-- R106: the first element of a GQ4 half block. -/
def halfBase (x : CvtBX) : Nat := 32 * x.h.toNat

/-- R109. DESIGN CHOICE (notes/assumptions/76.md): where the superblock scale is no number to use, NV is counted in every lane. -/
def State.gqEncodeLanes (s : State) (o : VBlock) (x : CvtBX) : OpRes :=
  let c := s.me
  let src := x.src.toNat
  let sb := elemBits src
  let vb := c.v[o.b.toNat]
  let rs := (List.range (1024 / sb)).map fun i =>
    (halfBase x + i, gqEncode (lane vb 32 1) (lane vb 8 0) (laneNum src c.sub (lane c.v[o.a.toNat] sb i)))
  .done (s.pushFlags 6 [.v o.d (setLanes c.v[o.d.toNat] 4 (rs.map fun r => (r.1, r.2.1)))] (rs.map (·.2.2)))

/-- R110. -/
def State.gqDecodeLanes (s : State) (o : VBlock) (x : CvtBX) : OpRes :=
  let c := s.me
  let dst := x.dst.toNat
  let db := elemBits dst
  let vb := c.v[o.b.toNat]
  let scale := Fmt.f32.read c.sub (lane vb 32 1)
  let rs := (List.range (1024 / db)).map fun i =>
    convert dst (c.rounding x.rmo) false c.sub
      (gqValue scale (lane vb 8 0) (lane c.v[o.a.toNat] 4 (halfBase x + i)))
  .done (s.pushFlags 6 [.v o.d (packInto c.v[o.d.toNat] db (rs.map (·.1)))] (rs.map (·.2)))

/-- R106: the legal pairs; decoding admits no other. -/
def opVcvtb (o : VBlock) (x : CvtBX) (s : State) : OpRes :=
  let src := x.src.toNat
  let dst := x.dst.toNat
  let mode := s.me.rounding x.rmo
  if dst == 13 then s.gqEncodeLanes o x
  else if src == 13 then s.gqDecodeLanes o x
  else if 10 ≤ dst then s.mxEncodeLanes o src dst mode ((floatFmt dst).getD Fmt.e4m3)
  else s.mxDecodeLanes o src dst mode ((floatFmt src).getD Fmt.e4m3)

/-- R111: the rounding right shift. -/
def roundShift (x : Int) (sh : Nat) : Int := if sh = 0 then x else (x + (2 ^ (sh - 1) : Nat)) / (2 ^ sh : Nat)

/-- R111: Narrows integer lanes with rounding shift and saturation. -/
def opVpack (o : VUnary) (dst : BitVec 5) (sh : BitVec 5) (s : State) : OpRes :=
  let c := s.me
  let src := o.y.toNat
  let sb := elemBits src
  s.eachLane o.d o.k (widthBits o.w / sb) (elemBits dst.toNat) 2 fun i =>
    clampInt dst.toNat (roundShift (intValue src (lane c.v[o.a.toNat] sb i)) sh.toNat)

/-- R111: Widens narrow integers or rule codes. -/
def opVunpk (o : VUnary) (src : BitVec 5) (s : State) : OpRes :=
  let c := s.me
  let dst := o.y.toNat
  let db := elemBits dst
  s.eachLane o.d o.k (widthBits o.w / db) db 2 fun i =>
    clampInt dst (intValue src.toNat (lane c.v[o.a.toNat] (elemBits src.toNat) i))

/-! ### Shuffles (R136 to R139) -/

/-- R137: the lane that byte `c` of a bank selects. -/
def shuffled (va vb : VReg) (eb n c : Nat) : Nat :=
  let j := c % 128
  if 128 ≤ c then 0 else if j < n then lane va eb j else if j < 2 * n then lane vb eb (j - n) else 0

/-- R137: Shuffles lanes by a front-bank pattern. -/
def opVshuf (o : VBin) (e : BitVec 6) (s : State) : OpRes :=
  let c := s.me
  let eb := elemBits o.y.toNat
  let n := laneCount o.w o.y.toNat
  s.eachLane o.d o.k n eb 3 fun i =>
    (shuffled c.v[o.a.toNat] c.v[o.b.toNat] eb n (lane c.patFront[e.toNat] 8 i), Fl.none)

/-! ### Reductions (R130, R131) -/

/-- One level of the pairwise tree; `none` is ABSENT. -/
def treeLevel (node : Nat → Nat → Nat × Fl) : List (Option Nat) → List (Option Nat) × List Fl
  | a :: b :: xs =>
    let (r, fl) := match a, b with
      | some p, some q => let (v, f) := node p q; (some v, [f])
      | some p, none => (some p, [])
      | none, q => (q, [])
    let (rest, fls) := treeLevel node xs
    (r :: rest, fl ++ fls)
  | xs => (xs, [])

def treeReduce (node : Nat → Nat → Nat × Fl) : Nat → List (Option Nat) → Option Nat × List Fl
  | 0, xs => ((xs.head?).getD none, [])
  | fuel + 1, xs =>
    let (ys, f) := treeLevel node xs
    let (r, g) := treeReduce node fuel ys
    (r, f ++ g)

/-- R131: a reduction's lane 0 and its flags. -/
def reduceLanes (op : ArithOp) (t mode : Nat) (sat sub : Bool) (n : Nat) (p : Pred) (v : VReg) : Nat × Fl :=
  let eb := elemBits t
  match floatFmt t with
  | some f =>
    let xs := (List.range n).map fun i =>
      if p.getLsbD i then some (Fmt.f32.encode mode false false (f.read sub (lane v eb i))).1 else none
    let (r, fl) := treeReduce (fun a b => arithLane op 0 mode sat sub a b 0) n.log2 xs
    match r with
    | none => ((f.encode mode false false (if op == .add then .fin false 0 0 else .inf (op == .max))).1, Fl.none)
    | some x =>
      let (c, g) := f.round mode sat sub (Fmt.f32.read sub x)
      (c, anyFlag (g :: fl))
  | none =>
    let ys := (activeLanes p n).map fun i => intValue t (lane v eb i)
    match op with
    | .add =>
      let r := ys.foldl (· + ·) 0
      if sat then clampInt t r else (ofSigned eb r, Fl.none)
    | .max => (ofSigned eb (ys.foldl max (intMin t)), Fl.none)
    | _ => (ofSigned eb (ys.foldl min (intMax t)), Fl.none)

/-- R131. DESIGN CHOICE (notes/assumptions/78.md): a flag that the tree raises, at one node or at several, is counted once (R101). -/
def State.reduce (s : State) (op : ArithOp) (o : VUnary) (sat : Bool) (mode : Nat) : OpRes :=
  let c := s.me
  let t := o.y.toNat
  let n := laneCount o.w t
  let (r, fl) := reduceLanes op t mode sat c.sub n (c.readK o.k) c.v[o.a.toNat]
  .done (s.pushFlags (4 + n.log2) [.v o.d (setLane c.v[o.d.toNat] (elemBits t) 0 r)] [fl])

/-- R131: Pairwise tree sum of active lanes into lane 0. -/
def opVradd (o : VUnary) (s : State) : OpRes := s.reduce .add o false s.me.ctl.rnd.toNat
/-- R131: Tree sum with the ARITH extension word. -/
def opVraddArith (o : VUnary) (x : ArithX) (s : State) : OpRes := s.reduce .add o (x.sat == 1) (s.me.rounding x.rmo)
/-- R131: Maximum of active lanes into lane 0. -/
def opVrmax (o : VUnary) (s : State) : OpRes := s.reduce .max o false s.me.ctl.rnd.toNat
/-- R131: Minimum of active lanes into lane 0. -/
def opVrmin (o : VUnary) (s : State) : OpRes := s.reduce .min o false s.me.ctl.rnd.toNat

/-! ### R129 -/

/-- R129: Broadcasts a vector lane or scalar to every lane. -/
def opVbcast (o : VUnary) (src : BitVec 1) (l : BitVec 7) (s : State) : OpRes :=
  let c := s.me
  let eb := elemBits o.y.toNat
  let x := if src = 0 then lane c.v[o.a.toNat] eb l.toNat else (c.readS o.a).toNat % 2 ^ eb
  s.eachLane o.d o.k (laneCount o.w o.y.toNat) eb 2 fun _ => (x, Fl.none)

/-- R129: Extracts one lane into a scalar register. -/
def opVext (_bt : BitVec 2) (y : BitVec 3) (d : BitVec 5) (a : BitVec 5) (_w : BitVec 2) (l : BitVec 7) (s : State) : OpRes :=
  let c := s.me
  let t := y.toNat
  let x := intValue t (lane c.v[a.toNat] (elemBits t) l.toNat)
  let v := if isSignedInt t then BitVec.ofInt 64 x else BitVec.ofNat 64 (lane c.v[a.toNat] (elemBits t) l.toNat)
  .done (s.setMe (c.push 3 (c.sWrite d v)))

/-- R129: Writes each lane's index. -/
def opVidx (_bt : BitVec 2) (y : BitVec 3) (d : BitVec 5) (w : BitVec 2) (k : BitVec 3) (s : State) : OpRes :=
  let t := y.toNat
  s.eachLane d k (laneCount w t) (elemBits t) 2 fun i => ((convert t 0 false false (.fin false i 0)).1, Fl.none)

/-- R129: Copies lanes bit for bit. -/
def opVmov (o : VUnary) (s : State) : OpRes :=
  let c := s.me
  let eb := elemBits o.y.toNat
  s.eachLane o.d o.k (laneCount o.w o.y.toNat) eb 2 fun i => (lane c.v[o.a.toNat] eb i, Fl.none)

/-! ### Special functions (R140, R141) -/

/-- `fn` is the opcode less 0x29; `iters` is 0 in the fast grade. -/
def State.special (s : State) (fn : Nat) (o : VSpecial) (iters : Nat) : OpRes :=
  let c := s.me
  let t := o.y.toNat
  let eb := elemBits t
  s.eachLane o.d o.k (laneCount o.w t) eb (if iters = 0 then 4 else 3 + (iters + 1) / 2) fun i =>
    Special.lane fn t c.ctl.rnd.toNat c.sub iters (lane c.v[o.a.toNat] eb i)

/-- R140: Fast-grade e^x. -/
def opVexp (o : VSpecial) (s : State) : OpRes := s.special 0 o 0
/-- R140: Accurate-grade e^x with the ITER word. -/
def opVexpAccurate (o : VSpecial) (n : BitVec 6) (s : State) : OpRes := s.special 0 o n.toNat
/-- R140: Fast-grade natural logarithm. -/
def opVlog (o : VSpecial) (s : State) : OpRes := s.special 1 o 0
/-- R140: Accurate-grade natural logarithm. -/
def opVlogAccurate (o : VSpecial) (n : BitVec 6) (s : State) : OpRes := s.special 1 o n.toNat
/-- R140: Fast-grade reciprocal. -/
def opVrcp (o : VSpecial) (s : State) : OpRes := s.special 2 o 0
/-- R140: Accurate-grade reciprocal. -/
def opVrcpAccurate (o : VSpecial) (n : BitVec 6) (s : State) : OpRes := s.special 2 o n.toNat
/-- R140: Fast-grade reciprocal square root. -/
def opVrsq (o : VSpecial) (s : State) : OpRes := s.special 3 o 0
/-- R140: Accurate-grade reciprocal square root. -/
def opVrsqAccurate (o : VSpecial) (n : BitVec 6) (s : State) : OpRes := s.special 3 o n.toNat
/-- R140: Fast-grade sine. -/
def opVsin (o : VSpecial) (s : State) : OpRes := s.special 4 o 0
/-- R140: Accurate-grade sine. -/
def opVsinAccurate (o : VSpecial) (n : BitVec 6) (s : State) : OpRes := s.special 4 o n.toNat
/-- R140: Fast-grade cosine. -/
def opVcos (o : VSpecial) (s : State) : OpRes := s.special 5 o 0
/-- R140: Accurate-grade cosine. -/
def opVcosAccurate (o : VSpecial) (n : BitVec 6) (s : State) : OpRes := s.special 5 o n.toNat
/-- R140: Fast-grade tanh. -/
def opVtanh (o : VSpecial) (s : State) : OpRes := s.special 6 o 0
/-- R140: Accurate-grade tanh. -/
def opVtanhAccurate (o : VSpecial) (n : BitVec 6) (s : State) : OpRes := s.special 6 o n.toNat
/-- R140: Fast-grade logistic function. -/
def opVlgst (o : VSpecial) (s : State) : OpRes := s.special 7 o 0
/-- R140: Accurate-grade logistic function. -/
def opVlgstAccurate (o : VSpecial) (n : BitVec 6) (s : State) : OpRes := s.special 7 o n.toNat

/-! ### Predicates (R142) -/

/-- A predicate result, of latency 1. -/
def State.setK (s : State) (d : BitVec 3) (p : Pred) : OpRes := .done (s.updMe fun k => k.push 1 [.k d p])

/-- R142: Predicate AND. -/
def opKand (_bt : BitVec 2) (d : BitVec 3) (a : BitVec 3) (b : BitVec 3) (s : State) : OpRes :=
  s.setK d (s.me.readK a &&& s.me.readK b)
/-- R142: Predicate OR. -/
def opKor (_bt : BitVec 2) (d : BitVec 3) (a : BitVec 3) (b : BitVec 3) (s : State) : OpRes :=
  s.setK d (s.me.readK a ||| s.me.readK b)
/-- R142: Predicate XOR. -/
def opKxor (_bt : BitVec 2) (d : BitVec 3) (a : BitVec 3) (b : BitVec 3) (s : State) : OpRes :=
  s.setK d (s.me.readK a ^^^ s.me.readK b)
/-- R142: Predicate NOT. -/
def opKnot (_bt : BitVec 2) (d : BitVec 3) (a : BitVec 3) (s : State) : OpRes := s.setK d (~~~s.me.readK a)
/-- R142: Sets the low min(s[va], 128) predicate bits. -/
def opKset (_bt : BitVec 2) (d : BitVec 3) (a : BitVec 5) (s : State) : OpRes :=
  s.setK d (BitVec.ofNat 128 (2 ^ min (s.me.readS a).toNat 128 - 1))
/-- VNOP issued by itself (R35). -/
def execVnop (_bt : BitVec 2) (s : State) : Result := s.solo 2 1 (opVnop _bt)
/-- VADD issued by itself (R124). -/
def execVadd (o : VBin) (s : State) : Result := s.solo 2 1 (opVadd o)
/-- VADD_ARITH issued by itself (R124). -/
def execVaddArith (o : VBin) (x : ArithX) (s : State) : Result := s.solo 2 2 (opVaddArith o x)
/-- VSUB issued by itself (R124). -/
def execVsub (o : VBin) (s : State) : Result := s.solo 2 1 (opVsub o)
/-- VSUB_ARITH issued by itself (R124). -/
def execVsubArith (o : VBin) (x : ArithX) (s : State) : Result := s.solo 2 2 (opVsubArith o x)
/-- VMUL issued by itself (R124). -/
def execVmul (o : VBin) (s : State) : Result := s.solo 2 1 (opVmul o)
/-- VMUL_ARITH issued by itself (R124). -/
def execVmulArith (o : VBin) (x : ArithX) (s : State) : Result := s.solo 2 2 (opVmulArith o x)
/-- VFMA issued by itself (R124). -/
def execVfma (o : VBin) (s : State) : Result := s.solo 2 1 (opVfma o)
/-- VFMA_ARITH issued by itself (R124). -/
def execVfmaArith (o : VBin) (x : ArithX) (s : State) : Result := s.solo 2 2 (opVfmaArith o x)
/-- VFMS issued by itself (R124). -/
def execVfms (o : VBin) (s : State) : Result := s.solo 2 1 (opVfms o)
/-- VFMS_ARITH issued by itself (R124). -/
def execVfmsArith (o : VBin) (x : ArithX) (s : State) : Result := s.solo 2 2 (opVfmsArith o x)
/-- VMIN issued by itself (R124). -/
def execVmin (o : VBin) (s : State) : Result := s.solo 2 1 (opVmin o)
/-- VMAX issued by itself (R124). -/
def execVmax (o : VBin) (s : State) : Result := s.solo 2 1 (opVmax o)
/-- VABS issued by itself (R124). -/
def execVabs (o : VUnary) (s : State) : Result := s.solo 2 1 (opVabs o)
/-- VABS_ARITH issued by itself (R124). -/
def execVabsArith (o : VUnary) (sat : BitVec 1) (s : State) : Result := s.solo 2 2 (opVabsArith o sat)
/-- VNEG issued by itself (R124). -/
def execVneg (o : VUnary) (s : State) : Result := s.solo 2 1 (opVneg o)
/-- VNEG_ARITH issued by itself (R124). -/
def execVnegArith (o : VUnary) (sat : BitVec 1) (s : State) : Result := s.solo 2 2 (opVnegArith o sat)
/-- VCLAMP issued by itself (R124). -/
def execVclamp (o : VBin) (s : State) : Result := s.solo 2 1 (opVclamp o)
/-- VAND issued by itself (R126). -/
def execVand (o : VBin) (s : State) : Result := s.solo 2 1 (opVand o)
/-- VOR issued by itself (R126). -/
def execVor (o : VBin) (s : State) : Result := s.solo 2 1 (opVor o)
/-- VXOR issued by itself (R126). -/
def execVxor (o : VBin) (s : State) : Result := s.solo 2 1 (opVxor o)
/-- VSHL issued by itself (R126). -/
def execVshl (o : VBin) (s : State) : Result := s.solo 2 1 (opVshl o)
/-- VSHR issued by itself (R126). -/
def execVshr (o : VBin) (s : State) : Result := s.solo 2 1 (opVshr o)
/-- VSAR issued by itself (R126). -/
def execVsar (o : VBin) (s : State) : Result := s.solo 2 1 (opVsar o)
/-- VCEQ issued by itself (R127). -/
def execVceq (o : VCmp) (s : State) : Result := s.solo 2 1 (opVceq o)
/-- VCLT issued by itself (R127). -/
def execVclt (o : VCmp) (s : State) : Result := s.solo 2 1 (opVclt o)
/-- VCLE issued by itself (R127). -/
def execVcle (o : VCmp) (s : State) : Result := s.solo 2 1 (opVcle o)
/-- VCUN issued by itself (R127). -/
def execVcun (o : VCmp) (s : State) : Result := s.solo 2 1 (opVcun o)
/-- VSEL issued by itself (R128). -/
def execVsel (o : VBin) (s : State) : Result := s.solo 2 1 (opVsel o)
/-- VCVT issued by itself (R104). -/
def execVcvt (o : VUnary0) (x : CvtX) (s : State) : Result := s.solo 2 2 (opVcvt o x)
/-- VCVTB issued by itself (R106). -/
def execVcvtb (o : VBlock) (x : CvtBX) (s : State) : Result := s.solo 2 2 (opVcvtb o x)
/-- VPACK issued by itself (R111). -/
def execVpack (o : VUnary) (dst : BitVec 5) (sh : BitVec 5) (s : State) : Result := s.solo 2 2 (opVpack o dst sh)
/-- VUNPK issued by itself (R111). -/
def execVunpk (o : VUnary) (src : BitVec 5) (s : State) : Result := s.solo 2 2 (opVunpk o src)
/-- VSHUF issued by itself (R137). -/
def execVshuf (o : VBin) (e : BitVec 6) (s : State) : Result := s.solo 2 2 (opVshuf o e)
/-- VRADD issued by itself (R131). -/
def execVradd (o : VUnary) (s : State) : Result := s.solo 2 1 (opVradd o)
/-- VRADD_ARITH issued by itself (R131). -/
def execVraddArith (o : VUnary) (x : ArithX) (s : State) : Result := s.solo 2 2 (opVraddArith o x)
/-- VRMAX issued by itself (R131). -/
def execVrmax (o : VUnary) (s : State) : Result := s.solo 2 1 (opVrmax o)
/-- VRMIN issued by itself (R131). -/
def execVrmin (o : VUnary) (s : State) : Result := s.solo 2 1 (opVrmin o)
/-- VBCAST issued by itself (R129). -/
def execVbcast (o : VUnary) (src : BitVec 1) (l : BitVec 7) (s : State) : Result := s.solo 2 2 (opVbcast o src l)
/-- VEXT issued by itself (R129). -/
def execVext (_bt : BitVec 2) (y : BitVec 3) (d : BitVec 5) (a : BitVec 5) (_w : BitVec 2) (l : BitVec 7) (s : State) : Result := s.solo 2 2 (opVext _bt y d a _w l)
/-- VIDX issued by itself (R129). -/
def execVidx (_bt : BitVec 2) (y : BitVec 3) (d : BitVec 5) (w : BitVec 2) (k : BitVec 3) (s : State) : Result := s.solo 2 1 (opVidx _bt y d w k)
/-- VMOV issued by itself (R129). -/
def execVmov (o : VUnary) (s : State) : Result := s.solo 2 1 (opVmov o)
/-- VEXP issued by itself (R140). -/
def execVexp (o : VSpecial) (s : State) : Result := s.solo 2 1 (opVexp o)
/-- VEXP_ACCURATE issued by itself (R140). -/
def execVexpAccurate (o : VSpecial) (n : BitVec 6) (s : State) : Result := s.solo 2 2 (opVexpAccurate o n)
/-- VLOG issued by itself (R140). -/
def execVlog (o : VSpecial) (s : State) : Result := s.solo 2 1 (opVlog o)
/-- VLOG_ACCURATE issued by itself (R140). -/
def execVlogAccurate (o : VSpecial) (n : BitVec 6) (s : State) : Result := s.solo 2 2 (opVlogAccurate o n)
/-- VRCP issued by itself (R140). -/
def execVrcp (o : VSpecial) (s : State) : Result := s.solo 2 1 (opVrcp o)
/-- VRCP_ACCURATE issued by itself (R140). -/
def execVrcpAccurate (o : VSpecial) (n : BitVec 6) (s : State) : Result := s.solo 2 2 (opVrcpAccurate o n)
/-- VRSQ issued by itself (R140). -/
def execVrsq (o : VSpecial) (s : State) : Result := s.solo 2 1 (opVrsq o)
/-- VRSQ_ACCURATE issued by itself (R140). -/
def execVrsqAccurate (o : VSpecial) (n : BitVec 6) (s : State) : Result := s.solo 2 2 (opVrsqAccurate o n)
/-- VSIN issued by itself (R140). -/
def execVsin (o : VSpecial) (s : State) : Result := s.solo 2 1 (opVsin o)
/-- VSIN_ACCURATE issued by itself (R140). -/
def execVsinAccurate (o : VSpecial) (n : BitVec 6) (s : State) : Result := s.solo 2 2 (opVsinAccurate o n)
/-- VCOS issued by itself (R140). -/
def execVcos (o : VSpecial) (s : State) : Result := s.solo 2 1 (opVcos o)
/-- VCOS_ACCURATE issued by itself (R140). -/
def execVcosAccurate (o : VSpecial) (n : BitVec 6) (s : State) : Result := s.solo 2 2 (opVcosAccurate o n)
/-- VTANH issued by itself (R140). -/
def execVtanh (o : VSpecial) (s : State) : Result := s.solo 2 1 (opVtanh o)
/-- VTANH_ACCURATE issued by itself (R140). -/
def execVtanhAccurate (o : VSpecial) (n : BitVec 6) (s : State) : Result := s.solo 2 2 (opVtanhAccurate o n)
/-- VLGST issued by itself (R140). -/
def execVlgst (o : VSpecial) (s : State) : Result := s.solo 2 1 (opVlgst o)
/-- VLGST_ACCURATE issued by itself (R140). -/
def execVlgstAccurate (o : VSpecial) (n : BitVec 6) (s : State) : Result := s.solo 2 2 (opVlgstAccurate o n)
/-- KAND issued by itself (R142). -/
def execKand (_bt : BitVec 2) (d : BitVec 3) (a : BitVec 3) (b : BitVec 3) (s : State) : Result := s.solo 2 1 (opKand _bt d a b)
/-- KOR issued by itself (R142). -/
def execKor (_bt : BitVec 2) (d : BitVec 3) (a : BitVec 3) (b : BitVec 3) (s : State) : Result := s.solo 2 1 (opKor _bt d a b)
/-- KXOR issued by itself (R142). -/
def execKxor (_bt : BitVec 2) (d : BitVec 3) (a : BitVec 3) (b : BitVec 3) (s : State) : Result := s.solo 2 1 (opKxor _bt d a b)
/-- KNOT issued by itself (R142). -/
def execKnot (_bt : BitVec 2) (d : BitVec 3) (a : BitVec 3) (s : State) : Result := s.solo 2 1 (opKnot _bt d a)
/-- KSET issued by itself (R142). -/
def execKset (_bt : BitVec 2) (d : BitVec 3) (a : BitVec 5) (s : State) : Result := s.solo 2 1 (opKset _bt d a)

end Sys2Proof.Machine
end

