-- ==== Sys2Proof/Machine/VecMem.lean ====
section
/-! DEFINITION. The vector memory instructions and the pattern memory's (R132 to R139). -/

namespace Sys2Proof.Machine

/-- R132: the base address, stepped by the re-issue count. -/
def Core.vbase (k : Core) (a : BitVec 5) (x : MemX) : DWord :=
  k.readS a + x.off.signExtend 64 + BitVec.ofNat 64 k.reissue * x.step.signExtend 64

/-- The lanes of a vector access with their 64-bit addresses. -/
abbrev LaneAddrs := List (Nat × Nat)

/-- The first lane address that fails a check. -/
def firstBad (xs : LaneAddrs) (bad : Nat → Bool) : Option Nat := (xs.find? fun x => bad x.2).map (·.2)

/-- R133: the checks of an access of `n` bytes a lane, in the rule's order; `misaligned` is its first check's. DESIGN CHOICE
(notes/assumptions/51.md): of lanes in different memories the record names the first whose memory is not the lowest active lane's. -/
def State.checkLanes (s : State) (op : Nat) (xs : LaneAddrs) (n : Nat) (misaligned : Nat → Bool) (benchOnly store : Bool) :
    Except TrapRecord Local :=
  let t := fun c (a : Nat) => s.mkTrap c op (some (BitVec.ofNat 64 a)) true
  match firstBad xs misaligned with
  | some a => .error (t Cause.align a)
  | none =>
    let m := ((xs.head?).bind fun x => localOf x.2 n).getD .bench
    match firstBad xs fun a =>
        localOf a n != some m || (benchOnly && m != .bench) || (m == .loft && !store && !s.holdsBays s.cur a n) with
    | some a => .error (t Cause.protection a)
    | none =>
      match firstBad xs fun a => m == .bench && !s.me.owns a n with
      | some a => .error (t Cause.ownership a)
      | none =>
        match m, xs.head? with
        | .loft, some x => if store then .error (t Cause.loftWrite x.2) else .ok m
        | _, _ => .ok m

/-- R63, R133: the poisoned region the lowest lane meets. -/
def State.lanePoison (s : State) (op : Nat) (m : Local) (xs : LaneAddrs) (n : Nat) : Except TrapRecord (List StatEvent) :=
  match xs.find? fun x => m == .bench && (s.me.poisonAt x.2 n).isSome with
  | some x => s.checkPoison op m x.2 n (srcOfSlot s.me.slot)
  | none => .ok []

/-- A checked load into the lanes of vd, `nominal` cycles from the bench. -/
def State.laneLoad (s : State) (op : Nat) (d : BitVec 5) (eb nominal : Nat) (xs : LaneAddrs) (r : Except TrapRecord Local) :
    OpRes :=
  match r with
  | .error t => .trap t
  | .ok m =>
    let n := eb / 8
    match s.lanePoison op m xs n with
    | .error t => .trap t
    | .ok evs =>
      let c := s.me
      let vs := xs.map fun x => (x.1, leNat (s.localBytes s.cur m x.2 n))
      let (t, lat, waited) := s.loadTime m (xs.map (·.2)) n nominal
      let evs := if waited = 0 then evs else evs ++ [s.event 7 1 waited (srcOfSlot c.slot)]
      .done (t.updMe fun k => k.push lat [.v d (setLanes k.v[d.toNat] eb vs)] 0 evs true)

/-- A checked store of the lanes of vd. -/
def State.laneStore (s : State) (d : BitVec 5) (eb : Nat) (xs : LaneAddrs) (r : Except TrapRecord Local) : OpRes :=
  match r with
  | .error t => .trap t
  | .ok m =>
    s.localStore m (xs.flatMap fun x => placed x.2 (leBytes (eb / 8) (lane s.me.v[d.toNat] eb x.1)))

/-- The active lanes of an access with the addresses `f` gives. -/
def Core.laneAddrs (k : Core) (w : BitVec 2) (t : Nat) (p : BitVec 3) (f : Nat → DWord) : LaneAddrs :=
  (activeLanes (k.readK p) (laneCount w t)).map fun i => (i, (f i).toNat)

/-- R132: lane addresses of VLD and VST, VLDS and VSTS, VGATH and VSCAT. -/
def Core.contiguous (k : Core) (o : VUnary) (x : MemX) : LaneAddrs :=
  k.laneAddrs o.w o.y.toNat o.k fun i => k.vbase o.a x + BitVec.ofNat 64 (i * (elemBits o.y.toNat / 8))
def Core.strided (k : Core) (o : VBin) (x : MemX) : LaneAddrs :=
  k.laneAddrs o.w o.y.toNat o.k fun i => k.vbase o.a x + BitVec.ofNat 64 i * k.readS o.b
def Core.indexedLanes (k : Core) (o : VBin) (x : MemX) : LaneAddrs :=
  k.laneAddrs o.w o.y.toNat o.k fun i => k.vbase o.a x + BitVec.ofNat 64 (4 * lane k.v[o.b.toNat] 32 i)

/-- R133: the first check, by form. -/
def baseMisaligned (base : DWord) (n : Nat) : Nat → Bool := fun _ => base.toNat % n != 0
def laneMisaligned (eb : Nat) : Nat → Bool := fun a => a % (eb / 8) != 0

/-- R132: Loads contiguous lanes. -/
def opVld (o : VUnary) (x : MemX) (s : State) : OpRes :=
  let xs := s.me.contiguous o x
  let eb := elemBits o.y.toNat
  s.laneLoad 0x23 o.d eb 4 xs (s.checkLanes 0x23 xs (eb / 8) (baseMisaligned (s.me.vbase o.a x) 32) false false)
/-- R132: Stores contiguous lanes. -/
def opVst (o : VUnary) (x : MemX) (s : State) : OpRes :=
  let xs := s.me.contiguous o x
  let eb := elemBits o.y.toNat
  s.laneStore o.d eb xs (s.checkLanes 0x24 xs (eb / 8) (baseMisaligned (s.me.vbase o.a x) 32) false true)
/-- R132: Loads strided lanes. -/
def opVlds (o : VBin) (x : MemX) (s : State) : OpRes :=
  let xs := s.me.strided o x
  let eb := elemBits o.y.toNat
  s.laneLoad 0x25 o.d eb 4 xs (s.checkLanes 0x25 xs (eb / 8) (laneMisaligned eb) false false)
/-- R132: Stores strided lanes. -/
def opVsts (o : VBin) (x : MemX) (s : State) : OpRes :=
  let xs := s.me.strided o x
  let eb := elemBits o.y.toNat
  s.laneStore o.d eb xs (s.checkLanes 0x26 xs (eb / 8) (laneMisaligned eb) false true)
/-- R132: Gathers lanes from the bench by index. -/
def opVgath (o : VBin) (x : MemX) (s : State) : OpRes :=
  let xs := s.me.indexedLanes o x
  s.laneLoad 0x27 o.d 32 6 xs (s.checkLanes 0x27 xs 4 (baseMisaligned (s.me.vbase o.a x) 4) true false)
/-- R132: Scatters lanes into the bench by index. -/
def opVscat (o : VBin) (x : MemX) (s : State) : OpRes :=
  let xs := s.me.indexedLanes o x
  s.laneStore o.d 32 xs (s.checkLanes 0x28 xs 4 (baseMisaligned (s.me.vbase o.a x) 4) true true)

/-! ### The pattern memory (R138, R139) -/

/-- R138: 128 bench bytes into a back bank, stepped by re-issues. -/
def opVpatld (_bt : BitVec 2) (a : BitVec 5) (e : BitVec 6) (s : State) : OpRes :=
  let c := s.me
  let ad := (c.readS a + BitVec.ofNat 64 (128 * c.reissue)).toNat
  let t := fun cause => s.mkTrap cause 0x1B (some (BitVec.ofNat 64 ad)) true
  if ad % 128 != 0 then .trap (t Cause.align)
  else if benchSize < ad + 128 then .trap (t Cause.protection)
  else if !c.owns ad 128 then .trap (t Cause.ownership)
  else
    match s.checkPoison 0x1B .bench ad 128 (srcOfSlot c.slot) with
    | .error r => .trap r
    | .ok evs =>
      .done (s.setMe (c.push 4 [.pat (e + BitVec.ofNat 6 c.reissue) (BitVec.ofNat 1024 (c.bench.num ad 128))] 0 evs))

def RegWrite.isPat : RegWrite → Bool
  | .pat .. => true
  | _ => false

def Pending.isPat (p : Pending) : Bool := p.writes.any RegWrite.isPat

/-- R139: waits for the loads of earlier issues, the last of which is due in a cycle known by now; a load of its own issue lands before
the exchange, for which the core waits. -/
def opVpatsw (_bt : BitVec 2) (s : State) : OpRes :=
  let c := s.me
  let now := c.cycleNat
  let earlier := c.pend.filter fun p => p.isPat && p.due < now + 4
  if !earlier.isEmpty then .hold (.until (earlier.foldl (fun m p => max m p.due) 0))
  else
    let mine := c.pend.filter Pending.isPat
    let c1 := mine.foldl (fun k p => p.writes.foldl Core.land1 k) c
    let c2 := { c1 with
      patFront := c1.patBack, patBack := c1.patFront
      pend := c.pend.map fun p => if p.isPat then { p with writes := p.writes.filter fun w => !w.isPat } else p }
    .done (s.setMe (if mine.isEmpty then c2 else { c2 with notBefore := max c2.notBefore (now + 4) }))
/-- VLD issued by itself (R132). -/
def execVld (o : VUnary) (x : MemX) (s : State) : Result := s.solo 2 2 (opVld o x)
/-- VST issued by itself (R132). -/
def execVst (o : VUnary) (x : MemX) (s : State) : Result := s.solo 2 2 (opVst o x)
/-- VLDS issued by itself (R132). -/
def execVlds (o : VBin) (x : MemX) (s : State) : Result := s.solo 2 2 (opVlds o x)
/-- VSTS issued by itself (R132). -/
def execVsts (o : VBin) (x : MemX) (s : State) : Result := s.solo 2 2 (opVsts o x)
/-- VGATH issued by itself (R132). -/
def execVgath (o : VBin) (x : MemX) (s : State) : Result := s.solo 2 2 (opVgath o x)
/-- VSCAT issued by itself (R132). -/
def execVscat (o : VBin) (x : MemX) (s : State) : Result := s.solo 2 2 (opVscat o x)
/-- VPATLD issued by itself (R138). -/
def execVpatld (_bt : BitVec 2) (a : BitVec 5) (e : BitVec 6) (s : State) : Result := s.solo 2 2 (opVpatld _bt a e)
/-- VPATSW issued by itself (R139). -/
def execVpatsw (_bt : BitVec 2) (s : State) : Result := s.solo 2 1 (opVpatsw _bt)

end Sys2Proof.Machine
end

