-- ==== Sys2Proof/Machine/Slots.lean ====
section
/-! DEFINITION. The slot operations as a bundle holds them: the meaning each instruction gives one issue, the registers it reads
and writes (R43, R66), the memory ports it claims (R44), the lane pool (R45), one-shot operations and NOPs (R36). -/

namespace Sys2Proof.Machine

/-- What a slot instruction does in one issue. -/
def slotOp (i : Instr) (s : State) : OpRes :=
  match i with
  | .lnop a => opLnop a s
  | .br a b => opBr a b s
  | .brz a b c => opBrz a b c s
  | .brnz a b c => opBrnz a b c s
  | .brlt a b c => opBrlt a b c s
  | .brge a b c => opBrge a b c s
  | .brq a b c d => opBrq a b c d s
  | .bri a b => opBri a b s
  | .call a b c => opCall a b c s
  | .ret a b => opRet a b s
  | .loop a b c => opLoop a b c s
  | .loopr a b c => opLoopr a b c s
  | .hwait a b c d => opHwait a b c d s
  | .bar a b => opBar a b s
  | .waitv a b c d e => opWaitv a b c d e s
  | .halt a => opHalt a s
  | .aret a => opAret a s
  | .tret a b => opTret a b s
  | .snop a => opSnop a s
  | .add a => opAdd a s
  | .sub a => opSub a s
  | .addi a => opAddi a s
  | .mul a => opMul a s
  | .mulhs a => opMulhs a s
  | .mulhn a => opMulhn a s
  | .divs a => opDivs a s
  | .divn a => opDivn a s
  | .rems a => opRems a s
  | .remn a => opRemn a s
  | .and a => opAnd a s
  | .or a => opOr a s
  | .xor a => opXor a s
  | .andn a => opAndn a s
  | .andi a => opAndi a s
  | .ori a => opOri a s
  | .xori a => opXori a s
  | .shl a => opShl a s
  | .shr a => opShr a s
  | .sar a => opSar a s
  | .shli a => opShli a s
  | .shri a => opShri a s
  | .sari a => opSari a s
  | .ror a => opRor a s
  | .rori a => opRori a s
  | .clz a => opClz a s
  | .ctz a => opCtz a s
  | .popc a => opPopc a s
  | .bfx a => opBfx a s
  | .bfxs a => opBfxs a s
  | .bfi a => opBfi a s
  | .bfxv a b c d e => opBfxv a b c d e s
  | .ceq a => opCeq a s
  | .cne a => opCne a s
  | .clt a => opClt a s
  | .cltn a => opCltn a s
  | .cle a => opCle a s
  | .clen a => opClen a s
  | .ceqi a => opCeqi a s
  | .clti a => opClti a s
  | .sel a b c d e => opSel a b c d e s
  | .min a => opMin a s
  | .max a => opMax a s
  | .minn a => opMinn a s
  | .maxn a => opMaxn a s
  | .li a b c => opLi a b c s
  | .liExt a b c => opLiExt a b c s
  | .lih a b c d => opLih a b c d s
  | .addr a b c d e f => opAddr a b c d e f s
  | .lds a => opLds a s
  | .sts a => opSts a s
  | .ldsx a b c d e f g => opLdsx a b c d e f g s
  | .stsx a b c d e f => opStsx a b c d e f s
  | .getr a b c => opGetr a b c s
  | .setr a b c => opSetr a b c s
  | .getg a b c => opGetg a b c s
  | .geth a b c => opGeth a b c s
  | .setn a b c => opSetn a b c s
  | .setb a b c => opSetb a b c s
  | .setq a b c => opSetq a b c s
  | .drain a b c => opDrain a b c s
  | .invoke a b c d => opInvoke a b c d s
  | .sprint a b c d => opSprint a b c d s
  | .sprintx a b => opSprintx a b s
  | .trap a b c => opTrap a b c s
  | .statpop a b c => opStatpop a b c s
  | .fmtset a b c d => opFmtset a b c d s
  | .vnop a => opVnop a s
  | .vadd a => opVadd a s
  | .vaddArith a b => opVaddArith a b s
  | .vsub a => opVsub a s
  | .vsubArith a b => opVsubArith a b s
  | .vmul a => opVmul a s
  | .vmulArith a b => opVmulArith a b s
  | .vfma a => opVfma a s
  | .vfmaArith a b => opVfmaArith a b s
  | .vfms a => opVfms a s
  | .vfmsArith a b => opVfmsArith a b s
  | .vmin a => opVmin a s
  | .vmax a => opVmax a s
  | .vabs a => opVabs a s
  | .vabsArith a b => opVabsArith a b s
  | .vneg a => opVneg a s
  | .vnegArith a b => opVnegArith a b s
  | .vclamp a => opVclamp a s
  | .vand a => opVand a s
  | .vor a => opVor a s
  | .vxor a => opVxor a s
  | .vshl a => opVshl a s
  | .vshr a => opVshr a s
  | .vsar a => opVsar a s
  | .vceq a => opVceq a s
  | .vclt a => opVclt a s
  | .vcle a => opVcle a s
  | .vcun a => opVcun a s
  | .vsel a => opVsel a s
  | .vcvt a b => opVcvt a b s
  | .vcvtb a b => opVcvtb a b s
  | .vpack a b c => opVpack a b c s
  | .vunpk a b => opVunpk a b s
  | .vshuf a b => opVshuf a b s
  | .vpatld a b c => opVpatld a b c s
  | .vpatsw a => opVpatsw a s
  | .vradd a => opVradd a s
  | .vraddArith a b => opVraddArith a b s
  | .vrmax a => opVrmax a s
  | .vrmin a => opVrmin a s
  | .vbcast a b c => opVbcast a b c s
  | .vext a b c d e f => opVext a b c d e f s
  | .vidx a b c d e => opVidx a b c d e s
  | .vld a b => opVld a b s
  | .vst a b => opVst a b s
  | .vlds a b => opVlds a b s
  | .vsts a b => opVsts a b s
  | .vgath a b => opVgath a b s
  | .vscat a b => opVscat a b s
  | .vexp a => opVexp a s
  | .vexpAccurate a b => opVexpAccurate a b s
  | .vlog a => opVlog a s
  | .vlogAccurate a b => opVlogAccurate a b s
  | .vrcp a => opVrcp a s
  | .vrcpAccurate a b => opVrcpAccurate a b s
  | .vrsq a => opVrsq a s
  | .vrsqAccurate a b => opVrsqAccurate a b s
  | .vsin a => opVsin a s
  | .vsinAccurate a b => opVsinAccurate a b s
  | .vcos a => opVcos a s
  | .vcosAccurate a b => opVcosAccurate a b s
  | .vtanh a => opVtanh a s
  | .vtanhAccurate a b => opVtanhAccurate a b s
  | .vlgst a => opVlgst a s
  | .vlgstAccurate a b => opVlgstAccurate a b s
  | .kand a b c d => opKand a b c d s
  | .kor a b c d => opKor a b c d s
  | .kxor a b c d => opKxor a b c d s
  | .knot a b c => opKnot a b c s
  | .kset a b c => opKset a b c s
  | .vmov a => opVmov a s
  | .mnop a => opMnop a s
  | .mcall a b => opMcall a b s
  | .msetp a b c d => opMsetp a b c d s
  | .mlatch a b c d e f => opMlatch a b c d e f s
  | .maccz a b => opMaccz a b s
  | .mretire a b c d e f => opMretire a b c d e f s
  | .mupld a b c d e => opMupld a b c d e s
  | .mfmt a b c d e f => opMfmt a b c d e f s
  | .mwait a => opMwait a s
  | .rtload a b c d => opRtload a b c d s
  | .rgrid a b c d e f => opRgrid a b c d e f s
  | .rgridOff a => opRgridOff a s
  | .rmode a b c d e f g h => opRmode a b c d e f g h s
  | .rstep a b => opRstep a b s
  | .rload a b c d e => opRload a b c d e s
  | .rstore a b c d e => opRstore a b c d e s
  | .rhalox a b c => opRhalox a b c s
  | .rhaloi a b c => opRhaloi a b c s
  | .rcensus a b => opRcensus a b s
  | .cnop a => opCnop a s
  | .copy a b c d e f => opCopy a b c d e f s
  | .copyo a b c d e f => opCopyo a b c d e f s
  | .gather a b c d e f => opGather a b c d e f s
  | .scattr a b c d e f => opScattr a b c d e f s
  | .fillh a b c d => opFillh a b c d s
  | .advp a b => opAdvp a b s
  | .advc a b => opAdvc a b s
  | .flip a b => opFlip a b s
  | .ringdef a b c d e => opRingdef a b c d e s
  | .harm a b c => opHarm a b c s
  | .harmOff a b => opHarmOff a b s
  | .send a b c d e => opSend a b c d e s
  | .sacc a b c d e => opSacc a b c d e s
  | .coll a b c d => opColl a b c d s
  | .hpois a b c => opHpois a b c s
  | .tilef a b c d e f g => opTilef a b c d e f g s
  | _ => .done s

/-- A register as an instruction names it. -/
inductive RegName where
  | s (i : Nat)
  | arr (i : Nat)
  | v (i : Nat)
  | k (i : Nat)
  | q (i : Nat)
  | b (i : Nat)
  | n (i : Nat)
  | m (i : Nat)
  | e (i : Nat)
  deriving DecidableEq, Repr

/-- The register that a scalar name means to the running code (R58, R60): none for s0. -/
def Core.resolve (k : Core) : RegName → Option RegName
  | .s 0 => none
  | .s i => if k.arrCtx.isSome && 24 ≤ i then some (.arr (i - 24)) else some (.s i)
  | .k 0 => none
  | r => some r

/-- The register a pending write goes to. -/
def RegWrite.name : RegWrite → Option RegName
  | .s i _ => some (.s i.toNat)
  | .arr i _ => some (.arr i.toNat)
  | .b i _ => some (.b i.toNat)
  | .q i _ => some (.q i.toNat)
  | .n i _ => some (.n i.toNat)
  | .v i _ => some (.v i.toNat)
  | .k i _ => some (.k i.toNat)
  | .m i _ => some (.m i.toNat)
  | .ctl .. | .pat .. => none

def rs (i : BitVec 5) : RegName := .s i.toNat
def rv (i : BitVec 5) : RegName := .v i.toNat
def rk (i : BitVec 3) : RegName := .k i.toNat

/-- R71: the register the second operand names; the g registers never change. -/
def fileName (f : BitVec 3) (b : BitVec 5) : List RegName :=
  match f.toNat with
  | 0 => [.s b.toNat]
  | 1 => [.n b.toNat]
  | 2 => [.b b.toNat]
  | 3 => [.q b.toNat]
  | _ => []

def sregReads (o : SReg) : List RegName := rs o.a :: fileName o.f o.b
def vbinReads (o : VBin) : List RegName := [rv o.a, rv o.b, rk o.k]
def vunaryReads (o : VUnary) : List RegName := [rv o.a, rk o.k]
def vspecialReads (o : VSpecial) : List RegName := [rv o.a, rk o.k]

/-- R66: the registers an instruction reads, implicit ones included, but for those only written with latency 1: no
read of one ever meets a pending write. A destination is a hazard of its own (`writes`). -/
def readsOf : Instr → List RegName
  | .brz _ a _ | .brnz _ a _ | .brlt _ a _ | .brge _ a _ => [rs a]
  | .brq _ q _ _ => [.q q.toNat]
  | .bri _ a | .ret _ a => [rs a]
  | .loop _ c _ | .loopr _ c _ => [.n c.toNat]
  | .waitv _ a b _ _ => [rs a, rs b]
  | .add o | .sub o | .mul o | .mulhs o | .mulhn o | .divs o | .divn o | .rems o | .remn o | .and o | .or o
  | .xor o | .andn o | .shl o | .shr o | .sar o | .ror o | .ceq o | .cne o | .clt o | .cltn o | .cle o | .clen o
  | .min o | .max o | .minn o | .maxn o => sregReads o
  | .addi o | .andi o | .ori o | .xori o | .ceqi o | .clti o | .lds o => [rs o.a]
  | .sts o => [rs o.a, rs o.d]
  | .shli o | .shri o | .sari o | .rori o => [rs o.a]
  | .clz o | .ctz o | .popc o => [rs o.a]
  | .bfx o | .bfxs o => [rs o.a]
  | .bfi o => [rs o.a, rs o.d]
  | .bfxv _ _ a b _ => [rs a, rs b]
  | .sel _ _ a b q => [rs a, rs b, .q q.toNat]
  | .lih _ _ a _ => [rs a]
  | .addr _ _ a b _ r => [rs a, rs b, .b r.toNat]
  | .ldsx _ _ a b _ _ _ => [rs a, rs b]
  | .stsx _ d a b _ _ => [rs a, rs b, rs d]
  | .setr _ a _ | .setn _ _ a | .setb _ _ a | .setq _ _ a => [rs a]
  | .invoke _ a _ _ | .sprint _ _ a _ | .trap _ a _ | .fmtset _ a _ _ => [rs a]
  | .vadd o | .vaddArith o _ | .vsub o | .vsubArith o _ | .vmul o | .vmulArith o _ | .vmin o | .vmax o | .vand o | .vor o
  | .vxor o | .vshl o | .vshr o | .vsar o | .vsel o | .vshuf o _ => vbinReads o
  | .vfma o | .vfmaArith o _ | .vfms o | .vfmsArith o _ | .vclamp o => rv o.d :: vbinReads o
  | .vabs o | .vabsArith o _ | .vneg o | .vnegArith o _ | .vpack o _ _ | .vunpk o _ | .vradd o | .vraddArith o _
  | .vrmax o | .vrmin o | .vmov o => vunaryReads o
  | .vceq o | .vclt o | .vcle o | .vcun o => [rv o.a, rv o.b, rk o.k]
  | .vcvt o _ => [rv o.a, rk o.k]
  | .vcvtb o _ => [rv o.a, rv o.b]
  | .vpatld _ a _ => [rs a]
  | .vbcast o src _ => [if src = 0 then rv o.a else rs o.a, rk o.k]
  | .vext _ _ _ a _ _ => [rv a]
  | .vidx _ _ _ _ k => [rk k]
  | .vld o _ => [rs o.a, rk o.k]
  | .vst o _ => [rs o.a, rv o.d, rk o.k]
  | .vlds o _ => [rs o.a, rs o.b, rk o.k]
  | .vsts o _ => [rs o.a, rs o.b, rv o.d, rk o.k]
  | .vgath o _ => [rs o.a, rv o.b, rk o.k]
  | .vscat o _ => [rs o.a, rv o.b, rv o.d, rk o.k]
  | .vexp o | .vlog o | .vrcp o | .vrsq o | .vsin o | .vcos o | .vtanh o | .vlgst o => vspecialReads o
  | .vexpAccurate o _ | .vlogAccurate o _ | .vrcpAccurate o _ | .vrsqAccurate o _ | .vsinAccurate o _
  | .vcosAccurate o _ | .vtanhAccurate o _ | .vlgstAccurate o _ => vspecialReads o
  | .kand _ _ a b | .kor _ _ a b | .kxor _ _ a b => [rk a, rk b]
  | .knot _ _ a => [rk a]
  | .kset _ _ a => [rs a]
  | .msetp _ m a p => if p = 1 then [rs a, .m m.toNat] else [rs a]
  | .mretire _ _ a _ _ _ | .mupld _ _ a _ _ | .rtload _ a _ _ | .rstep _ a | .rhalox _ _ a | .rhaloi _ _ a
  | .rcensus _ a => [rs a]
  | .copy _ _ _ a _ _ | .copyo _ _ _ a _ _ | .fillh _ _ _ a | .harm _ _ a | .sacc _ _ _ a _ | .coll _ _ _ a => [rs a]
  | .gather _ _ _ a b _ | .scattr _ _ _ a b _ | .tilef _ _ _ a b _ _ => [rs a, rs b]
  | .send _ _ _ _ b => [rs b]
  | _ => []

/-- R43: the registers an instruction writes, implicit ones included. -/
def writesOf : Instr → List RegName
  | .call _ d _ => [rs d]
  | .loop _ c _ => [.n c.toNat]
  | .loopr _ c _ => .n c.toNat :: (List.range 8).flatMap fun i => [.b i, .q i]
  | .add o | .sub o | .mul o | .mulhs o | .mulhn o | .divs o | .divn o | .rems o | .remn o | .and o | .or o
  | .xor o | .andn o | .shl o | .shr o | .sar o | .ror o | .ceq o | .cne o | .clt o | .cltn o | .cle o | .clen o
  | .min o | .max o | .minn o | .maxn o => [rs o.d]
  | .addi o | .andi o | .ori o | .xori o | .ceqi o | .clti o | .lds o => [rs o.d]
  | .shli o | .shri o | .sari o | .rori o => [rs o.d]
  | .clz o | .ctz o | .popc o => [rs o.d]
  | .bfx o | .bfxs o | .bfi o => [rs o.d]
  | .bfxv _ d _ _ _ | .sel _ d _ _ _ | .li _ d _ | .liExt _ d _ | .lih _ d _ _ | .addr _ d _ _ _ _
  | .ldsx _ d _ _ _ _ _ | .getr _ d _ | .getg _ d _ | .geth _ d _ | .sprint _ d _ _ | .sprintx _ d => [rs d]
  | .statpop _ d e => [rs d, rs e]
  | .setn _ n _ => [.n n.toNat]
  | .setb _ n _ => [.b n.toNat]
  | .setq _ n _ => [.q n.toNat]
  | .vadd o | .vaddArith o _ | .vsub o | .vsubArith o _ | .vmul o | .vmulArith o _ | .vfma o | .vfmaArith o _ | .vfms o
  | .vfmsArith o _ | .vmin o | .vmax o | .vclamp o | .vand o | .vor o | .vxor o | .vshl o | .vshr o | .vsar o | .vsel o
  | .vshuf o _ | .vlds o _ | .vgath o _ => [rv o.d]
  | .vabs o | .vabsArith o _ | .vneg o | .vnegArith o _ | .vpack o _ _ | .vunpk o _ | .vradd o | .vraddArith o _
  | .vrmax o | .vrmin o | .vmov o | .vbcast o _ _ | .vld o _ => [rv o.d]
  | .vceq o | .vclt o | .vcle o | .vcun o => [rk o.d]
  | .vcvt o _ => [rv o.d]
  | .vcvtb o x => if 10 ≤ x.dst.toNat && x.dst.toNat ≤ 12 then [rv o.d, rv o.b] else [rv o.d]
  | .vext _ _ d _ _ _ => [rs d]
  | .vidx _ _ d _ _ => [rv d]
  | .vexp o | .vlog o | .vrcp o | .vrsq o | .vsin o | .vcos o | .vtanh o | .vlgst o => [rv o.d]
  | .vexpAccurate o _ | .vlogAccurate o _ | .vrcpAccurate o _ | .vrsqAccurate o _ | .vsinAccurate o _
  | .vcosAccurate o _ | .vtanhAccurate o _ | .vlgstAccurate o _ => [rv o.d]
  | .kand _ d _ _ | .kor _ d _ _ | .kxor _ d _ _ => [rk d]
  | .knot _ d _ => [rk d]
  | .kset _ d _ => [rk d]
  | .msetp _ m _ _ => [.m m.toNat]
  | .mlatch _ e _ _ _ _ => [.e e.toNat]
  | _ => []

/-- A memory port (R44). -/
inductive PortName where
  | benchRead | benchWrite | yard | loftRead
  deriving DecidableEq, Repr

def PortName.capacity : PortName → Nat
  | .benchRead => 2
  | _ => 1

/-- The port of an access at `a`. -/
def claim (store : Bool) (a : Nat) : Option PortName :=
  match portOf a with
  | some .bench => some (if store then .benchWrite else .benchRead)
  | some .yard => some .yard
  | some .loft => if store then none else some .loftRead
  | none => none

/-- A vector access claims the port of the memory in which its lanes fall (R134): its lowest active lane's. -/
def claimLanes (store : Bool) (xs : LaneAddrs) : Option PortName := (xs.head?).bind fun x => claim store x.2

/-- R44, R134: the port an operation claims. -/
def Core.portClaim (k : Core) : Instr → Option PortName
  | .lds o => claim false (k.readS o.a + imm o.i).toNat
  | .sts o => claim true (k.readS o.a + imm o.i).toNat
  | .ldsx _ _ a b sh _ _ => claim false (k.indexed a b sh).toNat
  | .stsx _ _ a b sh _ => claim true (k.indexed a b sh).toNat
  | .vld o x => claimLanes false (k.contiguous o x)
  | .vst o x => claimLanes true (k.contiguous o x)
  | .vlds o x => claimLanes false (k.strided o x)
  | .vsts o x => claimLanes true (k.strided o x)
  | .vgath o x => claimLanes false (k.indexedLanes o x)
  | .vscat o x => claimLanes true (k.indexedLanes o x)
  | .vpatld _ a _ => claim false (k.readS a + BitVec.ofNat 64 (128 * k.reissue)).toNat
  | _ => none

/-- R42, R44, R134: the registers that decide which port an operation claims: those of its address, and of which lanes are active. -/
def addressOf : Instr → List RegName
  | .lds o | .sts o => [rs o.a]
  | .ldsx _ _ a b _ _ _ | .stsx _ _ a b _ _ => [rs a, rs b]
  | .vld o _ | .vst o _ => [rs o.a, rk o.k]
  | .vlds o _ | .vsts o _ => [rs o.a, rs o.b, rk o.k]
  | .vgath o _ | .vscat o _ => [rs o.a, rv o.b, rk o.k]
  | .vpatld _ a _ => [rs a]
  | _ => []

/-- R45, R105, R106, R138: the lane-pool bits an operation takes. -/
def poolBits : Instr → Nat
  | .vadd o | .vaddArith o _ | .vsub o | .vsubArith o _ | .vmul o | .vmulArith o _ | .vfma o | .vfmaArith o _ | .vfms o
  | .vfmsArith o _ | .vmin o | .vmax o | .vclamp o | .vand o | .vor o | .vxor o | .vshl o | .vshr o | .vsar o | .vsel o
  | .vshuf o _ | .vlds o _ | .vsts o _ | .vgath o _ | .vscat o _ => widthBits o.w
  | .vabs o | .vabsArith o _ | .vneg o | .vnegArith o _ | .vpack o _ _ | .vunpk o _ | .vradd o | .vraddArith o _
  | .vrmax o | .vrmin o | .vmov o | .vbcast o _ _ | .vld o _ | .vst o _ => widthBits o.w
  | .vceq o | .vclt o | .vcle o | .vcun o => widthBits o.w
  | .vcvt o _ => widthBits o.w
  | .vcvtb .. | .vpatld .. => 1024
  | .vext _ _ _ _ w _ => widthBits w
  | .vidx _ _ _ w _ => widthBits w
  | .vexp o | .vlog o | .vrcp o | .vrsq o | .vsin o | .vcos o | .vtanh o | .vlgst o => widthBits o.w
  | .vexpAccurate o _ | .vlogAccurate o _ | .vrcpAccurate o _ | .vrsqAccurate o _ | .vsinAccurate o _
  | .vcosAccurate o _ | .vtanhAccurate o _ | .vlgstAccurate o _ => widthBits o.w
  | _ => 0

/-- R35: the NOP of a sticky engine. -/
def isNop : Instr → Bool
  | .vnop _ | .mnop _ | .cnop _ => true
  | _ => false

/-- R36, R52 to R54: the one-shot operations. -/
def isOneShot : Instr → Bool
  | .vpatsw _ | .kand .. | .kor .. | .kxor .. | .knot .. | .kset .. => true
  | .msetp .. | .mupld .. | .mfmt .. | .mwait _ | .rtload .. | .rgrid .. | .rgridOff _ | .rmode .. | .rstep .. | .rhalox ..
  | .rhaloi .. | .rcensus .. => true
  | .fillh .. | .advp .. | .advc .. | .flip .. | .ringdef .. | .harm .. | .harmOff .. | .coll .. | .hpois .. => true
  | _ => false

/-- R34: what the L slot of a repeated bundle may hold. -/
def isRepeatable : Instr → Bool
  | .lnop _ | .hwait .. | .waitv .. => true
  | _ => false

/-- The waits that hold a bundle before any of its slots acts (R85 to R87, R172). -/
def isWait : Instr → Bool
  | .hwait .. | .bar .. | .waitv .. | .mwait _ => true
  | _ => false

/-- When an operation acts among those of its issue: loads and operations first, then FMTSET, after the matrix operations' copies and
before any store (R113, R116), then the stores, then C0 and C1 in that order (R184, R200), then what no slot of the issue sees (R32, R139). -/
def stage : Slot → Instr → Nat
  | .c0, _ | .c1, _ => 3
  | _, .fmtset .. => 1
  | _, .sts .. | _, .stsx .. | _, .vst .. | _, .vsts .. | _, .vscat .. => 2
  | _, .vpatsw _ | _, .drain .. | _, .sprint .. | _, .sprintx .. => 4
  | _, _ => 0

end Sys2Proof.Machine
end

