-- ==== Sys2Proof/Machine/Issue.lean ====
section
/-! DEFINITION. The issue of a bundle (R22 to R49): fetch, the tests for an illegal bundle, hazards and the timing trap
(R65 to R69), the slots' operations, the sticky records, the restart snapshot, arrivals (R205) and quiet bundles (R282). -/

namespace Sys2Proof.Machine

/-! ### Fetch (R22, R24, R48, R49) -/

def Access.bind {α β : Type} (r : Access α) (f : α → Access β) : Access β :=
  match r with
  | .ok a => f a
  | .pageFault v => .pageFault v
  | .protection v => .protection v
  | .fileWait i sz => .fileWait i sz
  | .fileIo v => .fileIo v

/-- A bundle as fetch assembles it: its header, whether that breaks R26, its slot words, and the word after it. -/
structure Fetched where
  at_ : DWord
  header : Header
  bad : Bool
  words : List (Slot × Nat × Option Nat)
  next : DWord
  deriving DecidableEq, Repr

/-- R11: how an instruction cache names a place in memory. -/
def Place.codeKey : Place → Nat × Nat
  | .hbm pa | .file pa _ => (0, pa)
  | .host pa => (1, pa)

/-- R11: how an instruction cache names word `i` of the bundle at `x`, which is found through the translation cache of cluster `via` (R223); none
where fetch may not read it. -/
def State.codeKey (s : State) (via : Option ClusterNo) (k : Core) (x : DWord) (i : Nat) : Option (Nat × Nat) :=
  match s.residualAt k x with
  | some _ => some (2, (s.shownAddr k x).toNat + 4 * i)
  | none =>
    match s.place k.theLaunch.asid (x.toNat + 4 * i) false true via with
    | .ok p => some p.codeKey
    | _ => none

/-- R11: what an instruction cache holds of a place. -/
def cachedWord (ws : List CodeWord) (key : Nat × Nat) : Option Nat := (ws.find? fun w => w.mem == key.1 && w.addr == key.2).map (·.word)

/-- Word `i` of the bundle at `x`: residual code comes from the cache of residuals, other code from the core's instruction cache (R11), or from
memory that may be executed. -/
def State.codeWord (s : State) (via : Option ClusterNo) (k : Core) (x : DWord) (i : Nat) : Access Nat :=
  match s.residualAt k x, (s.codeKey via k x i).bind (cachedWord k.icache) with
  | some b, _ => .ok ((b.words.getD i 0).toNat)
  | none, some w => .ok w
  | none, none => (s.vread k.theLaunch.asid (x.toNat + 4 * i) 4 true via).bind fun bs => .ok (leNat bs)

/-- R22: the slot words from word `i` on, with their extension words, and the number of words. -/
def assemble (read : Nat → Access Nat) : List Slot → Nat → Access (List (Slot × Nat × Option Nat) × Nat)
  | [], i => .ok ([], i)
  | sl :: sls, i =>
    (read i).bind fun w =>
      if w / 2 ^ 31 == 1 then
        (read (i + 1)).bind fun x => (assemble read sls (i + 2)).bind fun r => .ok ((sl, w, some x) :: r.1, r.2)
      else (assemble read sls (i + 1)).bind fun r => .ok ((sl, w, none) :: r.1, r.2)

/-- The bundle that fetch meets, past any pad words (R24); an access that does not succeed, with the header it was for; or only
pad words up to an address. -/
inductive Fetch where
  | bundle (f : Fetched)
  | stopped (at_ : DWord) (why : Access Unit)
  | pads (at_ : DWord)
  deriving DecidableEq, Repr

def State.fetchFrom (s : State) (via : Option ClusterNo) (k : Core) : Nat → DWord → Fetch
  | 0, x => .pads x
  | n + 1, x =>
    match s.codeWord via k x 0 with
    | .ok w =>
      match decodeHeader w with
      | .pad => s.fetchFrom via k n (x + 4)
      | hw =>
        let h := headerFields w
        match assemble (s.codeWord via k x) (Slot.all.filter fun sl => h.p.getLsbD sl.index) 1 with
        | .ok (ws, n) => .bundle { at_ := x, header := h, bad := hw == .bad, words := ws, next := x + BitVec.ofNat 64 (4 * n) }
        | r => .stopped x (r.bind fun _ => .ok ())
    | r => .stopped x (r.bind fun _ => .ok ())

/-- Pad words that one step of fetch skips at most. -/
def padFuel : Nat := 64

/-- What the core under way fetches at its program counter. -/
def State.fetch (s : State) : Fetch := s.fetchFrom (some s.myCluster) s.me padFuel s.me.pc

/-- Words that an instruction cache holds (R11). -/
def codeWords : Nat := 16384

/-- R11, R69: the words of a bundle that the core's instruction cache does not hold. -/
def State.codeMisses (s : State) (f : Fetched) : List CodeWord :=
  (List.range ((f.next - f.at_).toNat / 4)).filterMap fun i =>
    match s.codeKey (some s.myCluster) s.me f.at_ i, s.codeWord (some s.myCluster) s.me f.at_ i with
    | some key, .ok w =>
      if (cachedWord s.me.icache key).isNone then some { mem := key.1, addr := key.2, word := w } else none
    | _, _ => none

/-- R11: the instruction cache of the core under way takes a word; a full one makes room. -/
def State.takeCode (s : State) (w : CodeWord) : State :=
  if s.me.icache.length < codeWords then s.updMe fun k => { k with icache := w :: k.icache }
  else (s.updMe fun k => { k with icache := w :: k.icache.eraseIdx (Config.cacheVictim s.free % codeWords) }).takeFree

/-- R69: the bundle crosses a 4 KiB boundary, which a page may end at (R218). -/
def Fetched.crosses (f : Fetched) : Bool := f.at_.toNat / 4096 != (f.next - 1).toNat / 4096

/-- The pages that fetch has translated, by an address in each. -/
def Fetch.pages (pc : DWord) : Fetch → List Nat
  | .bundle f => [pc.toNat, (f.next - 1).toNat]
  | .pads x => [pc.toNat, (x - 1).toNat]
  | .stopped x (.pageFault va) | .stopped x (.protection va) => [pc.toNat, x.toNat, va]
  | .stopped x _ => [pc.toNat, x.toNat]

/-- R69, R223: what fetch leaves: the cluster's translation cache has its pages, the instruction cache its words, and a miss or a page crossing
has held the bundle a free number of cycles. -/
def State.afterFetch (s : State) (r : Fetch) : State :=
  let t := (r.pages s.me.pc).foldl (fun t va => t.cachePage s.myCluster s.me.theLaunch.asid va) s
  match r with
  | .bundle f =>
    let missed := s.codeMisses f
    if missed.isEmpty && !f.crosses then t
    else
      let t := missed.foldl State.takeCode t
      t.takeFree.advanceTo t.cur (t.me.cycleNat + Config.heldCycles t.free)
  | _ => t

/-- R223, R225: an instruction cache takes the word at a virtual address before it is asked for. -/
def State.prefetchCode (s : State) (c : CoreNo) (va : DWord) : State :=
  let s := { s with cur := c }
  let r := Fetched.mk va (headerFields 0) false [] (va + 4)
  (s.codeMisses r).foldl State.takeCode s

/-- R11: an instruction cache lets a word go. -/
def State.forgetCode (s : State) (c : CoreNo) (n : Nat) : State := s.updCore c fun k => { k with icache := k.icache.eraseIdx n }

/-! ### The slots of an issue (R33, R35) -/

def Stickies.get (t : Stickies) : Slot → Sticky
  | .v0 => t.v0 | .v1 => t.v1 | .m => t.m | .c0 => t.c0 | .c1 => t.c1
  | .l | .s => {}

def Stickies.set (t : Stickies) (sl : Slot) (r : Sticky) : Stickies :=
  match sl with
  | .v0 => { t with v0 := r } | .v1 => { t with v1 := r } | .m => { t with m := r }
  | .c0 => { t with c0 := r } | .c1 => { t with c1 := r }
  | .l | .s => t

/-- R35: the sticky engines. -/
def slotSticky : Slot → Bool
  | .l | .s => false
  | _ => true

/-- A slot that takes part in an issue: what its word decodes to, its re-issue count, opcode and tile check. -/
structure Use where
  slot : Slot
  what : Decoded
  j : Nat := 0
  op : Nat := 0
  tileOk : Bool := true
  named : Bool := true
  deriving DecidableEq, Repr

def Use.instr (u : Use) : Instr :=
  match u.what with
  | .ok i => i
  | _ => .lnop 0

def Use.isOk (u : Use) : Bool :=
  match u.what with
  | .ok _ => true
  | _ => false

/-- R145: whether a matrix operation is named with a legal tile address. -/
def Core.namedTileOk (k : Core) : Decoded → Bool
  | .ok (.maccz _ m) => legalTile k.m[m.toNat]
  | .ok (.mretire _ m _ _ _ _) => legalTile k.m[m.toNat]
  | _ => true

/-- The re-issue of an active record. -/
def Stickies.reissue (t : Stickies) (sl : Slot) : List Use :=
  let r := t.get sl
  match r.instr with
  | some i => [{ slot := sl, what := .ok i, j := r.j + 1, op := r.op, tileOk := r.tileOk, named := false }]
  | none => []

/-- R33, R35: what the slots of the next issue do. -/
def Core.uses (k : Core) (f : Fetched) : List Use :=
  Slot.all.flatMap fun sl =>
    match f.words.find? fun w => w.1 == sl with
    | some (_, w, x) =>
      let d := decodeSlot sl w x
      if !slotSticky sl || k.issue == 0 then
        [{ slot := sl, what := d, op := slotOpcode sl w, tileOk := k.namedTileOk d }]
      else
        match d with
        | .ok i => if isNop i then [] else k.sticky.reissue sl
        | _ => []
    | none => k.sticky.reissue sl

/-- R33, R35, R357: what the slots of the next issue of the core under way do; a slot that the Fitter has rewritten keeps the opcode it had. -/
def State.uses (s : State) (f : Fetched) : List Use :=
  match (s.residualAt s.me f.at_).bind (·.sOp) with
  | some op => (s.me.uses f).map fun u => if u.slot == .s then { u with op := op } else u
  | none => s.me.uses f

/-- R37: after a STOP the engines a bundle does not name are idle. -/
def Core.applyStop (k : Core) (f : Fetched) : Core :=
  if k.stop && k.issue == 0 then
    { k with
      stop := false
      sticky := Slot.all.foldl (fun t sl => if f.words.any fun w => w.1 == sl then t else t.set sl {}) k.sticky }
  else k

/-! ### Illegal bundles (R42 to R46) -/

/-- R31, R55, R89, R275: the slot holds an encoding without a meaning, or a return outside its handler. -/
def Core.unassigned (k : Core) (u : Use) : Bool :=
  match u.what with
  | .unassigned => true
  | .ok (.aret _) => k.arrCtx.isNone
  | .ok (.tret ..) => k.trapCtx.isNone
  | _ => false

/-- R43: the registers that a use writes. -/
def Core.written (k : Core) (u : Use) : List RegName := if u.isOk then (writesOf u.instr).filterMap k.resolve else []

def Core.readsAndWrites (k : Core) (u : Use) : List RegName :=
  if u.isOk then (readsOf u.instr ++ writesOf u.instr).filterMap k.resolve else []

/-- R44: the port a use claims at its stepped address. -/
def Core.claims (k : Core) (u : Use) : Option PortName := if u.isOk then { k with reissue := u.j }.portClaim u.instr else none

def Use.pool (u : Use) : Nat := if u.isOk then poolBits u.instr else 0

/-- R42, rules 2, 3, 5 and 6: whether a use takes part in a broken rule. DESIGN CHOICE (notes/assumptions/69.md): a slot whose own word breaks
rule 2 is no operation of rules 3 to 5, and adds no other slot to the mask (R46). -/
def Core.breaks (k : Core) (f : Fetched) (us : List Use) (u : Use) : Bool :=
  (match u.what with | .reserved => true | _ => false)
    || (us.any fun v => v.slot != u.slot && (k.written v).any fun r => (k.written u).contains r)
    || (0 < u.pool && 1536 < (us.map Use.pool).sum)
    || (u.slot == .l && f.header.rpt != 0 && u.isOk && !isRepeatable u.instr)

/-- R42, rule 4, over the uses whose address is known. -/
def Core.portBroken (k : Core) (us : List Use) (u : Use) : Bool :=
  match k.claims u with
  | none => false
  | some p => p.capacity < (us.filter fun v => k.claims v == some p).length

/-- R26, R46: the cause and the slots of an illegal bundle: a bad header names none; `known` says whose memory address is
known. -/
def Core.illegal (k : Core) (f : Fetched) (us : List Use) (known : Use → Bool) : Option (BitVec 5 × List Use) :=
  let slots := us.filter k.unassigned
  let ks := us.filter known
  let bad := us.filter fun u => k.breaks f us u || (known u && k.portBroken ks u)
  if f.bad then some (Cause.illegalBundle, [])
  else if !slots.isEmpty then some (Cause.illegalSlot, slots)
  else if !bad.isEmpty then some (Cause.illegalBundle, bad)
  else none

def slotMask (us : List Use) : BitVec 7 := us.foldl (fun m u => m ||| (1#7 <<< u.slot.index)) 0

/-- A trap of several slots: the opcode is the lowest slot's (R46). -/
def State.slotsTrap (s : State) (cause : BitVec 5) (us : List Use) : TrapRecord :=
  { s.mkTrap cause ((us.head?).elim 0 (·.op)) with slots := slotMask us }

/-! ### Hazards (R66, R67) -/

/-- The cycle in which the last pending write to one of `regs` arrives, where it is still to come; with `loads`, of a load. -/
def Core.lateOf (k : Core) (regs : List RegName) (loads : Bool) : Nat :=
  k.pend.foldl (fun m p =>
    if k.cycleNat < p.due && (!loads || p.load) && p.writes.any (fun w => w.name.elim false regs.contains) then max m p.due else m) 0

/-- The same of the registers of a use. -/
def Core.lateAt (k : Core) (u : Use) (loads : Bool) : Nat := k.lateOf (k.readsAndWrites u) loads

/-- R42: the port that a use claims is known: no register that decides it is late. -/
def Core.portKnown (k : Core) (u : Use) : Bool :=
  !u.isOk || k.lateOf ((addressOf u.instr).filterMap k.resolve) false == 0

/-- R308: a wait for late loads until cycle `due` is held for memory. -/
def Core.countLate (k : Core) (due : Nat) : Core := { k with heldMem := k.heldMem + (due - k.cycleNat) }

/-! ### Cuts (R282, R283) -/

/-- The passage that a quiet bundle with cut number `n` makes. -/
def CutState.passage (x : CutState) (n : BitVec 8) : Nat × Nat :=
  match x.lc with
  | none => (x.lap, n.toNat)
  | some l => if l.toNat < n.toNat then (x.lap, n.toNat) else (x.lap + 1, n.toNat)

/-- The next cut ahead. -/
def CutState.ahead (x : CutState) : Nat × Nat :=
  match x.lc with
  | none => (0, 0)
  | some l => if l.toNat < 255 then (x.lap, l.toNat + 1) else (x.lap + 1, 0)

def passageLe (a b : Nat × Nat) : Bool := a.1 < b.1 || (a.1 == b.1 && a.2 ≤ b.2)

/-- R283: the bundle waits for the target. -/
def Core.cutHolds (k : Core) (f : Fetched) : Bool :=
  f.header.qb && k.issue == 0 && k.cut.target.isNone &&
    match k.cut.asked with
    | some a => !passageLe (k.cut.passage f.header.cut) a
    | none => false

/-- R282: the first issue of a quiet bundle. -/
def CutState.pass (x : CutState) (n : BitVec 8) : CutState := { x with lap := (x.passage n).1, lc := some n, within := true }

/-- R283: the core has issued every issue of a quiet bundle at or past the target. -/
def CutState.reached (x : CutState) : Bool :=
  match x.target, x.lc with
  | some t, some l => !x.within && passageLe t (x.lap, l.toNat)
  | _, _ => false

/-- R283: the last issue of a quiet bundle, after which a core that has reached the target stops. -/
def CutState.finish (x : CutState) : CutState :=
  let y := { x with within := false }
  { y with stopped := y.stopped || y.reached }

/-! ### Running the slots -/

/-- The outcome of the slots run so far. -/
structure Run where
  s : State
  traps : List (Nat × TrapRecord) := []
  hold : Option Hold := none
  /-- A held store has ended the quantum it would overflow (R228). -/
  full : Bool := false

/-- One slot's operation, in the context of its slot. -/
def Run.use (r : Run) (u : Use) : Run :=
  let s := r.s.updMe fun k => { k with slot := u.slot.index, reissue := u.j, tileOk := u.tileOk }
  match slotOp u.instr s with
  | .done t => { r with s := t }
  | .trap t => { r with traps := r.traps ++ [(u.slot.index, t)] }
  | .hold h => { r with hold := some (r.hold.getD h) }
  | .wait t h => { r with s := t, hold := some (r.hold.getD h), full := r.full || h == .buffer }

/-- R266: the trap of the lowest-numbered slot. -/
def Run.lowest (r : Run) : Option TrapRecord :=
  (r.traps.foldl (fun (b : Option (Nat × TrapRecord)) t =>
    match b with
    | some x => if x.1 ≤ t.1 then some x else some t
    | none => some t) none).map (·.2)

/-- R35, R36: the record of an engine after an issue that used it. -/
def Use.record (u : Use) : Sticky :=
  if isNop u.instr || (u.named && isOneShot u.instr) then {}
  else { instr := some u.instr, j := u.j, op := u.op, tileOk := u.tileOk }

def stickiesAfter (t : Stickies) (us : List Use) : Stickies := us.foldl (fun t u => t.set u.slot u.record) t

/-- R306: the sub-bundles of a slot at a pressure level. -/
def subBundle (level : Nat) (sl : Slot) : Nat :=
  match level, sl with
  | 0, _ => 0
  | 1, .v1 | 1, .m => 1
  | 1, _ => 0
  | _, .v0 | _, .v1 => 1
  | _, .m => 2
  | _, _ => 0

/-- R306: the slots present in an issue, which are the named and the re-issued ones. -/
def presentSlots (f : Fetched) (us : List Use) : List Slot := Slot.all.filter fun sl => f.words.any (·.1 == sl) || us.any (·.slot == sl)

/-- R306, R307: the cycles a split adds to an issue. -/
def splitExtra (level : Nat) (present : List Slot) : Nat := ((present.map (subBundle level)).eraseDups).length - 1

/-- R287: the HANDLE_WAIT event of an HWAIT that was held. -/
def State.handleWait (s : State) (k : Core) (us : List Use) : State :=
  match k.hold, (us.find? fun u => u.slot == .l).map Use.instr with
  | .hwait, some (.hwait _ g _ h) =>
    s.postEvent s.cur { s.event 8 (k.cycleNat - k.holdSince) (h.toNat + 64 * g.toNat) 0 with src := 0 }
  | _, _ => s

def isTrapOp : Instr → Bool
  | .trap .. => true
  | _ => false

/-- R205: the core diverts where an arrival is pending and no handler runs; the pending results of s24 to s31 arrive first
(R60), that of a SPRINT with its answer. -/
def State.divertNow (s : State) : State :=
  let k := s.me
  if k.status == .running && k.arrCtx.isNone && k.trapCtx.isNone && k.pendingA.isEmpty && k.handles.any (·.arrival) then
    if k.request.any fun r => 24 ≤ r.1.toNat then s.setMe { k with divertDue := true }
    else
      let due := k.pend.foldl (fun m p =>
        if p.writes.any (fun w => match w with | .s i _ => decide (24 ≤ i.toNat) | _ => false) then max m p.due else m) 0
      let s := s.advanceTo s.cur due
      s.setMe (s.divert s.me).force
  else s

/-- R205: after the last issue of an arrival-eligible bundle. -/
def State.divertIfEligible (s : State) (f : Fetched) : State := if f.header.ae then s.divertNow else s

/-- R311: PSTAT.DRP counts split issues. -/
def State.countSplit (s : State) (extra : Nat) : State :=
  if extra == 0 then s else s.updCluster s.myCluster fun y => { y with droopSplits := y.droopSplits + 1 }

/-- The issue commits (R32): sticky records, interlock and cut state, then the L slot's transfer, then its cycles. `base` is the
state before the issue, `s` what its slots but L have made of it. -/
def State.commitBundle (s base : State) (f : Fetched) (us : List Use) : State :=
  let k0 := base.me
  let first := k0.issue == 0
  let extra := splitExtra ((s.cluster s.myCluster).pressureNow s.now) (presentSlots f us)
  let s := (s.handleWait k0 us).updMe fun k => { k with
    hold := if k.hold.waiting then .none else k.hold
    returned := false
    sticky := stickiesAfter k0.sticky us
    interlocked := if first && f.header.rp && !k.restarted then false else k.interlocked
    restarted := if first then false else k.restarted
    cut := if first && f.header.qb then k.cut.pass f.header.cut else k.cut }
  let r := (us.filter fun u => u.slot == .l && !isWait u.instr).foldl Run.use { s := s }
  match r.lowest with
  | some t => base.takePrecise t
  | none =>
    let s := r.s
    let last := k0.issue == f.header.rpt.toNat || us.any (fun u => isTrapOp u.instr)
    let s := s.updMe fun k => { k with
      stop := if last then k.stop || f.header.stop else k.stop
      notBefore := if k.notBefore == k0.notBefore then k.notBefore else k.notBefore + extra
      pend := k.pend.zipIdx.map fun (p, i) => if i < k0.pend.length then p else { p with due := p.due + extra }
      cut := if last && f.header.qb then k.cut.finish else k.cut }
    let s := (s.commitIssue last extra).countSplit extra
    if last then s.divertIfEligible f else s

/-- The core is held from now on, unless it already was in the same way. -/
def State.heldAs (t : State) (k0 : Core) (h : Hold) : State :=
  if k0.hold == h then t.updMe fun k => { k with hold := h, holdSince := k0.holdSince, holdAt := k0.holdAt } else t.holdMe h

/-- The waits of an issue. -/
def State.runWaits (s : State) (us : List Use) : Run := (us.filter fun u => isWait u.instr).foldl Run.use { s := s }

/-- The operations of an issue but for L, by their stages. -/
def Run.ops (r : Run) (us : List Use) : Run :=
  let rest := us.filter fun u => u.slot != .l && !isWait u.instr
  (List.range 5).foldl (fun r n => (rest.filter fun u => stage u.slot u.instr == n).foldl Run.use r) r

/-- R40: a bundle with RP = 1 records the restart snapshot before its first issue. -/
def State.takeSnapshot (s : State) (f : Fetched) : State :=
  if f.header.rp && s.me.issue == 0 then s.updMe fun k => { k with snapshot := { pc := f.at_, stickies := k.sticky } } else s

/-- The slots run: the waits first, then the operations; a trap discards the issue, and so does a hold (R38, R46, R266). DESIGN CHOICE
(notes/assumptions/68.md): a slot's precise trap is taken at the first attempt, where another slot's engine cannot accept yet (R38). -/
def State.runSlots (s : State) (f : Fetched) (us : List Use) : State :=
  let r := s.runWaits us
  match r.lowest, r.hold with
  | some t, _ => s.takePrecise t
  | none, some h => r.s.heldAs s.me h
  | none, none =>
    let r := r.ops us
    let l := (us.filter fun u => u.slot == .l && !isWait u.instr).foldl Run.use r
    match l.lowest, r.hold with
    | some t, _ => s.takePrecise t
    | none, some h => (if h == .buffer && r.full then s.updMe Core.endQuantum else s).heldAs s.me h
    | none, none => r.s.commitBundle s f us

/-- R66, R67: a hazard in strict mode, met by the slots `us`. -/
def State.timingTrap (s : State) (us : List Use) : State :=
  if s.me.tdlv then s.takePrecise (s.slotsTrap Cause.timing us)
  else s.updMe fun k => { k with restart := some k.cycleNat, hold := .none, released := false, arrived := none }

/-- A use whose register is late waits for its engine all the same (R38). -/
def State.lateHold (s : State) (u : Use) : Bool :=
  match slotOp u.instr (s.updMe fun k => { k with slot := u.slot.index, reissue := u.j, tileOk := u.tileOk }) with
  | .hold .accept => true
  | _ => false

/-- A strict issue whose waits are met and some of whose registers are late (R38, R66, R266, notes/assumptions/11.md): held where an
engine cannot accept; else the trap of the lowest slot, which is TIMING or another slot's own. -/
def State.strictHazard (s : State) (us late : List Use) : State :=
  let rest := us.filter fun u => !late.contains u
  let r := (s.runWaits rest).ops rest
  let l := (rest.filter fun u => u.slot == .l && !isWait u.instr).foldl Run.use r
  let first := l.traps.find? fun t => late.all fun u => t.1 < u.slot.index
  match first.bind fun _ => l.lowest, r.hold with
  | some t, _ => s.takePrecise t
  | none, some h => s.heldAs s.me h
  | none, none => if late.any s.lateHold then s.heldAs s.me .accept else s.timingTrap late

/-- The slots of an issue whose registers are late. -/
def Core.lateUses (k : Core) (us : List Use) : List Use := us.filter fun u => k.lateAt u false != 0

/-- Strict mode (R66): a bundle held in a wait has not issued, so that its hazards are met when its waits are met; those of the
waits' own registers at once. -/
def State.issueStrict (s : State) (f : Fetched) (us : List Use) : State :=
  let lateWaits := (s.me.lateUses us).filter fun u => isWait u.instr
  let late := s.me.lateUses us
  let r := s.runWaits us
  if !lateWaits.isEmpty then (s.takeSnapshot f).timingTrap lateWaits
  else if late.isEmpty || r.lowest.isSome || r.hold.isSome then (s.takeSnapshot f).runSlots f us
  else (s.takeSnapshot f).strictHazard us late

/-- Interlocked mode (R66): the whole bundle stalls until no hazard remains, and its ports are tested with every register known. -/
def State.issueInterlocked (s : State) (f : Fetched) (us : List Use) : State :=
  let due := (us.map fun u => s.me.lateAt u false).foldl max 0
  let s := if due == 0 then s
    else (s.updMe fun k => k.countLate ((us.map fun u => k.lateAt u true).foldl max 0)).advanceTo s.cur due
  match s.me.illegal f us fun _ => true with
  | some (cause, bad) => s.takePrecise (s.slotsTrap cause bad)
  | none => (s.takeSnapshot f).runSlots f us

/-- The bundle at hand is tested and issued. DESIGN CHOICE (notes/assumptions/63.md): a STOP acts at the first attempt to issue, and a bundle
that then traps has used it up (R37). -/
def State.issueBundle (s : State) (f : Fetched) : State :=
  let s := s.updMe fun k => { k.applyStop f with pc := f.at_, baddr := f.at_, nextPc := f.next, nextIssue := 0, slot := 0 }
  let us := s.uses f
  match s.me.illegal f us s.me.portKnown with
  | some (cause, bad) => s.takePrecise (s.slotsTrap cause bad)
  | none =>
    if s.me.cutHolds f then s.heldAs s.me .cut
    else if s.me.strict then s.issueStrict f us
    else s.issueInterlocked f us

/-- R49, R267, R270: a page fault of fetch is written and holds the core; FILE_IO, of kind A, is pending at the header; any other fault traps
there. -/
def State.fetchStopped (s : State) (x : DWord) (why : Access Unit) : State :=
  let s := s.updMe fun k => { k with pc := x, baddr := x, nextPc := x + 4, nextIssue := 0, slot := 0 }
  let fault := fun c (va : Nat) => { s.mkTrap c 0 (some (BitVec.ofNat 64 va)) with slots := 0 }
  let hold := fun (s : State) (h : HeldFault) =>
    (s.updMe fun k => { k with fetchFault := some h }).holdMe .fetch
  match why with
  | .ok _ => s
  | .pageFault va =>
    let (k, t) := s.me.queueRecord (fault Cause.pageFault va)
    hold (s.setMe k) { va := BitVec.ofNat 64 va, cls := 0, seq := t.seq }
  | .protection va => s.takePrecise (fault Cause.protection va)
  | .fileWait i sz => hold (s.startFileRead i sz) (heldOnFile i)
  | .fileIo va =>
    if s.me.pendingA.any fun p => p.source == otherSource && p.record.cause == Cause.fileIo then s
    else s.updMe fun k => k.addPending otherSource (fault Cause.fileIo va)

/-! ### When a core may issue -/

/-- R272, R273, R275: a trap of kind A must be taken before the core's next issue, which the further issues of a repeated bundle are
not (R33), unless TRET has come back to one. -/
def Core.trapDue (k : Core) : Bool :=
  !k.pendingA.isEmpty && (k.issue == 0 || k.returned) && k.trapCtx.isNone && k.arrCtx.isNone

/-- Nothing but a hold keeps the core from issuing. -/
def State.mayIssue (s : State) (c : CoreNo) : Bool :=
  let k := s.core c
  k.status == .running && k.restart.isNone && k.fetchFault.isNone && !k.recordWaits 0
    && !(k.matrix.reloading && k.matrix.fault.isNone) && !k.trapDue && !s.mustStop c

/-- One attempt to issue at the core's program counter; where fetch has held it, what has become due in the meantime goes first. -/
def State.attemptIssue (s : State) : State :=
  let r := s.fetch
  let t := s.afterFetch r
  if !t.mayIssue t.cur then t
  else
    match r with
    | .bundle f => t.issueBundle f
    | .stopped x why => t.fetchStopped x why
    | .pads x => t.updMe fun k => { k with pc := x }

/-- The hold lets the core try an issue now. -/
def Core.holdOpen (k : Core) : Bool :=
  match k.hold with
  | .none | .accept | .buffer | .cut | .until _ => true
  | .drain .. => k.issue != 0
  | .bar _ => k.released
  | .hwait | .waitv | .wicket | .mwait | .sprint | .fetch => false

/-- R116, R139: the first issue of the bundle after FMTSET or VPATSW waits for its cycle. -/
def Core.waitTurn (k : Core) : Core :=
  if k.issue == 0 then { k with ctl := { k.ctl with cycle := BitVec.ofNat 64 (max k.cycleNat k.notBefore) } } else k

/-- An attempt after a hold comes at least one cycle later; WAITV polls at least once every 16 (R87), and what waits for a known cycle is
tried in it. -/
def State.passRetry (s : State) (c : CoreNo) : State :=
  match (s.core c).hold with
  | .waitv => (s.riseEnd c).passHeld c 1 (some 16)
  | .until due => s.advanceTo c due
  | h => if h.waiting then s.passHeld c 1 none else s

/-- BUNDLE_ISSUE (R32): one issue of the bundle at the program counter of core `c`. -/
def execBundleIssue (c : CoreNo) (s : State) : Result :=
  if s.mayIssue c && (s.core c).holdOpen then
    let s := { s with cur := c }
    .next ((s.passRetry c).updMe Core.waitTurn |>.landDue c).attemptIssue
  else .next s

/-- A held wait is tried again. -/
def State.retry (s : State) (c : CoreNo) (h : Hold) : State :=
  if s.mayIssue c && (s.core c).hold == h then ({ s with cur := c }.passRetry c).attemptIssue else s

/-- HWAIT_RELEASE (R85). -/
def execHwaitRelease (c : CoreNo) (s : State) : Result := .next (s.retry c .hwait)

/-- WAITV_POLL (R87). -/
def execWaitvPoll (c : CoreNo) (s : State) : Result := .next (s.retry c .waitv)

/-- MWAIT_RELEASE (R172). -/
def execMwaitRelease (c : CoreNo) (s : State) : Result := .next (s.retry c .mwait)

/-- TIMING_RESTART (R67): every pending write has arrived; the snapshot's bundle issues again, interlocked. -/
def execTimingRestart (c : CoreNo) (s : State) : Result :=
  match (s.core c).restart with
  | none => .next s
  | some t =>
    let s := { s with cur := c }
    let s := s.updMe fun k => k.countLate ((k.pend.filter (·.load)).foldl (fun m p => max m p.due) 0)
    let s := s.advanceTo c (s.me.pend.foldl (fun m p => max m p.due) 0)
    let ev := s.event 6 1 (s.me.cycleNat + 1 - t) 0
    let s := s.postEvent c ev
    .next (s.updMe fun k => { k with
      restart := none, pc := k.snapshot.pc, issue := 0, sticky := k.snapshot.stickies, stop := false
      interlocked := true, restarted := true, returned := false
      ctl := { k.ctl with cycle := k.ctl.cycle + 1 } }.force)

/-- RESULT_ARRIVAL (R65): what is due arrives; a core that issues nothing waits for its next result. -/
def execResultArrival (c : CoreNo) (s : State) : Result :=
  let k := s.core c
  match k.pend.map (·.due) with
  | [] => .next s
  | d :: ds =>
    if k.pend.any fun p => p.due ≤ k.cycleNat then .next (s.landDue c)
    else if s.mayIssue c && k.holdOpen then .next s
    else .next (s.advanceTo c (ds.foldl min d))

/-- The kind-A trap taken first (R272). -/
def firstPending (ps : List PendingTrap) : Option PendingTrap :=
  ps.foldl (fun b p =>
    match b with
    | some x => if x.source ≤ p.source then some x else some p
    | none => some p) none

/-- TRAP_DELIVERY (R272): the first pending trap of kind A is taken before the core's next issue, once no hold left by a
DRAIN, a SPRINT or fetch stands before it. -/
def execTrapDelivery (c : CoreNo) (s : State) : Result :=
  let k := s.core c
  let ready := match k.hold with
    | .drain .. | .sprint | .fetch => false
    | _ => true
  match firstPending k.pendingA with
  | none => .next s
  | some p =>
    if k.status == .running && k.restart.isNone && k.trapDue && ready then
      let s := s.updCore c fun k => { k with pendingA := k.pendingA.erase p }
      .next (s.takeTrap c .after p.record p.written k.pc k.issue k.pc)
    else .next s

end Sys2Proof.Machine
end

