-- ==== Sys2Proof/Machine/Notice.lean ====
section
/-! DEFINITION. What the hub does for every errand: notices and their MSI-X messages (R330, R331), the fulfilment of a JOIN
(R321), the trap and statistics rings (R264, R268, R269), and how an errand becomes FAULTED (R323, R325). -/

namespace Sys2Proof.Machine

/-- R263: nanoseconds of the hub's time counter since package reset. -/
def State.hubTime (s : State) : Nat := s.now - s.hub.epoch0

/-- R369: a leading steward holds its lease, so that the leader's duties are done. -/
def State.led (s : State) : Bool := s.now < s.hub.steward.expiry

/-- A BAR 0 register takes a value. -/
def State.putBar0 (s : State) (off : Nat) (v : DWord) : State := s.updHub fun h => { h with bar0 := h.bar0.set off v }

/-! ### Notices (R330, R331) -/

namespace Reason
def signal : Nat := 1
def join : Nat := 2
def trap : Nat := 3
def faulted : Nat := 4
def joinpt : Nat := 5
def done : Nat := 6
def killed : Nat := 7
def failover : Nat := 8
def orphan : Nat := 9
end Reason

def Hub.notices (h : Hub) : Port → NoticeBlock
  | .a => h.noticeA
  | .b => h.noticeB

def Hub.setNotices (h : Hub) (p : Port) (n : NoticeBlock) : Hub :=
  match p with
  | .a => { h with noticeA := n }
  | .b => { h with noticeB := n }

/-- R331: records in the notice ring. -/
def NoticeBlock.size (n : NoticeBlock) : Nat := 2 ^ (n.nrbase.toNat % 16 + 8)

/-- R330: the 16 bytes of a notice. -/
def noticeBytes (e : Errand) (r : RecNo) (reason arg : Nat) : List Byte :=
  leBytes 8 e.token.toNat ++ leBytes 2 r.toNat ++ leBytes 1 reason ++ leBytes 1 0 ++ leBytes 4 arg

/-- R330, R331: a notice for errand `r` goes to the ring of a port, or is counted lost; its MSI-X message is sent after it. -/
def State.noticeAt (s : State) (r : RecNo) (port : Port) (reason arg : Nat) : State :=
  let e := s.errand r
  let n := s.hub.notices port
  let vec := e.home.toNat % 2048
  let s := s.updHub fun h => { h with msix := h.msix ++ [{ port := port, vector := vec }] }
  if (n.prod - n.cons).toNat == n.size then
    s.updHub fun h => h.setNotices port { n with lost := n.lost + 1 }
  else
    let a := bitsOf n.nrbase.toNat 12 40 * 4096 + 16 * (n.prod.toNat % n.size)
    { s with host := s.host.write a (noticeBytes e r reason arg) }.updHub fun h =>
      h.setNotices port { n with prod := n.prod + 1 }

/-- A notice to the ring of the errand's own port. -/
def State.notice (s : State) (r : RecNo) (reason arg : Nat) : State := s.noticeAt r (s.errand r).port reason arg

/-! ### Rings (R268, R269) -/

/-- What an access to a ring comes to: written, with the new PROD; the ring is full; its file page is being read (R371); or a
fault at its memory. -/
inductive RingRes where
  | done (prod : DWord)
  | full
  | wait
  | fault
  deriving DecidableEq, Repr

def ringBase (ring : DWord) : Nat := bitsOf ring.toNat 6 51 * 64
def ringSize (ring : DWord) : Nat := 2 ^ (ring.toNat % 16 + 6)

/-- A ring access that has not succeeded (R269, R371). -/
def State.ringStop {α : Type} (s : State) : Access α → State × RingRes
  | .fileWait i sz => (s.startFileRead i sz, .wait)
  | _ => (s, .fault)

/-- R269: bits are set in FLAGS, and records counted as dropped. -/
def State.flagRing (s : State) (asid : BitVec 12) (ring : DWord) (dropped : Nat) : State × RingRes :=
  let a := ringBase ring + 16
  match s.vread asid a 8 with
  | .ok bs =>
    let w := leNat bs
    let w := (w / 2 ^ 32 + dropped) % 2 ^ 32 * 2 ^ 32 + (BitVec.ofNat 32 w ||| 1#32).toNat
    match s.vwrite asid a (leBytes 8 w) with
    | (t, .ok _) => (t, .full)
    | (t, r) => t.ringStop r
  | r => s.ringStop r

/-- R268, R269: a record enters the ring and PROD advances after it; a full ring sets LOST, and counts the record where it
is dropped. -/
def State.appendRing (s : State) (asid : BitVec 12) (ring : DWord) (rec_ : List Byte) (drop : Bool) : State × RingRes :=
  let b := ringBase ring
  match s.vread asid b 16 with
  | .ok bs =>
    let prod := leNat (bs.take 8)
    let cons := leNat (bs.drop 8)
    if (prod + 2 ^ 64 - cons) % 2 ^ 64 == ringSize ring then s.flagRing asid ring (if drop then 1 else 0)
    else
      match s.vwrite asid (b + 64 + rec_.length * (prod % ringSize ring)) rec_ with
      | (t, .ok _) =>
        let prod' := (prod + 1) % 2 ^ 64
        match t.vwrite asid b (leBytes 8 prod') with
        | (u, .ok _) => (u, .done (BitVec.ofNat 64 prod'))
        | (u, r) => u.ringStop r
      | (t, r) => t.ringStop r
  | r => s.ringStop r

/-! ### The errand's rest (R321) and its faults (R323, R325) -/

namespace Estat
def ok : BitVec 16 := 0
def badStep : BitVec 16 := 1
def badKernel : BitVec 16 := 2
def noCrew : BitVec 16 := 3
def noSave : BitVec 16 := 4
def launchFault : BitVec 16 := 5
def xferFault : BitVec 16 := 6
def loftBusy : BitVec 16 := 7
def stepFault : BitVec 16 := 8
def ringFault : BitVec 16 := 9
end Estat

/-- R321: at rest. -/
def Errand.atRest (e : Errand) : Bool :=
  match e.state with
  | .done | .killed | .faulted => true
  | .parked => e.reason == .host || e.reason == .failover
  | .waiting => e.reason == .joinpt
  | _ => false

/-- R264: the next SEQ of a unit of classes 4 to 7 for an errand. -/
def Errand.takeSeq (e : Errand) (cls unit : Nat) : Errand × BitVec 24 :=
  let n := ((e.seqs.find? fun x => x.1 == (cls, unit)).map (·.2)).getD 0
  ({ e with seqs := ((cls, unit), n + 1) :: e.seqs.filter fun x => x.1 != (cls, unit) }, n)

/-- R269: records of an errand that a hub source keeps waiting. -/
def hubRecords : Nat := 16

/-- R264, R269: a record of classes 4 to 7 for errand `r` waits for the ring, or is dropped and counted beyond sixteen; whether the ring's
memory faulted at that. -/
def State.keepRecord (s : State) (r : RecNo) (t : TrapRecord) : State × TrapRecord × Bool :=
  let (e, n) := (s.errand r).takeSeq t.cls.toNat t.unit.toNat
  let t := { t with seq := n, errno := r.setWidth 16, stamp := BitVec.ofNat 64 s.hubTime }
  if hubRecords ≤ e.records.length then
    let (u, res) := (s.setErrand r e).flagRing e.asid e.trap 1
    (u, t, res == .fault)
  else (s.setErrand r { e with records := e.records ++ [t] }, t, false)

/-- R323, R325: the errand is FAULTED with a status and the index of its step; fetch ends. -/
def State.markFaulted (s : State) (r : RecNo) (status : BitVec 16) (fidx : Nat) : State :=
  match (s.errand r).state with
  | .killed | .done | .idle | .faulted => s
  | _ => (s.updErrand r fun e => { e with
      state := .faulted, reason := .none, estat := status, fidx := BitVec.ofNat 64 fidx
      waitStep := none, waitFault := none, fetchFault := none }).notice r Reason.faulted fidx

/-- R323: the step that RING_FAULT names. -/
def Errand.ringStep (e : Errand) : Nat := ((e.inflight.head?).map (·.index)).getD e.next

/-- R269: the running launch of an errand stops without a save. -/
def State.stopLaunch (s : State) (r : RecNo) : State :=
  (s.hub.crews.filter fun w => w.errand == r && !w.killed).foldl (fun s w =>
    match w.cores.head? with
    | some c => s.stopCrew c
    | none => s) s

/-- A record of class 6 (R264): a fault at a virtual address. -/
def hubRecord (cause : BitVec 5) (va : Nat) : TrapRecord :=
  { cls := 6, cause := cause, av := true, faddr := BitVec.ofNat 57 va }

/-- The cause and address of an access that failed otherwise than by a page fault. -/
def Access.failure {α : Type} : Access α → Option (BitVec 5 × Nat)
  | .protection v => some (Cause.protection, v)
  | .fileIo v => some (Cause.fileIo, v)
  | _ => none

/-- R324: NEXT as it reads. -/
def Errand.nextIndex (e : Errand) : Nat := e.next % 2 ^ 20

/-- R321: an armed JOIN of an errand at rest is fulfilled: V is written, the JOIN disarmed, and a JOIN notice sent, unless `quiet`. A fault
on the completion word disarms it with a record of class 6; a completion word on a file page that must be read waits for it (R371,
notes/assumptions/67.md). -/
def State.fulfilJoin (s : State) (r : RecNo) (quiet : Bool := false) : State :=
  let e := s.errand r
  match e.join with
  | none => s
  | some (a, v) =>
    if !e.atRest then s else
    let off := s.setErrand r { e with join := none }
    let fail := fun (t : State) (x : TrapRecord) =>
      match t.keepRecord r x with
      | (u, _, true) => (u.stopLaunch r).markFaulted r Estat.ringFault (u.errand r).ringStep
      | (u, _, false) => u
    match off.vwrite e.asid a.toNat (leBytes 8 v.toNat) with
    | (t, .ok _) => if quiet then t else t.notice r Reason.join e.nextIndex
    | (t, .fileWait i sz) => (t.setErrand r e).startFileRead i sz
    | (t, .pageFault va) => fail t (hubRecord Cause.pageFault va)
    | (t, res) => fail t (hubRecord ((res.failure.map (·.1)).getD Cause.fileIo) a.toNat)

/-- R323, R325: the errand is FAULTED, and an armed JOIN is fulfilled. -/
def State.faultErrand (s : State) (r : RecNo) (status : BitVec 16) (fidx : Nat) : State :=
  match (s.errand r).state with
  | .killed | .done | .idle | .faulted => s
  | _ => (s.markFaulted r status fidx).fulfilJoin r

/-- R269: a fault at a ring's memory: the running launch stops without a save, and the errand is FAULTED. -/
def State.ringFaulted (s : State) (r : RecNo) : State :=
  let s := s.stopLaunch r
  s.faultErrand r Estat.ringFault (s.errand r).ringStep

/-- A record of a hub source for errand `r` (R264, R269). -/
def State.queueHub (s : State) (r : RecNo) (t : TrapRecord) : State × TrapRecord :=
  match s.keepRecord r t with
  | (u, t, true) => (u.ringFaulted r, t)
  | (u, t, false) => (u, t)

/-- A record leaves a core's queue. -/
def Core.popRecord (k : Core) (t : TrapRecord) : Core :=
  { k with records := k.records.erase t, ringHeld := k.ringHeld &&& ~~~(1#4 <<< t.cls.toNat) }

/-- R269: an uncorrectable error at the ring's memory is met by the next record of an errand that is to be written there; the record is
lost. -/
def State.ringError (s : State) (r : RecNo) : State :=
  match (s.errand r).records with
  | _ :: rest => (s.updErrand r fun e => { e with records := rest }).ringFaulted r
  | [] =>
    match (s.hub.crews.filter fun w => w.errand == r).flatMap (·.cores) |>.find? fun c => !(s.core c).records.isEmpty with
    | some c => (s.updCore c fun k => (k.records.head?).elim k k.popRecord).ringFaulted r
    | none => s

/-- TRAP_RECORD_WRITE, a core's units (R269). -/
def State.writeCoreRecord (s : State) (src : Source) : State :=
  let c : CoreNo := src.unit
  let k := s.core c
  match k.records.find? fun t => t.cls == src.cls with
  | none => s
  | some t =>
    let r := k.theLaunch.errand
    let pop := fun (k : Core) => k.popRecord t
    match s.appendRing k.theLaunch.asid k.theLaunch.trapring t.bytes false with
    | (u, .done p) =>
      ((u.updCore c pop).updErrand r fun e => { e with prodSeen := p }).notice r Reason.trap t.seq.toNat
    | (u, .wait) => u
    | (u, .full) => u.updCore c fun k => { k with ringHeld := k.ringHeld ||| 1#4 <<< src.cls.toNat }
    | (u, .fault) => (u.updCore c pop).ringFaulted r

/-- The errand that has a record of a hub source waiting, the lowest first. -/
def Hub.recordOf (h : Hub) (src : Source) : Option (RecNo × TrapRecord) :=
  (List.range 2048).findSome? fun i =>
    let r : RecNo := BitVec.ofNat 11 i
    (h.errands[r.toNat].records.find? fun t => t.cls == src.cls && t.unit == src.unit).map fun t => (r, t)

/-- TRAP_RECORD_WRITE (R269): the source's oldest record is performed at SYS, PROD advances, and the TRAP notice is sent. -/
def execTrapRecordWrite (src : Source) (s : State) : Result :=
  if src.cls.toNat < 4 then .next (s.writeCoreRecord src)
  else
    match s.hub.recordOf src with
    | none => .next s
    | some (r, t) =>
      let e := s.errand r
      let pop := fun (e : Errand) => { e with records := e.records.erase t }
      match s.appendRing e.asid e.trap t.bytes false with
      | (u, .done p) =>
        .next ((u.updErrand r fun e => { pop e with prodSeen := p }).notice r Reason.trap t.seq.toNat)
      | (u, .full) | (u, .wait) => .next u
      | (u, .fault) => .next ((u.updErrand r pop).ringFaulted r)

/-! ### Hub accesses by virtual address (R325) -/

/-- A page fault of the hub: its record is written, and the unit holds on it (R270). -/
def State.hubPageFault (s : State) (r : RecNo) (t : TrapRecord) (va : Nat) (wr : Bool) : State × HeldFault :=
  let (s, t) := s.queueHub r { t with cause := Cause.pageFault, av := true, faddr := BitVec.ofNat 57 va }
  (s, { va := BitVec.ofNat 64 va, wr := wr, cls := t.cls, seq := t.seq })

/-- What a hub access comes to: its value, a hold, or a fault that ends the step. -/
inductive HubRes (α : Type) where
  | ok (a : α)
  | held (f : HeldFault)
  | fault
  deriving DecidableEq, Repr

/-- A hub access of errand `r` (R270, R325, R371). -/
def State.hubAccess {α : Type} (s : State) (r : RecNo) (wr : Bool) : Access α → State × HubRes α
  | .ok a => (s, .ok a)
  | .pageFault va =>
    let (s, h) := s.hubPageFault r { cls := 6 } va wr
    (s, .held h)
  | .fileWait i sz => (s.startFileRead i sz, .held (heldOnFile i))
  | .protection _ | .fileIo _ => (s, .fault)

def State.hubRead (s : State) (r : RecNo) (a : DWord) (n : Nat) : State × HubRes (List Byte) :=
  s.hubAccess r false (s.vread (s.errand r).asid a.toNat n)

def State.hubWrite (s : State) (r : RecNo) (a : DWord) (bs : List Byte) : State × HubRes Unit :=
  let (t, res) := s.vwrite (s.errand r).asid a.toNat bs
  t.hubAccess r true res

end Sys2Proof.Machine
end

