-- ==== Sys2Proof/Machine/Traps.lean ====
section
/-! DEFINITION. Containment (R277, R278), cuts (R282, R283), and the statistics streams (R288, R290). -/

namespace Sys2Proof.Machine

/-! ### Containment -/

/-- The undefined bytes of a contained memory (notes/assumptions/1.md). -/
def containedMem (n at_ size : Nat) : Mem :=
  Mem.cells 0 ((List.range size).map fun i => BitVec.ofNat 8 (Config.contained n (at_ + i)))

def containedReg (n i w : Nat) : BitVec w := BitVec.ofNat w (Config.contained n i)

def containedBit (n i : Nat) : Bool := containedReg n i 1 == 1#1

/-- An undefined entry of the handle table, in sixteen values from `i` on. -/
def containedHandle (n i : Nat) : Handle :=
  { base := containedReg n i 32, size := containedReg n (i + 1) 32, st := containedReg n (i + 2) 2, o := containedReg n (i + 3) 1
    psn := containedReg n (i + 4) 1, err := containedReg n (i + 5) 4, landed := containedReg n (i + 6) 20, rd := containedReg n (i + 7) 20
    arm := containedBit n (i + 8), entry := containedReg n (i + 9) 64
    ring := if containedBit n (i + 10) then some (containedReg n (i + 11) 3) else none
    abort := containedBit n (i + 12), fetch := containedBit n (i + 13), arrival := containedBit n (i + 14) }

def containedRing (n i : Nat) : Option Ring :=
  if containedBit n i then some {
    f := containedReg n (i + 1) 6, l := containedReg n (i + 2) 7, out := containedBit n (i + 3), p := containedReg n (i + 4) 7
    c := containedReg n (i + 5) 7 }
  else none

/-- Undefined control registers; CYCLE and QUANT.END go on counting for the core's cluster and records. -/
def containedCtl (n i : Nat) (x : Ctl) : Ctl :=
  { x with
    mode := containedReg n i 5, trapvec := containedReg n (i + 1) 64, statcfg := containedReg n (i + 2) 64, statwin := containedReg n (i + 3) 64
    statthr := Vector.ofFn fun j => containedReg n (i + 4 + j) 64
    fb := containedReg n (i + 9) 6, flev := containedReg n (i + 10) 3, rowp := containedReg n (i + 11) 7, genCount := containedReg n (i + 12) 32
    hln := containedReg n (i + 13) 4, hls := containedReg n (i + 14) 4, hle := containedReg n (i + 15) 4, hlw := containedReg n (i + 16) 4
    rnd := containedReg n (i + 17) 2, bound := containedReg n (i + 18) 4, flags := containedReg n (i + 19) 4, xcnt := containedReg n (i + 20) 8
    rev := containedBit n (i + 21), arrCnt := containedReg n (i + 22) 8, arrHnd := containedReg n (i + 23) 6 }

/-- R277: the private state of a contained core: its contents are undefined, its operations abandoned, its store buffer gone. -/
def Core.contain (k : Core) (n : Nat) : Core :=
  { k with
    status := .contained, hold := .none, sticky := Stickies.idle, buffer := [], pend := [], c0 := {}, c1 := {}, restart := none
    request := none, answer := none, divertDue := false, pendingA := [], fetchFault := none, trapCtx := none, arrCtx := none
    arrived := none, released := false, returned := false
    bench := containedMem n (2 ^ 24) benchSize
    s := Vector.ofFn fun i => containedReg n i 64
    b := Vector.ofFn fun i => containedReg n (32 + i) 32
    q := Vector.ofFn fun i => containedReg n (40 + i) 1
    n := Vector.ofFn fun i => containedReg n (48 + i) 32
    arr := Vector.ofFn fun i => containedReg n (56 + i) 64
    v := Vector.ofFn fun i => containedReg n (64 + i) 1024
    k := Vector.ofFn fun i => containedReg n (96 + i) 128
    m := Vector.ofFn fun i => containedReg n (104 + i) 64
    g := Vector.ofFn fun i => containedReg n (112 + i) 32
    handles := Vector.ofFn fun i => containedHandle n (200 + 16 * i)
    rings := Vector.ofFn fun i => containedRing n (1300 + 8 * i)
    ctl := containedCtl n 1400 k.ctl
    matrix := { k.matrix with
      queue := [], running := none, routine := none, fetches := [], fault := none, closed := false, reloading := false
      completed := k.matrix.accepted
      ustore := containedMem n (2 ^ 25) 16384
      udir := Vector.ofFn fun i => (containedReg n (2000 + 2 * i) 11, containedReg n (2001 + 2 * i) 12)
      acc := containedMem n (2 ^ 26) accSize } }

/-- R188: the handle that a ring operation waits on: the one at its pointer, where that is not in the state that the operation needs. -/
def Core.ringWait (k : Core) (i : Instr) : Option Handle :=
  let at_ := fun (n : Nat) (producer : Bool) (st : BitVec 2) (o : BitVec 1) =>
    ((k.ring n).map fun r => k.handle (r.at (if producer then r.p else r.c))).filter fun h => !(h.st == st && h.o == o)
  match i with
  | .advp _ r => at_ r.toNat true Hs.free 0
  | .advc _ r => at_ r.toNat false Hs.full 0
  | .copy _ g h .. | .gather _ g h .. | .tilef _ g h .. | .fillh _ g h .. => if g = 1 then at_ h.toNat true Hs.free 1 else none
  | .copyo _ g h .. | .scattr _ g h .. => if g = 1 then at_ h.toNat false Hs.full 1 else none
  | _ => none

/-- The ring waits that hold an issue: each slot that waits, with its handle; C1 is checked after C0 (R184). -/
def State.ringWaits (s : State) (us : List Use) : List (Use × Handle) :=
  ((us.filter fun u => u.slot == .c0 || u.slot == .c1).foldl (fun (acc : Run × List (Use × Handle)) u =>
    let r := acc.1.use u
    match u.isOk && r.hold.isSome && acc.1.hold.isNone, acc.1.s.me.ringWait u.instr with
    | true, some h => ({ r with hold := none }, acc.2 ++ [(u, h)])
    | _, _ => ({ r with hold := none }, acc.2)) ({ s := s }, [])).2

/-- The slots of the bundle that holds the core under way. -/
def State.heldUses (s : State) : List Use :=
  match s.fetch with
  | .bundle f => s.me.uses f
  | _ => []

def Handle.atRest (h : Handle) : Bool := h.st == Hs.free || h.st == Hs.full

/-- R278: the slot and opcode whose wait, of the held core under way, the containment of core `c` ends. -/
def State.waitLost (s : State) (c : CoreNo) : Option (Nat × Nat) :=
  let k := s.me
  if k.status != .running then none
  else
    match k.hold with
    | .bar _ => if clusterOf c == s.myCluster then some (0, 0x0D) else none
    | .waitv => if clusterOf c == s.myCluster then some (0, 0x0E) else none
    | .hwait => (s.heldUses.find? fun u => u.isOk && match u.instr with
        | .hwait _ g p h => (k.waitedHandle g p h).any fun x => (k.handle x).atRest
        | _ => false).map fun u => (u.slot.index, u.op)
    | .accept => ((s.ringWaits s.heldUses).find? fun x => x.2.atRest).map fun x => (x.1.slot.index, x.1.op)
    | _ => none

/-- R278: the wait of core `d` ends with PEER_LOST at once, where the containment of core `c` ends it. -/
def State.losePeer (s : State) (c d : CoreNo) : State :=
  let s := { s with cur := d }
  match s.waitLost c with
  | none => s
  | some (slot, op) =>
    let s := s.updMe fun k => { k with slot := slot }
    s.takePrecise (s.mkTrap Cause.peerLost op)

/-- R277, R278: core `c` is contained, its record naming memory `mem`; its crew's waits and collectives on it end. -/
def State.containCore (s : State) (w : Crew) (c : CoreNo) (mem : BitVec 3) : State :=
  let s := { s with cur := c }
  let t := { s.mkTrap Cause.ecc 0 none false mem.toNat with slots := 0 }
  let s := (s.setMe (s.me.queueRecord t).1).updMe fun k => k.contain s.free
  let s := s.takeFree
  let s := s.updCluster (clusterOf c) fun y => { y with sacc := y.sacc.filter fun m => m.core != c }
  let s := (w.cores.filter (· != c)).foldl (fun s d => s.losePeer c d) s
  let s := s.updCrews fun x => if x.clusters.contains (clusterOf c) then
    { x with faulted := true, containedAt := some (x.containedAt.getD s.now) } else x
  s.loseErrand w.errand

/-- CONTAINMENT_WAIT_TIMEOUT (R277): a core held in one wait for 10 ms after a containment in its crew is stopped. -/
def execContainmentWaitTimeout (c : CoreNo) (s : State) : Result :=
  let k := s.core c
  match (s.crewAt c).bind (·.containedAt) with
  | none => .next s
  | some t =>
    if k.status == .running && k.hold != .none && max t k.holdAt + 10000000 ≤ s.now then
      .next (s.updCore c fun k => { k with status := .stopped, sticky := Stickies.idle, hold := .none })
    else .next s

/-! ### Cuts -/

/-- R172, R283: nothing is in flight in the engines of a core. -/
def State.enginesIdle (s : State) (c : CoreNo) : Bool := s.matrixIdle c && (s.core c).c0.queue.isEmpty && (s.core c).c1.queue.isEmpty

/-- The crews that errand `r` is to be stopped with: its gang's crews for a gang stop, else its own (R283, R338). -/
def State.cutCrews (s : State) (r : RecNo) : List Crew :=
  let e := s.errand r
  let gang := match e.cutAsked with
    | some (_, false) => e.gang
    | _ => none
  s.hub.crews.filter fun w => !w.killed && (w.errand == r ||
    (gang.isSome && (s.errand w.errand).gang == gang && (s.errand w.errand).cutAsked.elim false (!·.2)))

def State.cutCores (s : State) (r : RecNo) : List CoreNo := (s.cutCrews r).flatMap Crew.cores

/-- R283: the stop request reaches the cores: each reports its next cut ahead. -/
def State.askCut (s : State) (w : Crew) : State :=
  w.cores.foldl (fun s c => s.updCore c fun k => { k with cut := { k.cut with asked := some k.cut.ahead, target := none, stopped := false } }) s

def maxPassage (ps : List (Nat × Nat)) : Nat × Nat := ps.foldl (fun a b => if passageLe a b then b else a) (0, 0)

/-- R230, R279.3, R283.3: a core that has stopped ends its quantum, after those that it has ended by being held. -/
def State.stopQuantum (s : State) (c : CoreNo) : State :=
  if (s.core c).stopEnded || (s.core c).atEnd then s
  else (s.riseEnd c).updCore c fun k => { k.endQuantum with stopEnded := true }

/-- R283: the core has stopped, or counts as stopped, and no engine works. -/
def State.cutStopped (s : State) (c : CoreNo) : Bool :=
  let k := s.core c
  (k.atEnd || k.cut.stopped) && s.enginesIdle c && k.pend.isEmpty && k.request.isNone

/-- R229, R279.3: the quanta that a stopped core has ended have committed. -/
def State.quantaDone (s : State) (c : CoreNo) : Bool :=
  let k := s.core c
  k.buffer.isEmpty && (k.atEnd || (k.stopEnded && decide (k.ctl.quantEnd.toNat ≤ (s.cluster (clusterOf c)).committed)))

def State.endCut (s : State) (cs : List CoreNo) : State :=
  cs.foldl (fun s c => (s.riseEnd c).updCore c fun k => { k with
    cut := { k.cut with asked := none, target := none, stopped := false }, stopEnded := false, hold := if k.hold == .cut then .none else k.hold }) s

/-- The cores of a cut that is reached stay stopped for their save. -/
def State.keepStopped (s : State) (cs : List CoreNo) : State :=
  cs.foldl (fun s c => s.updCore c fun k => { k with stopEnded := true }) s

/-- CUT_REACHED (R283): once every report is in, the target is their maximum; a core that has stopped ends its quantum; once every
core has stopped and its quanta have committed, the cut is reached: CUTT holds the target, and the crews are saved, parked for the
host or held for their gang (R332, R338). -/
def execCutReached (r : RecNo) (s : State) : Result :=
  match (s.errand r).cutAsked with
  | none => .next s
  | some (_, park) =>
    let cs := s.cutCores r
    let asked := cs.filterMap fun c => (s.core c).cut.asked
    if asked.isEmpty then .next s
    else
      let t := maxPassage asked
      if cs.any fun c => (s.core c).cut.asked.isSome && (s.core c).cut.target.isNone then
        .next (cs.foldl (fun s c => s.updCore c fun k => { k with
          cut := { k.cut with target := some t, stopped := { k.cut with target := some t }.reached } }) s)
      else if cs.any fun c => s.cutStopped c && !(s.core c).atEnd && !(s.core c).stopEnded then
        .next (cs.foldl (fun s c => if s.cutStopped c then s.stopQuantum c else s) s)
      else if cs.all fun c => s.cutStopped c && s.quantaDone c then
        let ws := s.cutCrews r
        let s := ws.foldl (fun s w => s.updErrand w.errand fun e => { e with
          cutt := BitVec.ofNat 32 (t.1 * 256 + t.2), cutAsked := none
          saving := some (if park then .host else .gang) }) s
        let s := s.updCrews fun w => if ws.any fun x => x.clusters == w.clusters then { w with stopping := true } else w
        .next ((s.endCut cs).keepStopped cs)
      else .next s

/-- CUT_TIMEOUT (R283, R332): a cut not reached within 100 ms fails with CUT_FAIL, and the cores go on. -/
def execCutTimeout (r : RecNo) (s : State) : Result :=
  match (s.errand r).cutAsked with
  | none => .next s
  | some (t, _) =>
    if s.now < t + 100000000 then .next s
    else
      let ws := s.cutCrews r
      let s := s.endCut (s.cutCores r)
      let fail := fun (e : Errand) =>
        let e := { e with cutAsked := none }
        match e.port with
        | .a => { e with pstatA := 6 }
        | .b => { e with pstatB := 6 }
      .next ((ws.foldl (fun s w => s.updErrand w.errand fail) s).updErrand r fail)

/-! ### Statistics -/

/-- STAT_RECORD_DRAIN (R288): the oldest record of the on-core ring goes to the errand's ring in HBM, or is dropped where
that is full. -/
def execStatRecordDrain (c : CoreNo) (s : State) : Result :=
  let k := s.core c
  match k.statRing with
  | [] => .next s
  | w :: rest =>
    if !k.inForce.statcfg.getLsbD 16 || k.launch.isNone then .next s
    else
      let l := k.theLaunch
      let (t, res) := s.appendRing l.asid l.statring (leBytes 8 w.1.toNat ++ leBytes 8 w.2.toNat) true
      let pop := t.updCore c fun k => { k with statRing := rest }
      match res with
      | .fault => .next (pop.ringFaulted l.errand)
      | .wait => .next t
      | _ => .next pop

/-- R269, R288: an uncorrectable error at the statistics ring's memory is met by the next record of the core; the record is lost. -/
def State.statRingError (s : State) (c : CoreNo) : State :=
  let k := s.core c
  if k.statRing.isEmpty || !k.inForce.statcfg.getLsbD 16 || k.launch.isNone then s
  else (s.updCore c fun k => { k with statRing := k.statRing.tail }).ringFaulted k.theLaunch.errand

/-- STATISTICS_WINDOW (R290): a window of LEN cycles ends, and every threshold's sum restarts at zero. -/
def execStatisticsWindow (c : CoreNo) (s : State) : Result := .next (s.updCore c Core.rollWindow)

end Sys2Proof.Machine
end

