-- ==== Sys2Proof/Machine/Kernel.lean ====
section
/-! DEFINITION. Kernel descriptors and launch images (R328, R388), as a LAUNCH reads them, and the state in which a crew's
cores and yards start a kernel (R58, R59, R121, R387 and the chapters they cite). -/

namespace Sys2Proof.Machine

/-! ### Descriptors (R328) -/

/-- A little-endian field of a block of bytes. -/
def fieldOf (bs : List Byte) (at_ n : Nat) : Nat := leNat ((bs.drop at_).take n)

/-- The descriptor's own rules; what it names is read afterwards. -/
def kernelOfDescriptor (d : List Byte) : Option (Kernel × DWord × DWord) :=
  let f := fieldOf d
  let n := f 20 1 * f 21 1
  if f 8 8 % 16 == 0 && f 20 1 < 128 && f 21 1 < 128 && f 22 1 < 32 && 1 ≤ n && n ≤ 64 && 1 ≤ f 24 4 && f 24 4 ≤ 65536
      && f 28 4 == 0 && f 56 8 == 0 then
    some ({ kid := BitVec.ofNat 64 (f 0 8), code := BitVec.ofNat 64 (f 8 8), csize := f 16 4
            sx := BitVec.ofNat 7 (f 20 1), sy := BitVec.ofNat 7 (f 21 1), mode0 := BitVec.ofNat 5 (f 22 1)
            fitgrow := if f 23 1 == 0 then 8 else f 23 1, maxred := f 24 4, config := BitVec.ofNat 64 (f 40 8) },
          BitVec.ofNat 64 (f 32 8), BitVec.ofNat 64 (f 48 8))
  else none

/-- Clusters of the crew (R14, R328). -/
def Kernel.crew (k : Kernel) : Nat := k.sx.toNat * k.sy.toNat

/-- R328: the original address at which crew core `r` starts. -/
def Kernel.entryOf (k : Kernel) (r : Nat) : DWord :=
  match k.roles[r]? with
  | some w => k.code + w.setWidth 64
  | none => k.code

/-! ### Launch images (R388) -/

/-- A launch image taken apart. -/
structure Image where
  constLo : Nat := 0
  constHi : Nat := 0
  handles : List (Nat × Nat) := []
  rings : List Nat := []
  fmts : List Nat := []
  routines : List Nat := []
  uwords : List Byte := []
  records : List (Nat × List Byte) := []
  deriving DecidableEq, Repr

/-- The data records of an image; `none` where a record, its zeros up to a multiple of 8 with it, runs past the image, or its bytes past the
memory they name. -/
def imageRecords : Nat → List Byte → Option (List (Nat × List Byte))
  | 0, _ => some []
  | n + 1, bs =>
    let a := fieldOf bs 0 4
    let len := fieldOf bs 4 4
    let body := bs.drop 8
    let whole := (len + 7) / 8 * 8
    if bs.length < 8 || body.length < whole || ((body.take whole).drop len).any (· != 0) then none
    else
      match localOf a len with
      | some .bench | some .yard =>
        (imageRecords n (body.drop whole)).map fun rs => (a, body.take len) :: rs
      | _ => none

/-- R181: the declared regions. -/
def handlesOk (hs : List (Nat × Nat)) : Bool :=
  (hs.all fun h => h.2 == 0 || (h.1 % 16 == 0 && h.2 % 16 == 0 && h.1 + h.2 ≤ benchSize))
    && decide (hs.Pairwise fun a b => (a.2 == 0 || b.2 == 0 || !overlaps a.1 a.2 b.1 b.2) = true)

/-- A ring entry's run and direction; `none` for no ring. -/
def ringOf (w : Nat) : Option Ring :=
  if bitsOf w 6 7 == 0 then none
  else some { f := BitVec.ofNat 6 w, l := BitVec.ofNat 7 (bitsOf w 6 7), out := bitsOf w 13 1 == 1 }

/-- R187: runs within the handles, no two of which share a handle. -/
def ringsOk (ws : List Nat) : Bool :=
  let rs := ws.filterMap ringOf
  (ws.all fun w => w < 2 ^ 14) && (rs.all fun r => r.f.toNat + r.l.toNat ≤ 64)
    && decide (rs.Pairwise fun a b => overlaps a.f.toNat a.l.toNat b.f.toNat b.l.toNat = false)

/-- R154: the store holds 2,048 words. -/
def routineOk (w : Nat) : Bool := w < 2 ^ 23 && bitsOf w 0 11 + bitsOf w 11 12 ≤ 2048

/-- The image, or `none` where it breaks R388 (R328). -/
def parseImage (bs : List Byte) : Option Image :=
  let f := fieldOf bs
  let nu := f 3632 4
  let im : Image := {
    constLo := f 8 4, constHi := f 12 4
    handles := (List.range 64).map fun i => (f (16 + 8 * i) 4, f (20 + 8 * i) 4)
    rings := (List.range 8).map fun i => f (528 + 4 * i) 4
    fmts := (List.range 64).map fun i => f (560 + 32 * i) 32
    routines := (List.range 256).map fun i => f (2608 + 4 * i) 4
    uwords := (bs.drop 3640).take (8 * nu) }
  if f 0 4 == 1 && f 4 4 == bs.length && 3640 + 8 * nu ≤ bs.length && nu ≤ 2048 && handlesOk im.handles && ringsOk im.rings
      && im.fmts.all fmtImageOk && im.routines.all routineOk then
    (imageRecords (f 3636 4) (bs.drop (3640 + 8 * nu))).map fun rs => { im with records := rs }
  else none

def Kernel.theImage (k : Kernel) : Image := (parseImage k.image).getD {}

def wordsOf (bs : List Byte) : List Word := (chunks 4 (bs.length / 4 + 1) bs).map fun b => BitVec.ofNat 32 (leNat b)

/-- R328: the launch image at `a`; `none` where it breaks R388. -/
def State.readImage (s : State) (r : RecNo) (a : DWord) : Access (Option (List Byte)) :=
  let asid := (s.errand r).asid
  if a.toNat % 64 != 0 then .ok none
  else (s.vread asid a.toNat 8).bind fun head =>
    if fieldOf head 0 4 != 1 || fieldOf head 4 4 < 3640 then .ok none
    else (s.vread asid a.toNat (fieldOf head 4 4)).bind fun bs => .ok (if (parseImage bs).isSome then some bs else none)

/-- What a LAUNCH reads (R325, R328): descriptor, uniform block, role table, launch image. `none` is BAD_KERNEL. -/
def State.readKernel (s : State) (r : RecNo) (desc ublock : DWord) : Access (Option Kernel) :=
  let asid := (s.errand r).asid
  (s.vread asid desc.toNat 64).bind fun d =>
    match kernelOfDescriptor d with
    | none => .ok none
    | some (k, roles, image) =>
      (s.vread asid ublock.toNat 256).bind fun ub =>
        (if roles = 0 then .ok [] else s.vread asid roles.toNat (32 * k.crew)).bind fun rt =>
          let rt := wordsOf rt
          if rt.any fun w => w.toNat % 16 != 0 then .ok none
          else (s.readImage r image).bind fun im =>
            .ok (im.map fun bs => { k with roles := rt, image := bs, uniform := wordsOf ub })

/-! ### Kernel start (R387) -/

/-- The handles as the image declares them, with its rings (R181, R187). -/
def Image.startHandles (im : Image) : Vector Handle 64 :=
  let hs := im.handles.toArray
  let rs := im.rings.zipIdx.filterMap fun (w, i) => (ringOf w).map fun r => (r, i)
  Vector.ofFn fun i =>
    let h := hs.getD i (0, 0)
    let d : Handle := { base := BitVec.ofNat 32 h.1, size := BitVec.ofNat 32 h.2 }
    match rs.find? fun r => r.1.f.toNat ≤ i.val && i.val < r.1.f.toNat + r.1.l.toNat with
    | some (r, n) => { d with ring := some (BitVec.ofNat 3 n), o := BitVec.ofBool !r.out }
    | none => d

def Image.startRings (im : Image) : Vector (Option Ring) 8 := Vector.ofFn fun i => ringOf (im.rings.getD i 0)

/-- R112, R154: the format table and the microprogram store. -/
def Image.startMatrix (im : Image) : Matrix :=
  let fm := im.fmts.toArray
  let rt := im.routines.toArray
  { fmtTable := Vector.ofFn fun i => BitVec.ofNat 256 (fm.getD i 0)
    ustore := Mem.cells 0 im.uwords
    udir := Vector.ofFn fun i => (BitVec.ofNat 11 (rt.getD i 0), BitVec.ofNat 12 (bitsOf (rt.getD i 0) 11 12)) }

/-- The data records of one local memory, in order. -/
def Image.fill (im : Image) (m : Local) (base : Nat) : Mem :=
  im.records.foldl (fun y r => if localOf r.1 r.2.length == some m then y.write (r.1 - base) r.2 else y) []

/-- R40, R58, R59, R63, R121, R387: a core at kernel start, at executed address `pc`. -/
def Core.start (k : Kernel) (l : Launch) (pc : DWord) : Core :=
  let im := k.theImage
  let u := k.uniform.toArray
  let c : Core := { Core.blank with
    g := Vector.ofFn fun i => u.getD i 0
    handles := im.startHandles, rings := im.startRings, matrix := im.startMatrix
    bench := im.fill .bench 0
    ctl := { mode := k.mode0 }
    pc := pc, snapshot := { pc := pc }, status := .running, launch := some l }
  c.force

/-- R287, R348: an unspecialised kernel's FIT_FALLBACK event, the first record of the ring. -/
def Core.postFallback (c : Core) : Core :=
  let l := c.theLaunch
  if l.spec.state = 0 then
    let e : StatEvent := { cls := 9, count := 1, detail := l.spec.reason.toNat, src := 6, addr := c.pc }
    (c.countEvent e).1.appendEvent e true
  else c

end Sys2Proof.Machine
end

