-- ==== Sys2Proof/Machine/Foreman.lean ====
section
/-! DEFINITION. The Foreman (R336 to R338): granting crews, choosing launches to pre-empt, saving (R279 to R281) and resuming
(R280) crews, and the end of a launch (R88, R274, R277, R328). -/

namespace Sys2Proof.Machine

/-! ### Launches that wait -/

/-- The index of the LAUNCH step in flight. -/
def isLaunch : Instr → Bool
  | .launch .. => true
  | _ => false

def Errand.launchIndex (e : Errand) : Nat := ((e.inflight.find? fun x => isLaunch x.instr).map (·.index)).getD 0

/-- R325: the errand's LAUNCH, of which there is one at most, is no longer in flight. -/
def Errand.dropLaunch (e : Errand) : Errand := { e with inflight := e.inflight.filter fun x => !isLaunch x.instr }

/-- R351: a launch that uses a cache entry is over, and a NOCACHE residual's space is freed with it. -/
def State.unpin (s : State) (residual : Option Nat) : State :=
  match residual with
  | none => s
  | some id => s.updHub fun h => { h with
      cache := (h.cache.map fun e => if e.id == id then { e with pins := e.pins - 1 } else e).filter fun e =>
        !(e.id == id && e.pins == 0 && (e.nocache || e.dropped)) }

/-- A launch that fails before it runs (R328). -/
def State.failLaunch (s : State) (q : LaunchReq) (status : BitVec 16) : State :=
  let idx := (s.errand q.errand).launchIndex
  let s := (s.updHub fun h => { h with waiting := h.waiting.erase q }).unpin q.residual
  (s.updErrand q.errand fun e => e.dropLaunch).faultErrand q.errand status idx

/-- The members of a gang (R338). -/
def State.gangMembers (s : State) (g : Word) : List RecNo :=
  ((List.range 2048).map (BitVec.ofNat 11)).filter fun r => (s.errand r).gang == some g

/-- R338: a gang launch is runnable when every member of its gang has one that waits and is not parked. -/
def State.gangReady (s : State) (g : Word) : Bool :=
  (s.gangMembers g).all fun r => s.hub.waiting.any fun q => q.errand == r && q.gang && !q.parked

/-- R338: no member's launch of a gang is still being saved. -/
def State.gangSaved (s : State) (g : Word) : Bool :=
  !(s.hub.crews.any fun w => w.gang && w.stopping && !w.killed && (s.errand w.errand).gang == some g)

/-- R336, R338: a launch that waits for a crew, and for its gang before it has had one, or that was parked with reason PREEMPT, the members
of a gang together. -/
def State.runnable (s : State) (q : LaunchReq) : Bool :=
  !q.parked && (!q.gang || match (s.errand q.errand).gang with
    | some g => if q.saved.isSome then s.gangSaved g else s.gangReady g
    | none => true)

/-- What the Foreman grants in one decision: a launch, or a gang's launches (R338). -/
structure GrantUnit where
  reqs : List LaunchReq
  prio : Nat
  since : Nat
  errand : Nat
  deriving DecidableEq, Repr

def State.unitOf (s : State) (q : LaunchReq) : GrantUnit :=
  let qs := match q.gang, (s.errand q.errand).gang with
    | true, some g => s.hub.waiting.filter fun x => x.gang && (s.errand x.errand).gang == some g && s.runnable x
    | _, _ => [q]
  { reqs := qs, prio := (qs.map (·.prio.toNat)).foldl max 0
    since := (qs.map fun x => (s.errand x.errand).noCrew).foldl min (s.errand q.errand).noCrew
    errand := (qs.map (·.errand.toNat)).foldl min q.errand.toNat }

/-- R336.1: the order of the Foreman. -/
def GrantUnit.before (a b : GrantUnit) : Bool :=
  b.prio < a.prio || (a.prio == b.prio && (a.since < b.since || (a.since == b.since && a.errand ≤ b.errand)))

def insertUnit (u : GrantUnit) : List GrantUnit → List GrantUnit
  | [] => [u]
  | v :: vs => if u.before v then u :: v :: vs else v :: insertUnit u vs

def State.grantUnits (s : State) : List GrantUnit :=
  (((s.hub.waiting.filter s.runnable).map s.unitOf).eraseDups).foldl (fun a u => insertUnit u a) []

/-! ### Clusters -/

def allClusters : List ClusterNo := (List.range 64).map (BitVec.ofNat 6)

def State.unfenced (s : State) : List ClusterNo := allClusters.filter fun c => !(s.cluster c).fenced

/-- R14: unfenced clusters that no crew holds. -/
def State.freeClusters (s : State) : List ClusterNo :=
  s.unfenced.filter fun c => !(s.hub.crews.any fun w => w.clusters.contains c)

/-- R280: the die each rank of a launch must have, where it resumes and its errand holds a bay. -/
def State.rankDies (s : State) (q : LaunchReq) : List (Option DieNo) :=
  let bays := s.dies.toList.any fun d => d.bays.toList.any (· == some q.errand)
  match q.saved with
  | some v => v.clusters.map fun c => if bays then some c.die else none
  | none => List.replicate q.kernel.crew none

def GrantUnit.needs (s : State) (u : GrantUnit) : List (Option DieNo) := u.reqs.flatMap s.rankDies

/-- Clusters that a pool lacks for a list of needs. -/
def lacking (needs : List (Option DieNo)) (pool : List ClusterNo) : Nat :=
  let dies : List DieNo := (List.range 4).map (BitVec.ofNat 2)
  let want := fun (d : DieNo) => (needs.filter (· == some d)).length
  let have_ := fun (d : DieNo) => (pool.filter fun c => dieOf c == d).length
  let short := (dies.map fun d => want d - have_ d).sum
  let spare := (dies.map fun d => have_ d - want d).sum
  short + ((needs.filter (·.isNone)).length - spare)

/-- The Foreman's choice of one cluster of several, which the spec leaves open (R14): a free value. -/
def State.pickOne (s : State) (cs : List ClusterNo) : State × Option ClusterNo :=
  match cs with
  | [] => (s, none)
  | [c] => (s, some c)
  | cs => (s.takeFree, cs[Config.crewPick s.free % cs.length]?)

/-- One cluster for each need, those with a die first. -/
def State.pickCrew (s : State) : List (Option DieNo) → List ClusterNo → State × List (Option DieNo × ClusterNo)
  | [], _ => (s, [])
  | n :: ns, pool =>
    match s.pickOne (pool.filter fun c => n.elim true fun d => dieOf c == d) with
    | (s, none) => (s, [])
    | (s, some c) =>
      let (s, r) := s.pickCrew ns (pool.erase c)
      (s, (n, c) :: r)

def insertCluster (c : ClusterNo) : List ClusterNo → List ClusterNo
  | [] => [c]
  | d :: ds => if c.toNat ≤ d.toNat then c :: d :: ds else d :: insertCluster c ds

def sortClusters (cs : List ClusterNo) : List ClusterNo := cs.foldl (fun a c => insertCluster c a) []

/-- R9: ranks in ascending physical order; a rank that needs a die takes the lowest picked cluster of it that is left. -/
def assignRanks : List (Option DieNo) → List ClusterNo → List ClusterNo
  | [], _ => []
  | n :: ns, cs =>
    match cs.find? fun c => n.elim true fun d => dieOf c == d with
    | some c => c :: assignRanks ns (cs.erase c)
    | none => []

/-! ### Starting and resuming a crew -/

/-- R339: the residual's program for a role entry: where it starts, and its counts. -/
def State.progOf (s : State) (q : LaunchReq) (entry : DWord) : Option (DWord × SpecStatus) :=
  (q.residual.bind fun id => s.hub.cache.find? fun c => c.id == id).bind fun c =>
    (c.progs.find? fun p => p.1 + c.moved q.kernel.code == entry).map (·.2)

/-- What fixes the launch of a core of cluster rank `rank` (R9, R64, R268, R349). -/
def State.launchOf (s : State) (q : LaunchReq) (rank core : Nat) : Launch :=
  let e := s.errand q.errand
  let k := q.kernel
  let im := k.theImage
  let entry := k.entryOf (rank * 8 + core)
  let prog := s.progOf q entry
  { errand := q.errand, asid := e.asid, rank := rank, size := k.crew, sx := k.sx, sy := k.sy, trapring := e.trap
    statring := e.stat, maxred := k.maxred, code := k.code, csize := k.csize, constLo := im.constLo, constHi := im.constHi
    spec := match prog with
      | some p => { p.2 with reason := q.spec.reason, state := q.spec.state }
      | none => q.spec
    residual := q.residual }

/-- R387: a core of a crew starts at its entry. -/
def State.startCore (s : State) (q : LaunchReq) (rank : Nat) (cl : ClusterNo) (i : Nat) : State :=
  let l := s.launchOf q rank i
  let orig := q.kernel.entryOf (rank * 8 + i)
  let pc := ((s.progOf q orig).map (·.1)).getD orig
  s.setCore (coreAt cl i) ({ (Core.start q.kernel l pc) with pc := orig }.postFallback |> fun k => { k with pc := pc })

/-- R229, R387: a crew cluster's yard and counts at kernel start. -/
def Cluster.start (y : Cluster) (im : Image) : Cluster :=
  { y with yard := im.fill .yard yardBase, bankUses := [], committed := 0, sacc := [], saccRounds := 0, lease := none, cap := none
           base := bitsOf y.sens.toNat 16 11 }

def State.startCrew (s : State) (q : LaunchReq) (cs : List ClusterNo) : State :=
  cs.zipIdx.foldl (fun s (cl, rank) =>
    (List.range 8).foldl (fun s i => s.startCore q rank cl i) ((s.sensDue cl).updCluster cl fun y => y.start q.kernel.theImage)) s

/-- R194, R270: a held command translates again on resumption. -/
def CopyCmd.unhold (m : CopyCmd) : CopyCmd := { m with fault := none }

/-- R152, R270, R280: a saved core goes on: nothing waits for an ACK, every valid latch is to be reloaded, the cut state's request is
gone, and its counts of the sensitivity window start anew on the cluster it now runs on (R308). -/
def Core.resume (k : Core) : Core :=
  let m := k.matrix
  let latches := m.latches.map fun l => if l.valid || l.loading then { l with valid := false, loading := true } else l
  { k with
    fetchFault := none, hold := if k.hold == .fetch then .accept else k.hold, stopEnded := false, issued := 0, heldMem := 0, icache := []
    cut := { k.cut with asked := none, target := none, stopped := false }
    c0 := { k.c0 with queue := k.c0.queue.map CopyCmd.unhold }, c1 := { k.c1 with queue := k.c1.queue.map CopyCmd.unhold }
    matrix := { m with fault := none, closed := false, latches := latches, reloading := latches.any (·.loading)
                       fetches := m.fetches.map CopyCmd.unhold, retiredAt := k.cycleNat } }

/-- R280: the saved state goes onto the clusters that take its ranks, each yard before any core issues. -/
def State.resumeCrew (s : State) (v : SavedCrew) (cs : List ClusterNo) : State :=
  let s := (cs.zip v.clusters).foldl (fun s (cl, y) => s.updCluster cl fun c => { c with
    yard := y.yard, bankUses := [], committed := y.committed, saccRounds := y.saccRounds, sacc := [] }) s
  ((cs.flatMap fun cl => (List.range 8).map (coreAt cl)).zip v.cores).foldl (fun s (c, k) =>
    s.setCore c { k.resume with holdAt := s.now }) s

/-- R285, R364: the calls of a resumed crew, and what its link stop held of collectives, name the cores it now runs on. -/
def State.moveCalls (s : State) (r : RecNo) (v : SavedCrew) (cs : List ClusterNo) : State :=
  let core := fun (c : CoreNo) => (((v.on.zip cs).find? fun p => p.1 == clusterOf c).map fun p => coreAt p.2 (c.toNat % 8)).getD c
  let call := fun (x : Call) => if x.errand == r then { x with core := core x.core } else x
  let job := fun (j : DecodeJob) => { j with call := call j.call }
  s.updHub fun h => { h with
    wicket := h.wicket.map call, calls := h.calls.map call, decodeQueue := h.decodeQueue.map job
    colls := h.colls ++ v.colls.map fun p => { p with core := core p.core }
    decoders := h.decoders.map fun d => d.map job }

/-- R364: a reply is a fill of its handle; a contained core's is discarded. -/
def State.landReply (s : State) (c : Call) (w : BitVec 512) : State :=
  if (s.core c.core).status == .contained || c.lost then s
  else s.updCore c.core fun k =>
    let k := { k with bench := k.bench.write (k.handle c.reply).base.toNat (leBytes 64 w.toNat) }
    k.updHandle c.reply fun h => Handle.filled { h with landed := 64, rd := 0, psn := 0, abort := false }

/-- R364: replies that waited for an errand land before the first issue after its resumption. -/
def State.landReplies (s : State) (r : RecNo) : State :=
  let ready := s.hub.calls.filter fun c => c.errand == r && c.answer.isSome
  let s := s.updHub fun h => { h with calls := h.calls.filter fun c => !(c.errand == r && c.answer.isSome) }
  ready.foldl (fun s c => s.landReply c (c.answer.getD 0)) s

/-- The calls of an errand whose launch is over have no reply to come. -/
def State.loseCalls (s : State) (r : RecNo) : State :=
  let f := fun (c : Call) => if c.errand == r then { c with lost := true } else c
  s.updHub fun h => { h with wicket := h.wicket.map f, calls := (h.calls.filter fun c => !(c.errand == r && c.answer.isSome)).map f }

/-- A launch gets its crew. One that starts lets its errand take part in collectives again (R210, notes/assumptions/65.md). -/
def State.grant (s : State) (q : LaunchReq) (cs : List ClusterNo) : State :=
  let s := s.updHub fun h => { h with
    waiting := h.waiting.erase q
    crews := h.crews ++ [{ errand := q.errand, prio := q.prio, gang := q.gang, kernel := q.kernel, spec := q.spec
                           residual := q.residual, clusters := cs, granted := s.now, faulted := q.faulted
                           containedAt := q.containedAt }] }
  let s := match q.saved with
    | some v => ((s.resumeCrew v cs).moveCalls q.errand v cs).landReplies q.errand
    | none => (s.startCrew q cs).findErrand q.errand
  s.updErrand q.errand fun e =>
    match e.state with
    | .parked | .waiting => { e with state := .running, reason := .none }
    | _ => e

/-- The crews of one grant, out of the picked clusters. -/
def State.grantAll (s : State) : List LaunchReq → List ClusterNo → State
  | [], _ => s
  | q :: qs, picked =>
    let cs := assignRanks (s.rankDies q) picked
    (s.grant q cs).grantAll qs (picked.filter fun c => !cs.contains c)

/-- R336.2: the unit's crews, when enough clusters are free. -/
def State.tryGrant (s : State) (u : GrantUnit) : Option State :=
  let needs := u.needs s
  let free := s.freeClusters
  if lacking needs free != 0 then none
  else
    let order := (needs.filter (·.isSome)) ++ needs.filter (·.isNone)
    let (s, picks) := s.pickCrew order free
    let fixed := fun q => (s.rankDies q).any (·.isSome)
    some (s.grantAll (u.reqs.filter fixed ++ u.reqs.filter fun q => !fixed q) (sortClusters (picks.map (·.2))))

/-! ### Pre-emption (R336.3) -/

/-- A crew whose cores all issue no more: it comes free without a save. -/
def State.windingDown (s : State) (w : Crew) : Bool := w.killed || w.cores.all fun c => (s.core c).atEnd

/-- Crews pre-empted together: a gang's, or one (R338). -/
def State.together (s : State) (w : Crew) : List Crew :=
  match w.gang, (s.errand w.errand).gang with
  | true, some g => s.hub.crews.filter fun x => x.gang && (s.errand x.errand).gang == some g
  | _, _ => [w]

/-- R331: the slice, in nanoseconds. -/
def State.slice (s : State) : Nat := (s.hub.bar0.get 0x1020 20).toNat * 100000

def groupPrio (ws : List Crew) : Nat := (ws.map (·.prio.toNat)).foldl max 0
def groupGranted (ws : List Crew) : Nat := ws.foldl (fun a w => max a w.granted) 0

/-- The candidates for a launch of priority `p`, the lowest priority first and then the longest held. -/
def State.candidates (s : State) (p : Nat) : List (List Crew) :=
  let gs := ((s.hub.crews.filter fun w => !w.stopping && !s.windingDown w).map s.together).eraseDups
  let gs := gs.filter fun g => groupPrio g < p || (groupPrio g == p && groupGranted g + s.slice ≤ s.now)
  let before := fun (a b : List Crew) =>
    groupPrio a < groupPrio b || (groupPrio a == groupPrio b && groupGranted a ≤ groupGranted b)
  let rec ins (g : List Crew) : List (List Crew) → List (List Crew)
    | [] => [g]
    | x :: xs => if before g x then g :: x :: xs else x :: ins g xs
  gs.foldl (fun a g => ins g a) []

def clustersOf (gs : List (List Crew)) : List ClusterNo := gs.flatten.flatMap (·.clusters)

/-- Candidates in order until the needs are met. -/
def chooseUntil (needs : List (Option DieNo)) (pool : List ClusterNo) : List (List Crew) → List (List Crew) → List (List Crew)
  | [], acc => acc
  | g :: gs, acc =>
    let got := pool ++ clustersOf acc
    if lacking needs got == 0 then acc
    else if lacking needs (got ++ clustersOf [g]) < lacking needs got then chooseUntil needs pool gs (acc ++ [g])
    else chooseUntil needs pool gs acc

/-- R336.3: no more launches than the crew needs. -/
def pruneChosen (needs : List (Option DieNo)) (pool : List ClusterNo) : List (List Crew) → List (List Crew) → List (List Crew)
  | [], keep => keep
  | g :: gs, keep =>
    if lacking needs (pool ++ clustersOf (keep ++ gs)) == 0 then pruneChosen needs pool gs keep
    else pruneChosen needs pool gs (keep ++ [g])

/-- R279: the Foreman begins to take a crew, to end as `why`. -/
def State.beginSave (s : State) (w : Crew) (why : WaitReason) : State :=
  let s := s.updCrews fun x => if x.clusters == w.clusters then { x with stopping := true } else x
  s.updErrand w.errand fun e => { e with saving := some (e.saving.getD why) }

/-- R336.3: pre-empts for the first unit, or leaves it waiting. -/
def State.preempt (s : State) (u : GrantUnit) : State :=
  let needs := u.needs s
  let coming := (s.hub.crews.filter fun w => w.stopping || s.windingDown w).flatMap (·.clusters)
  let pool := s.freeClusters ++ coming.filter fun c => !(s.cluster c).fenced
  if lacking needs pool == 0 then s
  else
    let usable := fun (g : List Crew) => g.map fun w => { w with clusters := w.clusters.filter fun c => !(s.cluster c).fenced }
    let cs := (s.candidates u.prio).map usable
    if lacking needs (pool ++ clustersOf cs) != 0 then s
    else
      let chosen := pruneChosen needs pool (chooseUntil needs pool cs []).reverse []
      (s.hub.crews.filter fun w => chosen.flatten.any fun x => x.errand == w.errand && !w.stopping && !w.killed).foldl
        (fun s w => s.beginSave w .preempt) s

/-- R338: a gang launch that waits for its gang shows it. -/
def State.showGang (s : State) : State :=
  s.hub.waiting.foldl (fun s q =>
    if !q.gang || q.parked || q.saved.isSome then s
    else s.updErrand q.errand fun e =>
      match e.state, e.reason with
      | .running, .none => if s.runnable q then e else { e with state := .waiting, reason := .gang }
      | .waiting, .gang => if s.runnable q then { e with state := .running, reason := .none } else e
      | _, _ => e) s

/-- R336: grants in order, until a unit must wait. DESIGN CHOICE (notes/assumptions/61.md): a launch that needs more clusters than remain
unfenced fails with NO_CREW (R14) when its unit comes first in the order. -/
def State.grantLoop : Nat → State → State
  | 0, s => s
  | n + 1, s =>
    match s.grantUnits with
    | [] => s
    | u :: _ =>
      match u.reqs.find? fun q => s.unfenced.length < q.kernel.crew with
      | some q => grantLoop n (s.failLaunch q Estat.noCrew)
      | none =>
        match s.tryGrant u with
        | some t => grantLoop n t
        | none => s.preempt u

/-- FOREMAN_DECISION (R336). -/
def State.foreman (s : State) : State := State.grantLoop (s.hub.waiting.length + 1) s.showGang

/-- SLICE_END (R336): the Foreman reconsiders. -/
def execSliceEnd (s : State) : Result := .next s.foreman

/-! ### The end of a crew -/

/-- A core that a crew leaves: nothing of it is under way any more; its registers, handles and memories stand as they were left, and
SPEC reports the launch it ran (R349). -/
def Core.vacate (k : Core) : Core :=
  let clear := fun (e : CopyEngine) => { e with queue := [], completed := e.accepted }
  let m := k.matrix
  { k with
    status := .off, hold := .none, pend := [], records := [], ringHeld := 0, pendingA := [], request := none, answer := none
    divertDue := false, restart := none, fetchFault := none, arrived := none, released := false, returned := false, stopEnded := false
    buffer := [], icache := [], c0 := clear k.c0, c1 := clear k.c1
    matrix := { m with queue := [], running := none, routine := none, fault := none, fetches := [], closed := false, reloading := false
                       completed := m.accepted, latches := m.latches.map fun l => { l with loading := false } } }

/-! ### The end of a lease (R295, R303) -/

/-- The record of a trap of kind A that no operation raises: it names the bundle that issues next. -/
def State.asyncTrap (s : State) (c : CoreNo) (cause : BitVec 5) (aux : Nat) : TrapRecord :=
  let k := s.core c
  let bm := s.backMap k k.pc
  { cls := 0, unit := c, cause := cause, errno := k.theLaunch.errand.setWidth 16, xaddr := s.shownAddr k k.pc
    oaddr := bm.1, iter := bm.2, aux := BitVec.ofNat 12 aux, stamp := k.ctl.cycle }

/-- R303: a core counts the end of a lease, and LEASE_EXPIRY becomes pending where it runs with LXE. -/
def State.countLease (s : State) (c : CoreNo) (level : BitVec 2) (revoked : Bool) : State :=
  let t := s.asyncTrap c Cause.leaseExpiry level.toNat
  s.updCore c fun k =>
    let k := { k with ctl := { k.ctl with xcnt := k.ctl.xcnt + 1, rev := revoked } }
    if k.lxe && k.status == .running then k.addPending 3 t else k

/-- R303: a cluster's lease ends by expiry or revocation. -/
def State.endLease (s : State) (cl : ClusterNo) (revoked : Bool) : State :=
  match (s.cluster cl).lease with
  | none => s
  | some l =>
    let s := s.updCluster cl fun y => { y with lease := none }
    ((s.crewHere cl).filter fun c => (s.core c).status != .contained).foldl (fun s c => s.countLease c l.level revoked) s

/-- R295: a lease whose time has run out ends. -/
def State.expireLease (s : State) (cl : ClusterNo) : State :=
  match (s.cluster cl).lease with
  | some l => if l.ends ≤ s.now then s.endLease cl false else s
  | none => s


/-- R295: a crew's clusters come free; their leases end, those whose time has run out by expiry. -/
def State.releaseCrew (s : State) (w : Crew) : State :=
  let s := (w.clusters.foldl State.expireLease s)
  let s := w.clusters.foldl (fun s cl =>
    (List.range 8).foldl (fun s i => s.updCore (coreAt cl i) Core.vacate) (s.updCluster cl fun y => { y with lease := none, sacc := [] })) s
  let s := s.updHub fun h => { h with crews := h.crews.filter fun x => x.clusters != w.clusters }
  if w.killed then s else s.updErrand w.errand fun e => { e with noCrew := s.now }

def otherPort : Port → Port
  | .a => .b
  | .b => .a

/-- R281, R332, R334, R338: the errand is parked, at rest for the host or failover; a FAILOVER notice goes to the active port. -/
def State.parkErrand (s : State) (r : RecNo) (why : WaitReason) : State :=
  let e := s.errand r
  match e.state with
  | .running | .waiting | .parked =>
    let s := (s.setErrand r { e with state := .parked, reason := why, saving := none }).fulfilJoin r
    if why == .failover then s.noticeAt r (otherPort e.port) Reason.failover e.nextIndex
    else s
  | _ => s.setErrand r { e with saving := none }

/-! ### Saves (R279) -/

/-- R169, R252: the matrix engine stands at a stopping point, or is saved holding. -/
def Matrix.atPoint (m : Matrix) : Bool :=
  m.fault.isSome || (!(m.latches.any (·.loading)) && match m.running with
    | none => m.closed || m.queue.isEmpty
    | some o => match o.instr with
      | .rstep .. => true
      | _ => false)

/-- R194: the head of an engine's queue is a SEND that its receiver can take, or refuses: it is under way. -/
def State.sendUnderWay (s : State) (c : CoreNo) (n : Nat) : Bool :=
  match (s.engine c n).queue.head? with
  | none => false
  | some m =>
    match m.instr, s.coreOfRank c m.rank with
    | .send .., some peer =>
      !(s.core c).recordWaits (2 + n) && !s.sendWaits c n m && ((s.core peer).status == .contained
        || (s.core peer).delivery m ((s.core c).handle m.h).size.toNat != .wait)
    | _, _ => false

/-- R285: the errand is being stopped with a gang that spans packages. -/
def State.spanningStop (s : State) (r : RecNo) : Bool :=
  let e := s.errand r
  e.saving == some .gang && e.gang.any s.hub.spanning.contains

/-- R194, R232, R285: no COLL, no SEND and no far write of its engines is under way; in the stop of a gang that spans packages a COLL that waits
on another package does not count. -/
def State.copyAtPoint (s : State) (c : CoreNo) : Bool :=
  let spans := s.spanningStop (s.core c).theLaunch.errand
  !(s.hub.colls.any fun p => !p.foreign && !p.gone && p.core == c && !(spans && p.remote)) && !s.sendUnderWay c 0 && !s.sendUnderWay c 1
    && !s.egressHolds c (fun _ => true)

/-- R279, steps 1 and 2: the core and its engines have stopped, and no answer of the hub to it is out (R301). -/
def State.saveStopped (s : State) (c : CoreNo) : Bool :=
  let k := s.core c
  (k.atEnd || s.mustStop c) && k.restart.isNone && k.request.isNone && k.pend.isEmpty && k.matrix.atPoint && s.copyAtPoint c

/-- The core has finished its kernel (R88, R172), or is contained (R277). DESIGN CHOICE (notes/assumptions/49.md): its trap records are in the
ring by then. -/
def State.coreFinished (s : State) (c : CoreNo) : Bool :=
  let k := s.core c
  k.records.isEmpty && (k.status == .contained || (k.status == .halted && s.enginesIdle c && k.pend.isEmpty && k.buffer.isEmpty))

/-- R285: what the link stop holds of collectives for the cores of a crew. -/
def Crew.holds (w : Crew) (p : CollPart) : Bool := !p.foreign && !p.gone && w.cores.contains p.core

/-- What a save holds (R279, R285). -/
def State.saveOf (s : State) (w : Crew) : SavedCrew :=
  { on := w.clusters, cores := w.cores.map fun c => (s.riseEnd c).core c, colls := s.hub.colls.filter w.holds
    clusters := w.clusters.map fun cl =>
      let y := s.cluster cl
      { yard := y.yard, committed := y.committed, saccRounds := y.saccRounds, die := dieOf cl } }

/-- R316: the bytes of a save area that the state of one cluster takes. -/
def saveClusterBytes : Nat := 12845056

/-- R279, R316: the save of `n` clusters is in the errand's save area in HBM, in bytes whose layout the spec does not give. -/
def State.writeSave (s : State) (r : RecNo) (n : Nat) : State :=
  let bs := (List.range (n * saveClusterBytes)).map (Config.saveByte s.free)
  { s.takeFree with hbm := s.hbm.write (s.errand r).save.toNat bs }

/-- R332, R338: what an errand that is being stopped is to be parked as: a cut that has been asked comes before the save under way. -/
def Errand.stopsAs (e : Errand) : Option WaitReason :=
  (e.cutAsked.map fun a => if a.2 then WaitReason.host else WaitReason.gang).orElse fun _ => e.saving

/-- SAVE_COMPLETE (R279, R281): each stopped core ends its quantum; a faulted crew of which no core goes on is not saved (R274). Once
every quantum has committed, the state of the crew is in the save area and the errand is parked, by the host or its gang where either had asked
a cut (R332), or killed where a KILL waited; the Foreman acts on what comes free. The kill itself is `kill`'s. -/
def State.saveComplete (s : State) (r : RecNo) (kill : State → RecNo → State) : State :=
  match s.hub.crews.find? fun w => w.errand == r && w.stopping && !w.killed with
  | none => s
  | some w =>
    let cs := w.cores
    if cs.all s.coreFinished || (w.faulted && cs.all fun c => (s.core c).atEnd) then s
    else if !cs.all s.saveStopped then s
    else if cs.any fun c => !(s.core c).atEnd && !(s.core c).stopEnded then
      cs.foldl State.stopQuantum s
    else if !(cs.all s.quantaDone && w.clusters.all fun cl => (s.cluster cl).sacc.isEmpty) then s
    else
      let s := w.clusters.foldl State.expireLease s
      let e := s.errand r
      let why := e.stopsAs.getD .preempt
      let q : LaunchReq := {
        errand := r, prio := w.prio, gang := w.gang, kernel := w.kernel, spec := w.spec, residual := w.residual
        saved := some (s.saveOf w), parked := why != .preempt, faulted := w.faulted, containedAt := w.containedAt }
      let s := ((s.releaseCrew w).writeSave r w.clusters.length).updHub fun h => { h with
        waiting := h.waiting ++ [q], colls := h.colls.filter fun p => !w.holds p }
      let s := s.updErrand r fun e => { e with cutAsked := none }
      if e.killPending then (kill (s.updErrand r fun e => { e with killPending := false, saving := none }) r).foreman
      else (s.parkErrand r why).foreman

/-! ### The end of a launch -/

/-! What the stopped cores of a faulted launch still complete (R274): a unit moves while it can act, or while something outside the crew is to
let it. A launch in which no unit moves is over, though a command may still wait for what none of its cores can do any more. -/

/-- The crew that runs an errand's launch. -/
def State.crewOfErrand (s : State) (r : RecNo) : Option Crew := s.hub.crews.find? fun w => w.errand == r && !w.killed

/-- A COLL of a segment waits in an engine of the core. -/
def Core.collsTo (k : Core) (group seg : Nat) : Bool :=
  (k.c0.queue ++ k.c1.queue).any fun m =>
    let d : BitVec 256 := m.desc.setWidth 256
    match m.instr with
    | .coll .. => CollDesc.group d == group && CollDesc.seg d == seg
    | _ => false

/-- The participant that table entry `e` names has no COLL of a segment and issues nothing more. -/
def State.neverComes (s : State) (group seg e : Nat) : Bool :=
  let r : RecNo := BitVec.ofNat 11 (entryErrand e)
  match s.crewOfErrand r with
  | none => (s.errand r).state == .faulted
  | some w => match w.cores[e / 2 ^ 32 % 2 ^ 16]? with
    | none => true
    | some c => w.faulted && (s.core c).atEnd && !(s.core c).collsTo group seg

/-- R209: the segment that the COLL under way of an engine has joined lacks a participant of this package that never comes. -/
def State.collStuck (s : State) (c : CoreNo) (n : Nat) : Bool :=
  match s.hub.colls.find? fun p => !p.foreign && !p.gone && p.core == c && p.eng.toNat == n with
  | none => false
  | some p =>
    let g := CollDesc.group p.desc
    let k := CollDesc.seg p.desc
    (s.stillToCome g k).any (s.neverComes g k)

/-- The command at the head of an engine moves. -/
def State.engineMoves (s : State) (c : CoreNo) (n : Nat) : Bool :=
  match (s.engine c n).queue.head? with
  | none => false
  | some m => m.fault.isSome || match m.instr with
    | .send .. => s.sendUnderWay c n
    | .coll .. => !m.started || !s.collStuck c n
    | _ => true

/-- The micro-op under way does not wait for a handle (R158 to R160). -/
def State.microMoves (s : State) (c : CoreNo) (o : MatOp) (r : Routine) : Bool :=
  let k := s.core c
  let full := fun (h : BitVec 6) => (k.handle h).st == Hs.full
  match decodeMicro (k.matrix.ustore.num (8 * (r.first + r.idx)) 8) with
  | .ok (.uwait h) => full h
  | .ok (.ulatch u) => u.tb = 0 || full u.h || !(match loadCheck r.active (u.k.toNat + 1) with
    | .ok _ => true
    | _ => false)
  | .ok (.ustep u) => u.ta = 0 || full u.h
  | .ok (.ufetch h md v) => !full h || match s.fetchCommand c o r h md v, s.operandEvents c o false (r.reg md) 64 with
    | .ok _, .ok _ => false
    | _, _ => true
  | _ => true

/-- The matrix engine moves. -/
def State.matrixMoves (s : State) (c : CoreNo) : Bool :=
  let k := s.core c
  let m := k.matrix
  !s.matrixIdle c && (m.fault.isSome || !m.fetches.isEmpty || m.latches.any (·.loading) || s.egressHolds c (·.eng == 2)
    || match m.running, m.routine with
      | some o, some r => s.microMoves c o r
      | _, _ => true)

/-- The core has stopped, and nothing of it moves. -/
def State.coreQuiet (s : State) (c : CoreNo) : Bool :=
  let k := s.core c
  k.records.isEmpty && (k.status == .contained || (k.atEnd && k.pend.isEmpty && k.buffer.isEmpty && !s.engineMoves c 0
    && !s.engineMoves c 1 && !s.matrixMoves c))

/-- R364, R373: a reply, or a tile that its ring can take, is still to come to a core of the errand. -/
def State.replyDue (s : State) (r : RecNo) : Bool :=
  let call := fun (c : Call) => c.errand == r && !c.lost && c.cap != 2
  let job := fun (j : DecodeJob) => j.call.errand == r && ((s.crewOfErrand r).bind fun w => w.cores[j.rank]?).any fun c =>
    ((s.core c).ring j.ring.toNat).any fun g => (s.core c).handle (g.at g.p) |> fun h => !h.atRest || (h.st == Hs.free && h.o == 1)
  s.hub.wicket.any (fun c => c.errand == r && !c.lost) || s.hub.calls.any call || s.hub.decodeQueue.any job
    || s.hub.decoders.any fun d => d.any job

/-- R88, R274, R277: whether a crew's launch is over: every core has finished, or, of a faulted launch, every core has stopped and completed
what it can; what still waits there may wait for a reply. -/
def State.launchOver (s : State) (w : Crew) : Bool :=
  w.cores.all s.coreFinished
    || (w.faulted && w.cores.all s.coreQuiet && (w.cores.all (fun c => s.coreFinished c || s.enginesIdle c) || !s.replyDue w.errand))

/-- LAUNCH_COMPLETE (R88, R328): the crew is released, and its LAUNCH step completes, or its errand is FAULTED where the launch ends
faulted. An errand that was being stopped, by a save or a cut, is parked (R332, R338). -/
def State.launchComplete (s : State) (r : RecNo) (kill : State → RecNo → State) : State :=
  match s.hub.crews.find? fun w => w.errand == r && s.launchOver w with
  | none => s
  | some w =>
    let s := (s.updHub fun h => { h with colls := h.colls.map fun p => if w.holds p then { p with gone := true } else p }).releaseCrew w
    let s := s.unpin w.residual
    if w.killed then s.foreman
    else
      let e := s.errand r
      let idx := e.launchIndex
      let saving := e.stopsAs
      let s := (s.loseCalls r).updErrand r fun e => { e.dropLaunch with cutAsked := none }
      if e.killPending then (kill (s.updErrand r fun e => { e with killPending := false, saving := none }) r).foreman
      else if w.faulted then ((s.updErrand r fun e => { e with saving := none }).faultErrand r Estat.launchFault idx).foreman
      else
        let s := s.updErrand r fun e => { e with launches := e.launches + 1 }
        match saving with
        | none | some .preempt => (s.updErrand r fun e => { e with saving := none }).foreman
        | some why => (s.parkErrand r why).foreman

end Sys2Proof.Machine
end

