-- ==== Sys2Proof/Machine/Errands.lean ====
section
/-! DEFINITION. The errand sequencer and its steps (R324 to R328), the port operations (R317 to R322), parking, killing and
failover (R332 to R334), gangs (R338), and what happens when an owner is gone (R335). -/

namespace Sys2Proof.Machine

/-! ### The sequencer (R324 to R326) -/

/-- R325: the errand fetches steps: it runs, or waits at a WAIT, and no LAUNCH that fetch may not pass is in flight. -/
def Errand.fetches (e : Errand) : Bool :=
  (e.state == .running || (e.state == .waiting && e.reason == .wait)) && e.saving != some .host && e.saving != some .failover
    && e.saving != some .gang && !e.killPending && e.fetchFault.isNone && e.waitFault.isNone
    && !(e.inflight.any fun x => isLaunch x.instr)

def isLoft : Instr → Bool
  | .loft .. => true
  | _ => false

/-- R325: the barriers that a step meets before it starts. -/
def Errand.barred (e : Errand) (i : Instr) (bar : BitVec 1) : Bool :=
  let all := match i with
    | .joinpt _ | .endStep _ => true
    | _ => bar == 1
  (all && !e.inflight.isEmpty) || (isLaunch i && e.inflight.any fun x => isLoft x.instr)

/-- R327: WAITING with reason WAIT while a WAIT is unmet and no step is in flight. -/
def Errand.settled (e : Errand) : Errand :=
  let waits := match e.waitStep with
    | some (_, .wait ..) => e.inflight.isEmpty
    | _ => false
  match e.state, e.reason with
  | .running, .none => if waits then { e with state := .waiting, reason := .wait } else e
  | .waiting, .wait => if waits then e else { e with state := .running, reason := .none }
  | _, _ => e

def State.settle (s : State) (r : RecNo) : State := s.updErrand r Errand.settled

/-- R324 to R326: step `i` is fetched, unless it is the one that fetch has reached already, and starts once no barrier holds it. -/
def State.startStep (s : State) (h : StepHead) (i : Instr) (act : Nat → State → State) : Result :=
  let r := h.errand
  let e := s.errand r
  if !e.fetches then .next s
  else
    let go := fun (s : State) (idx : Nat) =>
      if (s.errand r).barred i h.bar then .next ((s.updErrand r fun e => { e with waitStep := some (idx, i) }).settle r)
      else .next ((act idx (s.updErrand r fun e => { e with waitStep := none, state := .running, reason := .none })).settle r)
    match e.waitStep with
    | some (idx, j) => if j == i then go s idx else .next s
    | none =>
      if 2 ^ 20 ≤ e.next then .next (s.faultErrand r Estat.badStep e.next)
      else go (s.updErrand r fun e => { e with next := e.next + 1 }) e.next

/-- What fetch comes to: a step to start, or a new state. -/
inductive FetchRes where
  | step (i : Instr)
  | state (s : State)

/-- R324 to R326: the next step is read, once each time fetch reaches it, or fetch faults or holds. -/
def State.fetchStep (s : State) (r : RecNo) : FetchRes :=
  let e := s.errand r
  match e.waitStep with
  | some (_, i) => .step i
  | none =>
    if 2 ^ 20 ≤ e.next then .state (s.faultErrand r Estat.badStep e.next)
    else
      match s.hubRead r (e.prog + BitVec.ofNat 64 (32 * e.next)) 32 with
      | (t, .ok bs) =>
        match decodeStep r (leNat bs) with
        | .ok i => .step i
        | _ => .state ((t.updErrand r fun e => { e with next := e.next + 1 }).faultErrand r Estat.badStep e.next)
      | (t, .held f) => .state (t.updErrand r fun e => { e with fetchFault := some f })
      | (t, .fault) => .state (t.faultErrand r Estat.stepFault e.next)

/-- A number that no step in flight has. -/
def Errand.newNo (e : Errand) : Nat := (e.inflight.map fun x => x.no + 1).foldl max 0
def Errand.addStep (e : Errand) (x : StepInFlight) : Errand := { e with inflight := e.inflight ++ [x] }
def Errand.dropStep (e : Errand) (no : Nat) : Errand := { e with inflight := e.inflight.filter fun x => x.no != no }
def Errand.updStep (e : Errand) (no : Nat) (f : StepInFlight → StepInFlight) : Errand :=
  { e with inflight := e.inflight.map fun x => if x.no == no then f x else x }

/-- Step `i`, of index `idx`, as it starts. -/
def State.newStep (s : State) (r : RecNo) (idx : Nat) (i : Instr) (started : Bool) : StepInFlight :=
  { index := idx, no := (s.errand r).newNo, instr := i, started := started }

/-- R325: a step in flight ends in a fault. -/
def State.failStep (s : State) (r : RecNo) (x : StepInFlight) (status : BitVec 16) : State :=
  (s.updErrand r fun e => e.dropStep x.no).faultErrand r status x.index

/-- A step in flight is held on a page (R270). -/
def State.holdStep (s : State) (r : RecNo) (x : StepInFlight) (f : HeldFault) : State :=
  s.updErrand r fun e => e.updStep x.no fun y => { y with fault := some f }

/-! ### The steps (R327) -/

/-- NOP completes at once (R327). -/
def execNop (h : StepHead) (s : State) : Result := s.startStep h (.nop h) fun _ s => s

/-- GOTO (R327). -/
def execGoto (h : StepHead) (target : BitVec 20) (s : State) : Result :=
  s.startStep h (.goto h target) fun _ s => s.updErrand h.errand fun e => { e with next := target.toNat }

/-- R327: the reads of a LAUNCH, and its place in the Fitter's queue; or its faults (R325, R328). Of an errand that has been parked meanwhile it
is not runnable (R332, R334, R338). -/
def State.launchStep (s : State) (r : RecNo) (x : StepInFlight) (prio : BitVec 3) (desc ublock : DWord) : State :=
  match s.hubAccess r false (s.readKernel r desc ublock) with
  | (t, .ok none) => t.failStep r x Estat.badKernel
  | (t, .ok (some k)) =>
    if (t.errand r).savecl.toNat < k.crew then t.failStep r x Estat.noSave
    else if t.unfenced.length < k.crew then t.failStep r x Estat.noCrew
    else
      let e := t.errand r
      let q : LaunchReq := { errand := r, prio := prio, gang := x.gang, kernel := k
                             parked := e.state == .parked && e.reason != .preempt }
      (t.updErrand r fun e => e.updStep x.no fun y => { y with started := true }).updHub fun h => { h with fitQueue := h.fitQueue ++ [q] }
  | (t, .held f) => t.holdStep r x f
  | (t, .fault) => t.failStep r x Estat.stepFault

/-- LAUNCH (R327, R328). -/
def execLaunch (h : StepHead) (gang : BitVec 1) (prio : BitVec 3) (desc : DWord) (ublock : DWord) (s : State) : Result :=
  let i : Instr := .launch h gang prio desc ublock
  s.startStep h i fun idx s =>
    let x := { s.newStep h.errand idx i false with gang := gang == 1 && (s.errand h.errand).gang.isSome }
    (s.updErrand h.errand fun e => e.addStep x).launchStep h.errand x prio desc ublock

/-- R324, R327: whether the word meets a WAIT's condition. -/
def waitMet (cond : BitVec 3) (w v m : Nat) : Bool :=
  let a := w &&& m
  let b := v &&& m
  match cond.toNat with
  | 0 => a == b
  | 1 => a != b
  | 2 => b ≤ a
  | _ => a < b

/-- WAIT (R327): met, it completes at once; unmet, fetch stands at it. -/
def execWait (h : StepHead) (kind : BitVec 1) (cond : BitVec 3) (size : BitVec 1) (step : BitVec 20) (addr : DWord) (value : DWord)
    (mask : DWord) (s : State) : Result :=
  let i : Instr := .wait h kind cond size step addr value mask
  let r := h.errand
  s.startStep h i fun idx s =>
    let wait := fun (s : State) (f : Option HeldFault) =>
      s.updErrand r fun e => { e with waitStep := some (idx, i), waitFault := f }
    if kind = 1 then (if (s.errand r).inflight.any (fun x => x.index == step.toNat) then wait s none else s)
    else
      let n := if size = 1 then 8 else 4
      match s.hubRead r addr n with
      | (t, .ok bs) => if waitMet cond (leNat bs) (value.toNat % 2 ^ (8 * n)) (mask.toNat % 2 ^ (8 * n)) then t else wait t none
      | (t, .held f) => wait t (some f)
      | (t, .fault) => t.faultErrand r Estat.stepFault idx

/-- WAIT_POLL (R327): the word of an unmet WAIT is read again. -/
def State.pollWait (s : State) (r : RecNo) : Result :=
  let e := s.errand r
  match e.waitStep with
  | some (_, .wait h k c z st a v m) => if e.waitFault.isSome then .next s else execWait h k c z st a v m s
  | _ => .next s

def execWaitPoll (r : RecNo) (s : State) : Result := s.pollWait r

/-- R327: a SIGNAL's write, and its notice after it. -/
def State.signalStep (s : State) (r : RecNo) (x : StepInFlight) (irq : BitVec 1) (addr value : DWord) : State :=
  match s.hubWrite r addr (leBytes 8 value.toNat) with
  | (t, .ok _) =>
    let t := t.updErrand r fun e => e.dropStep x.no
    if irq = 1 then t.notice r Reason.signal x.index else t
  | (t, .held f) => t.holdStep r x f
  | (t, .fault) => t.failStep r x Estat.stepFault

/-- SIGNAL (R327). -/
def execSignal (h : StepHead) (irq : BitVec 1) (addr : DWord) (value : DWord) (s : State) : Result :=
  let i : Instr := .signal h irq addr value
  s.startStep h i fun idx s =>
    let x := s.newStep h.errand idx i true
    (s.updErrand h.errand fun e => e.addStep x).signalStep h.errand x irq addr value

/-- Bytes that a copy may move at once without passing a page end, or its own earlier writes. -/
def copyChunk (src dst n : Nat) : Nat :=
  let m := min (chunkOf src n) (4096 - dst % 4096)
  if src < dst then min m (dst - src) else m

/-- R327: an XFER's bytes in ascending order, `fuel` pieces at most; answers how far it got. -/
def State.copyBytes (s : State) (r : RecNo) (src dst len : Nat) : Nat → Nat → State × Nat × HubRes Unit
  | 0, pos => (s, pos, .ok ())
  | fuel + 1, pos =>
    if len ≤ pos then (s, pos, .ok ()) else
    let n := copyChunk (src + pos) (dst + pos) (len - pos)
    match s.hubRead r (BitVec.ofNat 64 (src + pos)) n with
    | (t, .ok bs) =>
      match t.hubWrite r (BitVec.ofNat 64 (dst + pos)) bs with
      | (u, .ok _) => u.copyBytes r src dst len fuel (pos + n)
      | (u, .held f) => (u, pos, .held f)
      | (u, .fault) => (u, pos, .fault)
    | (t, .held f) => (t, pos, .held f)
    | (t, .fault) => (t, pos, .fault)

/-- R327: a LOFT's bytes. -/
def State.loftBytes (s : State) (r : RecNo) (die : DieNo) (src dst len : Nat) : Nat → Nat → State × Nat × HubRes Unit
  | 0, pos => (s, pos, .ok ())
  | fuel + 1, pos =>
    if len ≤ pos then (s, pos, .ok ()) else
    let n := chunkOf (src + pos) (len - pos)
    match s.hubRead r (BitVec.ofNat 64 (src + pos)) n with
    | (t, .ok bs) => (t.updDie die fun d => { d with loft := d.loft.write (dst + pos) bs }).loftBytes r die src dst len fuel (pos + n)
    | (t, .held f) => (t, pos, .held f)
    | (t, .fault) => (t, pos, .fault)

/-- An XFER or LOFT in flight moves what is left of its bytes. -/
def State.moveStep (s : State) (r : RecNo) (x : StepInFlight) : State :=
  let after := fun (res : State × Nat × HubRes Unit) (status : BitVec 16) =>
    let (t, pos, k) := res
    match k with
    | .ok _ => t.updErrand r fun e => e.updStep x.no fun y => { y with pos := pos, finished := true }
    | .held f => t.updErrand r fun e => e.updStep x.no fun y => { y with pos := pos, fault := some f }
    | .fault => t.failStep r x status
  match x.instr with
  | .xfer _ src dst len => after (s.copyBytes r src.toNat dst.toNat len.toNat (len.toNat + 1) x.pos) Estat.xferFault
  | .loft _ die bay src off len =>
    after (s.loftBytes r die src.toNat (bay.toNat * 2 ^ 20 + off.toNat) len.toNat (len.toNat + 1) x.pos) Estat.stepFault
  | _ => s

/-- XFER (R327). -/
def execXfer (h : StepHead) (src : DWord) (dst : DWord) (len : DWord) (s : State) : Result :=
  let i : Instr := .xfer h src dst len
  s.startStep h i fun idx s =>
    let x := s.newStep h.errand idx i true
    (s.updErrand h.errand fun e => e.addStep x).moveStep h.errand x

/-- The errand that holds a bay (R215). -/
def Die.holder (d : Die) (bay : Nat) : Option RecNo := d.bays.toList.getD bay none
def Die.setHolder (d : Die) (bay : Nat) (r : Option RecNo) : Die := if h : bay < 384 then { d with bays := d.bays.set bay r } else d

/-- LOFT (R327): claims the bay and fills it, or LOFT_BUSY. -/
def execLoft (h : StepHead) (die : DieNo) (bay : BitVec 16) (src : DWord) (off : Word) (len : Word) (s : State) : Result :=
  let i : Instr := .loft h die bay src off len
  let r := h.errand
  s.startStep h i fun idx s =>
    match (s.die die).holder bay.toNat with
    | some o => if o == r then go s idx else s.faultErrand r Estat.loftBusy idx
    | none => go s idx
where
  go (s : State) (idx : Nat) : State :=
    let x := s.newStep h.errand idx (.loft h die bay src off len) true
    ((s.updDie die fun d => d.setHolder bay.toNat (some h.errand)).updErrand h.errand fun e => e.addStep x).moveStep h.errand x

/-- LOFT with REL = 1 (R327): the errand's bay is free. -/
def execLoftRel (h : StepHead) (die : DieNo) (bay : BitVec 16) (s : State) : Result :=
  s.startStep h (.loftRel h die bay) fun _ s => s.updDie die fun d =>
    if d.holder bay.toNat == some h.errand then d.setHolder bay.toNat none else d

/-- JOINPT (R327). -/
def execJoinpt (h : StepHead) (s : State) : Result :=
  let r := h.errand
  s.startStep h (.joinpt h) fun idx s =>
    let s := s.updErrand r fun e =>
      { e.addStep (s.newStep r idx (.joinpt h) true) with state := .waiting, reason := .joinpt }
    (s.fulfilJoin r).notice r Reason.joinpt idx

/-- R327, R333: the errand's bays are free. -/
def State.releaseBays (s : State) (r : RecNo) : State :=
  { s with dies := s.dies.map fun d => { d with bays := d.bays.map fun b => if b == some r then none else b } }

/-- END (R327). -/
def execEndStep (h : StepHead) (s : State) : Result :=
  let r := h.errand
  s.startStep h (.endStep h) fun idx s =>
    let s := (s.releaseBays r).updErrand r fun e => { e with state := .done, reason := .none }
    (s.fulfilJoin r).notice r Reason.done idx

/-- A step in flight that a STEP_COMPLETION moves on: it is not held, and it waits for nothing else. -/
def StepInFlight.open (x : StepInFlight) : Bool :=
  x.fault.isNone && match x.instr with
    | .launch .. => !x.started
    | .signal .. | .xfer .. | .loft .. => true
    | _ => false

/-- STEP_COMPLETION (R325): a step in flight that is not held completes, or goes on. -/
def execStepCompletion (r : RecNo) (idx : BitVec 20) (s : State) : Result :=
  match (s.errand r).inflight.find? fun x => x.index == idx.toNat && x.open with
  | none => .next s
  | some x =>
    .next ((match x.instr with
      | .launch _ _ p d u => s.launchStep r x p d u
      | .signal _ q a v => s.signalStep r x q a v
      | .xfer .. | .loft .. => if x.finished then s.updErrand r fun e => e.dropStep x.no else s.moveStep r x
      | _ => s).settle r)

/-! ### Killing (R333) -/

/-- R270: the holds of a killed launch's engines and fetch end with it. -/
def Core.dropHeld (k : Core) : Core :=
  let keep := fun (e : CopyEngine) => { e with queue := e.queue.filter fun m => m.fault.isNone }
  let m := k.matrix
  { k with
    fetchFault := none, records := [], c0 := keep k.c0, c1 := keep k.c1
    matrix := if m.fault.isSome then
        { m with fault := none, queue := [], running := none, routine := none, completed := m.accepted
                 latches := m.latches.map fun l => { l with loading := false }, fetches := [] }
      else { m with fetches := m.fetches.filter fun f => f.fault.isNone } }

/-- R364, R365: an errand's unfinished calls are abandoned, and recorded as REFUSED. -/
def Errand.refuseCalls (e : Errand) : Errand :=
  { e with journal := e.journal.map fun j => if j.state == .notDone then { j with state := .refused } else j }

def Hub.dropCalls (h : Hub) (r : RecNo) : Hub :=
  { h with
    wicket := h.wicket.filter fun c => c.errand != r
    calls := h.calls.filter fun c => c.errand != r
    decodeQueue := h.decodeQueue.filter fun j => j.call.errand != r
    decoders := h.decoders.map fun d => d.bind fun j => if j.call.errand == r then none else some j }

/-- The errand's launches that have no crew are gone. -/
def Hub.dropLaunches (h : Hub) (r : RecNo) : Hub :=
  { h with
    waiting := h.waiting.filter fun q => q.errand != r
    fitQueue := h.fitQueue.filter fun q => q.errand != r
    fitters := h.fitters.map fun f => f.bind fun j => if j.req.errand == r then none else some j }

/-- KILL (R333), or the reaping of R335, which leaves the record IDLE and sends no notice; a save in progress completes first
(R281). -/
def State.killErrand (s : State) (r : RecNo) (reap : Bool) : State :=
  let ws := s.hub.crews.filter fun w => w.errand == r && !w.killed
  if ws.any (·.stopping) then s.updErrand r fun e => { e with killPending := true, reap := e.reap || reap }
  else
    let reap := reap || (s.errand r).reap
    let s := ((s.hub.waiting.filter fun q => q.errand == r).foldl (fun s q => s.unpin q.residual) s)
    let s := ws.foldl (fun s w =>
      let s := (w.cores.head?).elim s s.stopCrew
      w.cores.foldl (fun s c => s.updCore c Core.dropHeld) s) s
    let s := s.updCrews fun w => if w.errand == r then { w with killed := true } else w
    let s := s.loseErrand r
    let s := (s.releaseBays r).updHub fun h => (h.dropLaunches r).dropCalls r
    let s := s.updErrand r fun e => { e.refuseCalls with
      state := .killed, reason := .none, inflight := [], waitStep := none, waitFault := none, fetchFault := none
      cutAsked := none, saving := none, killPending := false, records := if reap then [] else e.records }
    let s := s.fulfilJoin r reap
    if reap then ((s.setErrand r {}).putBar0 (0x8000 + 8 * r.toNat) 0).foreman else (s.notice r Reason.killed (s.errand r).nextIndex).foreman

/-- SAVE_COMPLETE (R279, R281). -/
def execSaveComplete (r : RecNo) (s : State) : Result := .next (s.saveComplete r fun s r => s.killErrand r false)

/-- LAUNCH_COMPLETE (R88, R328). -/
def execLaunchComplete (r : RecNo) (s : State) : Result :=
  .next ((s.launchComplete r fun s r => s.killErrand r false).settle r)

/-! ### Containment (R277, R278, R281) -/

/-- R281: the cores of a crew have stopped, and its save is being written. -/
def State.savesNow (s : State) (w : Crew) : Bool :=
  w.stopping && !w.killed && w.cores.all fun c => s.saveStopped c && ((s.core c).stopEnded || (s.core c).atEnd)

/-- R281: an uncorrectable error met while a save is written kills the errand and frees its cores. -/
def State.loseSave (s : State) (w : Crew) : State :=
  let s := s.updCrews fun x => if x.clusters == w.clusters then { x with stopping := false } else x
  let s := s.killErrand w.errand false
  ((s.releaseCrew { w with killed := true }).unpin w.residual).foreman

/-- R281: the memory a save is written to has an uncorrectable error. -/
def State.saveError (s : State) (r : RecNo) : State :=
  match s.hub.crews.find? fun w => w.errand == r && s.savesNow w with
  | some w => s.loseSave w
  | none => s

/-- CONTAINMENT (R277, R278): an uncorrectable error in memory `mem` of the private state of core `c`; of a core that has stopped for a save,
it is met while the save is written, which kills the errand and frees its cores (R281). -/
def execContainment (c : CoreNo) (mem : BitVec 3) (s : State) : Result :=
  match s.crewAt c with
  | none => .next s
  | some w =>
    if (s.core c).status == .contained || (s.core c).status == .off then .next s
    else
      let t := s.containCore w c mem
      .next (if s.savesNow w then t.loseSave w else t)

/-! ### The host's lease (R334) -/

/-- A launch without a crew is parked, or may run again. -/
def State.setParked (s : State) (r : RecNo) (b : Bool) : State :=
  let f := fun (q : LaunchReq) => if q.errand == r then { q with parked := b } else q
  let job := fun (j : FitJob) => { j with req := f j.req }
  s.updHub fun h => { h with
    waiting := h.waiting.map f, fitQueue := h.fitQueue.map f
    fitters := h.fitters.map fun x => x.map job }

/-- R332, R334, R338: an errand stops: its running launch is saved first, else it is parked at once. -/
def State.stopErrand (s : State) (r : RecNo) (why : WaitReason) : State :=
  match s.crewOfErrand r with
  | some w =>
    let s := s.beginSave w why
    s.updErrand r fun e => { e with saving := some why, cutAsked := none }
  | none => (s.setParked r true).parkErrand r why

/-- R334: an errand of the port whose lease has lapsed. -/
def State.failOver (s : State) (r : RecNo) : State :=
  let e := s.errand r
  let s := s.setErrand r { e with join := none }
  match e.state with
  | .running | .waiting | .parked =>
    let adopt := match e.saving with
      | some .host => (ErrandState.parked, WaitReason.host)
      | some .gang => (.parked, .gang)
      | _ => (e.state, e.reason)
    if e.reason == .failover && e.state == .parked then s
    else (s.updErrand r fun e => { e with adoptTo := adopt }).stopErrand r .failover
  | _ => s

/-- HOST_LEASE_EXPIRY (R334): the standby port becomes active, and the old port's errands are parked. -/
def State.lapse (s : State) : State :=
  match s.hub.active with
  | none => s
  | some p =>
    if s.now < s.hub.leaseEnd || !s.led then s
    else
      let s := s.updHub fun h => { h with active := some (otherPort p), leaseEnd := s.now + 10000000, focnt := h.focnt + 1 }
      ((List.range 2048).map (BitVec.ofNat 11)).foldl (fun (s : State) (r : RecNo) =>
        if (s.errand r).port == p && (s.errand r).state != .idle then s.failOver r else s) s

def execHostLeaseExpiry (s : State) : Result := .next s.lapse

/-- RENEW (R334): a lease that has reached zero is not set again: failover follows once a steward leads. -/
def execRenew (p : Port) (s : State) : Result :=
  if !s.hub.ready then .next s else
  let s := s.lapse
  match s.hub.active with
  | none => .next (s.updHub fun h => { h with active := some p, leaseEnd := s.now + 10000000 })
  | some q => if p == q && s.now < s.hub.leaseEnd then .next (s.updHub fun h => { h with leaseEnd := s.now + 10000000 }) else .next s

/-! ### Port operations (R317 to R322) -/

namespace Pstat
def ok : BitVec 8 := 0
def badOp : BitVec 8 := 1
def badToken : BitVec 8 := 2
def badState : BitVec 8 := 3
def standby : BitVec 8 := 4
def gangFull : BitVec 8 := 5
def cutFail : BitVec 8 := 6
end Pstat

def State.setPstat (s : State) (p : PortWrite) (v : BitVec 8) : State :=
  s.updErrand p.errand fun e =>
    match p.port with
    | .a => { e with pstatA := v }
    | .b => { e with pstatB := v }

/-- R318, R326, R404: a port write through the active port, discarded before the ports are up and in recovery; the word of an unmet WAIT
is read again after it. -/
def State.portWrite (s : State) (p : PortWrite) (act : State → State) : Result :=
  if !s.hub.ready then .next s else
  let s := s.lapse
  if s.hub.active != some p.port then .next (s.setPstat p Pstat.standby)
  else (act s).pollWait p.errand

/-- R318 to R320: an operation other than START: its token, the home CPU, and the states it is accepted in. `free` is a state in which
no token is checked (R334). -/
def State.portOp (s : State) (p : PortWrite) (free accepted : Errand → Bool) (act : State → State × BitVec 8) : Result :=
  s.portWrite p fun s =>
    let e := s.errand p.errand
    if !free e && e.token != p.token then s.setPstat p Pstat.badToken
    else
      let s := if e.token == p.token then s.updErrand p.errand fun e => { e with home := p.cpu } else s
      if accepted e then
        let (t, v) := act s
        t.setPstat p v
      else s.setPstat p Pstat.badState

def noState (_ : Errand) : Bool := false
def notIdle (e : Errand) : Bool := e.state != .idle
def failedOver (e : Errand) : Bool := e.state == .parked && e.reason == .failover

/-- R316: the control block, or `none` where it is refused. -/
def State.loadEcb (s : State) (a : Nat) : Option Errand :=
  if a % 64 != 0 || hbmSize < a + 64 then none
  else
    let f := fun o n => s.hbm.num (a + o) n
    let ring := fun (w : Nat) => w < 2 ^ 57 && bitsOf w 4 2 == 0
    if f 0 8 % 32 == 0 && f 0 8 < 2 ^ 57 && ring (f 8 8) && ring (f 16 8) && f 24 8 % 4096 == 0 && f 24 8 < 2 ^ 52
        && 1 ≤ f 32 2 && f 32 2 ≤ 64 && f 34 2 < 4096 && f 36 28 == 0 then
      some { prog := BitVec.ofNat 64 (f 0 8), trap := BitVec.ofNat 64 (f 8 8), stat := BitVec.ofNat 64 (f 16 8)
             save := BitVec.ofNat 64 (f 24 8), savecl := BitVec.ofNat 16 (f 32 2), asid := BitVec.ofNat 12 (f 34 2) }
    else none

/-- START (R320): the record is cleared and loaded, and runs from step 0. -/
def execStart (p : PortWrite) (ecb : DWord) (s : State) : Result :=
  s.portWrite p fun s =>
    let e := s.errand p.errand
    if e.state == .idle || e.state == .done || e.state == .killed then
      match s.loadEcb ecb.toNat with
      | none => s.setPstat p Pstat.badOp
      | some n => (s.setErrand p.errand { n with
          state := .running, token := p.token, home := p.cpu, port := p.port, noCrew := s.now }).findErrand p.errand
    else
      let s := if e.token == p.token then s.updErrand p.errand fun e => { e with home := p.cpu } else s
      s.setPstat p Pstat.badState

/-- JOIN (R320, R321). -/
def execJoin (p : PortWrite) (addr : DWord) (v : DWord) (s : State) : Result :=
  if addr.toNat % 8 != 0 || 2 ^ 57 ≤ addr.toNat then
    s.portWrite p fun s => s.setPstat p Pstat.badOp
  else
    s.portOp p noState notIdle fun s =>
      ((s.updErrand p.errand fun e => { e with join := some (addr, v) }).fulfilJoin p.errand, Pstat.ok)

def mayPark (e : Errand) : Bool := e.state == .running || e.state == .waiting

/-- R332: what RESUME goes back to. -/
def State.noteBefore (s : State) (r : RecNo) : State :=
  s.updErrand r fun e => { e with before := e.state, beforeReason := e.reason }

/-- PARK with CUT = 0 (R332). -/
def execPark (p : PortWrite) (s : State) : Result :=
  s.portOp p noState mayPark fun s =>
    let s := s.endCut (s.cutCores p.errand)
    ((s.noteBefore p.errand).stopErrand p.errand .host, Pstat.ok)

/-- PARK with CUT = 1 (R283, R332): the stop of a running launch is a cut; where the launch ends before it, the errand is parked with nothing
to save. -/
def execParkCut (p : PortWrite) (s : State) : Result :=
  s.portOp p noState mayPark fun s =>
    let r := p.errand
    let s := s.noteBefore r
    match s.crewOfErrand r with
    | some w =>
      if w.stopping then (s.stopErrand r .host, Pstat.ok)
      else ((s.updErrand r fun e => { e with cutAsked := some (s.now, true) }).askCut w, Pstat.ok)
    | none => (s.stopErrand r .host, Pstat.ok)

def mayResume (e : Errand) : Bool :=
  (e.state == .parked && e.reason == .host) || (e.state == .waiting && e.reason == .joinpt)

/-- R320, R327: a JOINPT completes. -/
def Errand.passJoinpt (e : Errand) : Errand :=
  { e with state := .running, reason := .none, inflight := e.inflight.filter fun x => match x.instr with
    | .joinpt _ => false
    | _ => true }

/-- RESUME (R320). -/
def execResume (p : PortWrite) (s : State) : Result :=
  s.portOp p noState mayResume fun s =>
    let r := p.errand
    let e := s.errand r
    if e.state == .waiting then (s.setErrand r e.passJoinpt, Pstat.ok)
    else
      let s := s.setErrand r { e with state := e.before, reason := e.beforeReason }
      ((s.setParked r false).foreman, Pstat.ok)

/-- KILL (R320, R333); of an errand parked by failover without a token (R334). A DONE or KILLED errand that is killed ends as KILLED
(notes/assumptions/60.md). -/
def execKill (p : PortWrite) (s : State) : Result :=
  s.portOp p failedOver notIdle fun s => (s.killErrand p.errand false, Pstat.ok)

/-! ### Gangs (R338) -/

/-- GANG JOIN (R338). -/
def execGangJoin (p : PortWrite) (gang : Word) (s : State) : Result :=
  s.portOp p noState notIdle fun s =>
    let e := s.errand p.errand
    if e.gang == some gang then (s, Pstat.ok)
    else if 64 ≤ (s.gangMembers gang).length then (s, Pstat.gangFull)
    else ((s.setErrand p.errand { e with gang := some gang }).foreman, Pstat.ok)

/-- R338: a gang launch of the errand has started and not completed. -/
def Errand.inGangLaunch (e : Errand) : Bool := e.inflight.any (·.gang)

/-- GANG LEAVE (R338). -/
def execGangLeave (p : PortWrite) (s : State) : Result :=
  s.portOp p noState (fun e => notIdle e && !e.inGangLaunch) fun s =>
    ((s.updErrand p.errand fun e => { e with gang := none }).foreman, Pstat.ok)

/-- R338: an errand that a GANG STOP finds to stop: it runs, waits, or is parked for its launch's pre-emption only. -/
def mayStop (e : Errand) : Bool := mayPark e || (e.state == .parked && e.reason == .preempt)

/-- R283, R285, R338: a member is asked to stop, by a cut, or at once where its gang spans packages. -/
def State.gangStopOne (s : State) (r : RecNo) : State :=
  let e := s.errand r
  if !mayStop e then s
  else
    let s := s.noteBefore r
    match s.crewOfErrand r with
    | some w =>
      if w.stopping || e.gang.any s.hub.spanning.contains then s.stopErrand r .gang
      else (s.updErrand r fun e => { e with cutAsked := some (s.now, false) }).askCut w
    | none => s.stopErrand r .gang

/-- R285, R338: a gang stops; one that spans packages has the link receivers keep what they have not delivered. -/
def State.gangStop (s : State) (g : Word) : State :=
  let s := (s.gangMembers g).foldl State.gangStopOne s
  if s.hub.spanning.contains g then s.updHub fun h => { h with stopped := g :: h.stopped.erase g } else s

/-- GANG STOP (R338): a stop of every member. -/
def execGangStop (p : PortWrite) (s : State) : Result :=
  s.portOp p noState notIdle fun s => ((s.errand p.errand).gang.elim s s.gangStop, Pstat.ok)

/-! The Chetia links over a stop (R285). -/

/-- R285: a receiver delivers a flit once and in order, and discards one whose number it has delivered. -/
def Hub.deliverFlit (h : Hub) (port : BitVec 4) (seq : Nat) (payload : BitVec 512) : Hub :=
  if seq == h.linkSeq[port.toNat] + 1 then
    { h with linkSeq := h.linkSeq.set port.toNat seq, linkTaken := h.linkTaken ++ [(port, seq, payload)] }
  else h

/-- R285: while a gang that spans packages is stopped, a receiver saves what comes, each flit once. -/
def Hub.takeFlit (h : Hub) (port : BitVec 4) (seq : Nat) (payload : BitVec 512) : Hub :=
  if h.stopped.isEmpty then h.deliverFlit port seq payload
  else
    let held := h.linkHeld[port.toNat]
    if seq == h.linkSeq[port.toNat] + held.length + 1 then { h with linkHeld := h.linkHeld.set port.toNat (held ++ [(seq, payload)]) } else h

/-- R285: at resumption a link's receiver delivers its saved flits, and its sender sends again from its first unacknowledged flit on. -/
def Hub.resumeLink (h : Hub) (port : BitVec 4) : Hub :=
  let h := (h.linkHeld[port.toNat]).foldl (fun h x => h.deliverFlit port x.1 x.2) h
  { h with
    linkHeld := h.linkHeld.set port.toNat []
    linkSent := h.linkSent ++ (h.linkUnacked[port.toNat]).map fun x => (port, x.1, x.2) }

/-- R285: a sender sends a flit under its next number, and keeps it until it is acknowledged. While it is stopped it only keeps it. -/
def State.linkSend (s : State) (port : BitVec 4) (payload : BitVec 512) : State :=
  s.updHub fun h =>
    let n := h.linkLast[port.toNat] + 1
    { h with
      linkLast := h.linkLast.set port.toNat n, linkUnacked := h.linkUnacked.set port.toNat (h.linkUnacked[port.toNat] ++ [(n, payload)])
      linkSent := if h.stopped.isEmpty then h.linkSent ++ [(port, n, payload)] else h.linkSent }

/-- R285: the peer has acknowledged all flits up to a number. -/
def State.linkAck (s : State) (port : BitVec 4) (seq : Nat) : State :=
  s.updHub fun h => { h with linkUnacked := h.linkUnacked.set port.toNat ((h.linkUnacked[port.toNat]).filter fun x => seq < x.1) }

/-- R285, R338: a gang goes on after a STOP; with the last one that spans packages the links do. -/
def State.gangGo (s : State) (g : Word) : State :=
  let go := fun (s : State) (r : RecNo) =>
    let e := s.errand r
    if e.state == .parked && e.reason == .gang then
      (s.setErrand r { e with state := e.before, reason := e.beforeReason }).setParked r false
    else s
  let links := fun (h : Hub) => if h.stopped == [g] then ((List.range 16).map (BitVec.ofNat 4)).foldl Hub.resumeLink { h with stopped := [] }
    else { h with stopped := h.stopped.erase g }
  (((s.gangMembers g).foldl go s).updHub links).foreman

/-- GANG GO (R338): every member goes on after a STOP. -/
def execGangGo (p : PortWrite) (s : State) : Result :=
  s.portOp p noState notIdle fun s => ((s.errand p.errand).gang.elim s.foreman s.gangGo, Pstat.ok)

/-- R285: a gang has members on other packages, or has none any more. -/
def State.gangSpans (s : State) (g : Word) (spans : Bool) : State :=
  s.updHub fun h => { h with spanning := if spans then g :: h.spanning.erase g else h.spanning.erase g }

/-- R285: the STOP or the GO of a gang that spans packages has come over the links. -/
def State.farStop (s : State) (g : Word) : State := if s.hub.spanning.contains g then s.gangStop g else s
def State.farGo (s : State) (g : Word) : State := if s.hub.spanning.contains g then s.gangGo g else s

/-! ### Home, adoption and stewards (R319, R334, R335) -/

/-- HOME (R319, R320): the home CPU is the caller's. -/
def execHome (p : PortWrite) (s : State) : Result := s.portOp p noState notIdle fun s => (s, Pstat.ok)

/-- HOME with ADOPT (R334). -/
def execAdopt (p : PortWrite) (s : State) : Result :=
  s.portOp p failedOver notIdle fun s =>
    let r := p.errand
    let e := s.errand r
    if failedOver e then
      let s := s.setErrand r { e with
        token := p.token, port := p.port, home := p.cpu, state := e.adoptTo.1, reason := e.adoptTo.2 }
      let held := e.adoptTo.1 == .parked && (e.adoptTo.2 == .host || e.adoptTo.2 == .gang)
      ((s.setParked r held).foreman, Pstat.ok)
    else (s, Pstat.ok)

/-- STEWARD REGISTER (R335). -/
def execStewardRegister (p : PortWrite) (s : State) : Result :=
  s.portOp p noState notIdle fun s =>
    let a := (s.errand p.errand).asid
    (s.updHub fun h => { h with stewards := (a, p.token, p.cpu) :: h.stewards.filter fun x => x.1 != a }, Pstat.ok)

/-- STEWARD UNREGISTER (R335). -/
def execStewardUnregister (p : PortWrite) (s : State) : Result :=
  s.portOp p noState notIdle fun s =>
    let a := (s.errand p.errand).asid
    (s.updHub fun h => { h with stewards := h.stewards.filter fun x => !(x.1 == a && x.2.1 == p.token) }, Pstat.ok)

/-- STEWARD ORPHAN (R335): the errand passes to its steward, or is killed and reaped. -/
def execOrphan (p : PortWrite) (s : State) : Result :=
  s.portOp p noState notIdle fun s =>
    let r := p.errand
    match s.hub.stewards.find? fun x => x.1 == (s.errand r).asid with
    | some (_, token, cpu) =>
      let s := s.updErrand r fun e => { e with token := token, home := cpu, orph := true }
      (s.notice r Reason.orphan (s.errand r).nextIndex, Pstat.ok)
    | none => (s.killErrand r true, Pstat.ok)

/-! ### ACK (R270) and QUERY (R322) -/

def HeldFault.named (f : HeldFault) (cls : BitVec 3) (seq : BitVec 24) : Bool := f.file.isNone && f.cls == cls && f.seq == seq

/-- A hold that an ACK ends. -/
def releaseHold (cls : BitVec 3) (seq : BitVec 24) (f : Option HeldFault) : Option HeldFault := f.filter fun x => !x.named cls seq

/-- R270: a core's unit held on the record translates again. -/
def Core.ack (k : Core) (cls : BitVec 3) (seq : BitVec 24) : Core :=
  let off := releaseHold cls seq
  let cmd := fun (m : CopyCmd) => { m with fault := off m.fault }
  let ff := off k.fetchFault
  { k with
    fetchFault := ff, hold := if k.hold == .fetch && ff.isNone then .accept else k.hold
    c0 := { k.c0 with queue := k.c0.queue.map cmd }, c1 := { k.c1 with queue := k.c1.queue.map cmd }
    matrix := { k.matrix with fault := off k.matrix.fault, fetches := k.matrix.fetches.map cmd } }

/-- R270: the hub's units held for an errand: sequencer and WAIT of class 6, clerks of class 5 and decoders of class 4. -/
def State.ackHub (s : State) (r : RecNo) (cls : BitVec 3) (unit : BitVec 16) (seq : BitVec 24) : State :=
  let off := releaseHold cls seq
  if cls = 6 then
    if unit != 0 then s
    else s.updErrand r fun e => { e with
      fetchFault := off e.fetchFault, waitFault := off e.waitFault
      inflight := e.inflight.map fun x => { x with fault := off x.fault } }
  else
    let call := fun (u : Nat) (c : Call) => if c.errand == r && unit.toNat == u then { c with fault := off c.fault } else c
    if cls = 5 then s.updHub fun h => { h with calls := h.calls.map fun c => call c.cap.toNat c }
    else s.updHub fun h => { h with
      decoders := Vector.ofFn fun i => (h.decoders[i]).map fun j => { j with call := call i.val j.call } }

/-- ACK (R270): releases the unit held on the record; one that matches none changes nothing. -/
def execAck (p : PortWrite) (cls : BitVec 3) (unit : BitVec 16) (seq : BitVec 24) (s : State) : Result :=
  s.portOp p noState notIdle fun s =>
    if cls.toNat < 4 then
      let c : CoreNo := unit.setWidth 9
      if unit.toNat < 512 && (s.core c).launch.any fun l => l.errand == p.errand then
        (s.updCore c fun k => k.ack cls seq, Pstat.ok)
      else (s, Pstat.ok)
    else (s.ackHub p.errand cls unit seq, Pstat.ok)

namespace Code
def state : ErrandState → Nat
  | .idle => 0
  | .running => 1
  | .waiting => 2
  | .parked => 3
  | .faulted => 4
  | .done => 5
  | .killed => 6
def reason : WaitReason → Nat
  | .none => 0
  | .wait => 1
  | .joinpt => 2
  | .preempt => 3
  | .host => 4
  | .failover => 5
  | .gang => 6
end Code

/-- R322: the 64 bytes a QUERY through a port returns. -/
def State.queryWord (s : State) (p : Port) (r : RecNo) : BitVec 512 :=
  let e := s.errand r
  let pstat := match p with
    | .a => e.pstatA
    | .b => e.pstatB
  let port := match e.port with
    | .a => 0
    | .b => 1
  let w0 := Code.state e.state + Code.reason e.reason * 2 ^ 3 + pstat.toNat * 2 ^ 8 + e.estat.toNat * 2 ^ 16 + e.home.toNat * 2 ^ 32
    + r.toNat * 2 ^ 48
  let w1 := e.nextIndex + e.orph.toNat * 2 ^ 48 + e.join.isSome.toNat * 2 ^ 49 + port * 2 ^ 50 + e.inflight.length % 256 * 2 ^ 56
  BitVec.ofNat 512 (w0 + w1 * 2 ^ 64 + e.fidx.toNat * 2 ^ 128 + e.launches.toNat * 2 ^ 192 + e.prodSeen.toNat * 2 ^ 256
    + e.cutt.toNat * 2 ^ 352)

/-- QUERY (R322): a read; it changes nothing but what the host has read. -/
def execQuery (p : Port) (r : RecNo) (s : State) : Result :=
  .next (s.updHub fun h => { h with queried := some (p, r, s.queryWord p r) })

/-- UNASSIGNED_PORT_OPERATION (R57): BAD_OP, and nothing else. -/
def execUnassignedPortOperation (p : PortWrite) (s : State) : Result :=
  s.portWrite p fun s => s.setPstat p Pstat.badOp

end Sys2Proof.Machine
end

