-- ==== Sys2Proof/Machine/Fit.lean ====
section
/-! DEFINITION. Fitting one kernel (R340 to R349, R354): the walk over static knowledge, the rewriting of executed slots, unrolled
and rolled loops, the entry table, and the residual's layout. A slot is executed by its own meaning, on a core that holds what
is known. -/

namespace Sys2Proof.Machine

/-! ### Static knowledge (R340) -/

/-- What is known of the scalar registers at a point of the walk. -/
structure Facts where
  s : Vector (Option DWord) 32
  b : Vector (Option Word) 8
  q : Vector (Option (BitVec 1)) 8
  n : Vector (Option Word) 6
  deriving DecidableEq, Repr

def Facts.unknown : Facts :=
  ⟨Vector.replicate 32 none, Vector.replicate 8 none, Vector.replicate 8 none, Vector.replicate 6 none⟩

/-- Every register at its reset value. -/
def Facts.reset : Facts :=
  ⟨Vector.replicate 32 (some 0), Vector.replicate 8 (some 0), Vector.replicate 8 (some 0), Vector.replicate 6 (some 0)⟩

def Facts.knows (f : Facts) : RegName → Bool
  | .s i => i == 0 || (f.s.toList.getD i none).isSome
  | .b i => (f.b.toList.getD i none).isSome
  | .q i => (f.q.toList.getD i none).isSome
  | .n i => (f.n.toList.getD i none).isSome
  | .k i => i == 0
  | _ => false

/-- The register becomes dynamic. -/
def Facts.drop (f : Facts) (r : RegName) : Facts :=
  match r with
  | .s i => { f with s := f.s.setIfInBounds i none }
  | .b i => { f with b := f.b.setIfInBounds i none }
  | .q i => { f with q := f.q.setIfInBounds i none }
  | .n i => { f with n := f.n.setIfInBounds i none }
  | _ => f

def Facts.dropAll (f : Facts) (rs : List RegName) : Facts := rs.foldl Facts.drop f

/-- The register becomes static with the value written. -/
def Facts.learn (f : Facts) : RegWrite → Facts
  | .s i v => { f with s := f.s.set i.toNat (some v) }
  | .b i v => { f with b := f.b.set i.toNat (some v) }
  | .q i v => { f with q := f.q.set i.toNat (some v) }
  | .n i v => { f with n := f.n.setIfInBounds i.toNat (some v) }
  | _ => f

/-- Everything known by `f` is known by `g`, with the same value. -/
def Facts.within (f g : Facts) : Bool :=
  let sub := fun {α : Type} [BEq α] (x y : List (Option α)) => (x.zip y).all fun p => p.1.isNone || p.1 == p.2
  sub f.s.toList g.s.toList && sub f.b.toList g.b.toList && sub f.q.toList g.q.toList && sub f.n.toList g.n.toList

/-! ### What a fitting works from -/

/-- A loop of the code: its head, its LOOP or LOOPR bundle, what the bundles between write (R346), and whether a direct branch from elsewhere
enters it behind its head. -/
structure FitLoop where
  head : Nat
  last : Nat
  writes : List RegName
  entered : Bool
  deriving DecidableEq, Repr

/-- The inputs of a fitting. -/
structure Fitting where
  s : State
  asid : BitVec 12
  g : Vector Word 64
  /-- The launch image's bench, for loads of the .const range. -/
  bench : Mem
  constLo : Nat
  constHi : Nat
  code : Nat
  csize : Nat
  noUnroll : Bool
  limit : Nat
  /-- The REASON of passing the limit: 2 GROWTH or 3 SIZE (R348). -/
  why : BitVec 4
  loops : List FitLoop := []
  /-- Registers that are never static: the destinations of VEXT (R340). -/
  never : List RegName := []
  /-- The V slots in which some bundle of the code holds a load, which a bundle that does not name the slot may re-issue (R35). -/
  vloads : List Slot := []
  /-- The targets of dynamic transfers and the entries found so far (R340, R345), and the loops, by head and LOOP bundle, of which one program
has fitted the head with more than one knowledge. -/
  dynamic : List Nat := []
  entries : List Nat := []
  apart : List (Nat × Nat) := []
  /-- R346, R348: which of the loops that could be unrolled are, in the order in which the walk meets them, and whether those after are. -/
  choices : List Bool := []
  rest : Bool := true

/-- The core that fetches for the Fitter, and on which a slot is executed. -/
def Fitting.core (c : Fitting) (f : Facts) : Core :=
  { Core.blank with
    s := f.s.map fun x => x.getD 0, b := f.b.map fun x => x.getD 0, q := f.q.map fun x => x.getD 0, n := f.n.map fun x => x.getD 0
    g := c.g, bench := c.bench, launch := some { asid := c.asid }, nextPc := BitVec.allOnes 64 }

def Fitting.fetch (c : Fitting) (a : Nat) : Fetch := c.s.fetchFrom none (c.core .unknown) padFuel (BitVec.ofNat 64 a)

/-- The header that a transfer to `a` meets (R48). -/
def Fitting.header (c : Fitting) (a : Nat) : Nat :=
  match c.fetch a with
  | .bundle f => f.at_.toNat
  | _ => a

/-- The named slots of a bundle. -/
def namedUses (f : Fetched) : List Use :=
  ({ Core.blank with trapCtx := some {}, arrCtx := some {} } : Core).uses { f with header := { f.header with rpt := 0 } }

/-- R44: the port a use claims at each issue, where what decides it is known: what slots of a repeated bundle write is at its first only. -/
def Facts.claims (f : Facts) (k : Core) (rpt : Nat) (us : List Use) (u : Use) : List (Option PortName) :=
  let rs := addressOf u.instr
  let n := if us.any fun v => (writesOf v.instr).any rs.contains then 0 else rpt
  if u.isOk && rs.all f.knows then (List.range (n + 1)).map fun j => k.claims { u with j := j } else []

/-- R42, as far as it is known before run time, ports included where their addresses are static; the returns are judged at run time. -/
def Fitting.illegal (c : Fitting) (facts : Facts) (f : Fetched) (us : List Use) : Bool :=
  let k := c.core facts
  let claims := us.map (facts.claims k f.header.rpt.toNat us)
  let at_ := fun (j : Nat) => claims.filterMap fun cs => cs[j]?.join
  f.bad || (us.any fun u => !u.isOk || Core.blank.breaks f us u)
    || (List.range (f.header.rpt.toNat + 1)).any fun j => (at_ j).any fun p => p.capacity < ((at_ j).filter (· == p)).length

/-- R44: the loads, which claim a read port. -/
def isLoad : Instr → Bool
  | .lds _ | .ldsx .. | .vld .. | .vlds .. | .vgath .. | .vpatld .. => true
  | _ => false

/-- Whether the bundle could prove illegal at run time with a load of the .const range and not without it (R42, R44, R357): both V slots
could then read the bench, named or re-issued (notes/assumptions/19.md). -/
def Fitting.portsOpen (c : Fitting) (facts : Facts) (us : List Use) : Bool :=
  let k := c.core facts
  ([Slot.v0, Slot.v1] : List Slot).all fun sl =>
    match us.find? fun u => u.slot == sl with
    | some u => u.isOk && isLoad u.instr && (!(addressOf u.instr).all facts.knows || k.claims u == some .benchRead)
    | none => c.vloads.contains sl

/-- The binding-time mark of a slot word (R28). -/
def markOf (w : Nat) : Nat := bitsOf w 29 2

/-- R341: S-slot instructions that may be executed, LDS and LDSX as the .const range allows. -/
def fitScalar : Instr → Bool
  | .add _ | .sub _ | .mul _ | .mulhs _ | .mulhn _ | .divs _ | .divn _ | .rems _ | .remn _ | .and _ | .or _ | .xor _ | .andn _
  | .shl _ | .shr _ | .sar _ | .ror _ | .ceq _ | .cne _ | .clt _ | .cltn _ | .cle _ | .clen _ | .min _ | .max _ | .minn _
  | .maxn _ | .addi _ | .andi _ | .ori _ | .xori _ | .ceqi _ | .clti _ | .shli _ | .shri _ | .sari _ | .rori _ | .clz _ | .ctz _
  | .popc _ | .bfx _ | .bfxs _ | .bfi _ | .bfxv .. | .sel .. | .li .. | .liExt .. | .lih .. | .addr .. | .getg .. | .lds _
  | .ldsx .. | .setn .. | .setb .. | .setq .. => true
  | _ => false

/-- R341: L-slot instructions that may be executed. -/
def fitTransfer : Instr → Bool
  | .br .. | .brz .. | .brnz .. | .brlt .. | .brge .. | .brq .. | .bri .. | .ret .. | .loop .. | .loopr .. => true
  | _ => false

def isCounted : Instr → Bool
  | .loop .. | .loopr .. => true
  | _ => false

/-- R343: stays as written although executed. -/
def fitKept : Instr → Bool
  | .setn .. | .setb .. | .setq .. => true
  | _ => false

def fileG (o : SReg) : List Nat := if o.f = 4 then [o.b.toNat] else if o.f = 5 then [o.b.toNat + 32] else []

/-- The g registers an instruction reads as operands (R71, R350). -/
def gReads : Instr → List Nat
  | .getg _ _ n => [n.toNat]
  | .add o | .sub o | .mul o | .mulhs o | .mulhn o | .divs o | .divn o | .rems o | .remn o | .and o | .or o | .xor o | .andn o
  | .shl o | .shr o | .sar o | .ror o | .ceq o | .cne o | .clt o | .cltn o | .cle o | .clen o | .min o | .max o | .minn o
  | .maxn o => fileG o
  | _ => []

/-- Every source register is static. -/
def Facts.inputs (f : Facts) (i : Instr) : Bool :=
  (readsOf i).all f.knows && match i with
    | .loopr .. => (List.range 8).all fun j => f.knows (.b j) && f.knows (.q j)
    | _ => true

/-- What executing a slot comes to (R341, R347). -/
inductive FitEval where
  | dynamic
  | demoted
  | values (ws : List RegWrite) (target : Option DWord)
  deriving DecidableEq, Repr

/-- R341: a load is executable when its whole access falls in the .const range. -/
def Fitting.inConst (c : Fitting) (k : Core) : Instr → Bool
  | .lds o => let a := (k.readS o.a + imm o.i).toNat; c.constLo ≤ a && a + 8 ≤ c.constHi
  | .ldsx _ _ a b sh _ z => let x := (k.indexed a b sh).toNat; c.constLo ≤ x && x + 2 ^ z.toNat ≤ c.constHi
  | _ => true

/-- Executes a slot of the bundle at `at_` by its meaning. -/
def Fitting.eval (c : Fitting) (f : Facts) (at_ : DWord) (i : Instr) : FitEval :=
  let k := { c.core f with launch := none, baddr := at_ }
  if !(fitScalar i || fitTransfer i) || !f.inputs i || !c.inConst k i then .dynamic
  else
    match slotOp i (({ State.reset with cur := 0 }).setMe k) with
    | .done t => .values (t.me.pend.flatMap (·.writes)) (if t.me.nextPc = BitVec.allOnes 64 then none else some t.me.nextPc)
    | .trap _ => .demoted
    | _ => .dynamic

/-- R343: over the issues of a repeated bundle, the result when it is the same at each. -/
def Fitting.evalRepeat (c : Fitting) (at_ : DWord) (i : Instr) : Nat → Facts → FitEval
  | 0, f => c.eval f at_ i
  | n + 1, f =>
    match c.eval f at_ i with
    | .values ws t =>
      match c.evalRepeat at_ i n (ws.foldl Facts.learn f) with
      | .values ws' t' => if ws == ws' && t == t' then .values ws t else .dynamic
      | r => r
    | r => r

/-- R343: what an S-slot instruction with sd = s0 gives, as it would to a register that it does not read. -/
def Fitting.evalZero (c : Fitting) (f : Facts) (at_ : DWord) (i : Instr) (w : Nat) (x : Option Nat) : List RegWrite :=
  match (List.range 32).find? fun d => d != 0 && !(readsOf i).contains (RegName.s d) with
  | none => []
  | some d =>
    match decodeSlot .s (w + d * 2 ^ 17) x with
    | .ok j =>
      match c.eval (f.learn (.s (BitVec.ofNat 5 d) 0)) at_ j with
      | .values [.s _ v] _ => [.s 0 v]
      | _ => []
    | _ => []

/-- R343: the rewritten words of an executed S-slot instruction that gives `ws`. -/
def rewritten (i : Instr) (w : Nat) (x : Option Nat) (ws : List RegWrite) : Nat × Option Nat :=
  let plain := (w - markOf w * 2 ^ 29, x)
  if fitKept i then plain
  else
    match ws with
    | [.s d v] =>
      let n := v.toInt
      if -2048 ≤ n && n ≤ 2047 then ((encode (.li 0 d (v.setWidth 12))).getD 0, none)
      else if -2147483648 ≤ n && n ≤ 2147483647 then
        let e := (encode (.liExt 0 d (v.setWidth 32))).getD 0
        (e % 2 ^ 32, some (e / 2 ^ 32))
      else plain
    | _ => plain

/-! ### The code's loops -/

/-- Bundles of the code in address order, pad words skipped, with what each writes; the fault that reading the code meets (R348), if any. -/
def Fitting.scan (c : Fitting) : Nat → Nat → List (Fetched × List Use) × Option (Access Unit)
  | 0, _ => ([], none)
  | n + 1, a =>
    if c.code + c.csize ≤ a then ([], none)
    else
      match c.fetch a with
      | .bundle f =>
        if c.code + c.csize ≤ f.at_.toNat then ([], none)
        else
          let r := c.scan n f.next.toNat
          ((f, namedUses f) :: r.1, r.2)
      | .pads x => c.scan n x.toNat
      | .stopped x why => ([], if c.code + c.csize ≤ x.toNat then none else some why)

def usesWrites (us : List Use) : List RegName := us.flatMap fun u => if u.isOk then writesOf u.instr else []

/-- The offset of a direct branch (R81). -/
def directOffset : Instr → Option (BitVec 18)
  | .br _ o | .brz _ _ o | .brnz _ _ o | .brlt _ _ o | .brge _ _ o | .brq _ _ _ o | .call _ _ o | .loop _ _ o | .loopr _ _ o => some o
  | _ => none

/-- R346: the loops whose target lies at or before their LOOP bundle; R340: the destinations of VEXT. -/
def Fitting.survey (c : Fitting) (bs : List (Fetched × List Use)) : Fitting :=
  let jumps := bs.flatMap fun b => b.2.filterMap fun u =>
    if u.isOk then (directOffset u.instr).map fun o => (b.1.at_.toNat, c.header (branchTarget b.1.at_ o).toNat) else none
  let loopOf := fun (b : Fetched × List Use) =>
    (b.2.find? fun u => u.slot == .l).bind fun u =>
      match u.what with
      | .ok (.loop _ _ o) | .ok (.loopr _ _ o) =>
        let t := (branchTarget b.1.at_ o).toNat
        if t ≤ b.1.at_.toNat then
          let h := c.header t
          some { head := h, last := b.1.at_.toNat
                 writes := (bs.flatMap fun x => if h ≤ x.1.at_.toNat && x.1.at_.toNat ≤ b.1.at_.toNat then usesWrites x.2 else []).eraseDups
                 entered := jumps.any fun j =>
                   h < j.2 && j.2 ≤ b.1.at_.toNat && !(h ≤ j.1 && j.1 ≤ b.1.at_.toNat) }
        else none
      | _ => none
  let vext := bs.flatMap fun b => b.2.filterMap fun u =>
    match u.what with
    | .ok (.vext _ _ d _ _ _) => if d = 0 then none else some (RegName.s d.toNat)
    | _ => none
  let loads := bs.flatMap fun b => b.2.filterMap fun u => if u.isOk && isLoad u.instr then some u.slot else none
  { c with loops := bs.filterMap loopOf, never := vext.eraseDups, vloads := loads.eraseDups }

/-! ### Residual items -/

/-- Where a residual branch goes: an original address, the unrolled copies around it, and the knowledge its residual is made for. -/
structure FitKey where
  addr : Nat
  ctx : List Nat
  facts : Facts
  deriving DecidableEq, Repr

inductive FitTarget where
  | none
  /-- The residual header that follows (R344). -/
  | next
  | key (k : FitKey)
  /-- An item already made: a rolled loop's head. -/
  | item (n : Nat)
  deriving DecidableEq, Repr

/-- A residual bundle before layout (R342). -/
structure FitItem where
  orig : DWord
  iter : BitVec 60
  header : Header
  /-- The header word as written, of an illegal bundle (R347). -/
  raw : Option Nat := none
  slots : List (Slot × Nat × Option Nat)
  target : FitTarget := .none
  align : Bool := false
  next : DWord
  demoted : Bool := false
  /-- The opcode of an S slot that has been rewritten, as it was (R357). -/
  sOp : Option Nat := none
  /-- A taken branch has been removed from it, because its target's residual follows (R344). -/
  jump : Bool := false
  /-- What follows it is not the residual of the next original bundle. -/
  cut : Bool := false
  /-- Nothing need follow it. -/
  last : Bool := false
  deriving DecidableEq, Repr

def FitItem.words (it : FitItem) : Nat := 1 + (it.slots.map fun s => if s.2.2.isSome then 2 else 1).sum

/-- R354: counter i is the copy number of the i-th unrolled loop, from the innermost. -/
def iterOf : List Nat → Nat
  | [] => 0
  | k :: ks => k + 1024 * iterOf ks

/-! ### The walk -/

/-- A loop being unrolled, with what abandoning it goes back to (R346). -/
structure FitFrame where
  head : Nat
  last : Nat
  copy : Nat
  count : Nat
  facts : Facts
  decided : List Nat
  items : Nat
  memo : Nat
  rolls : Nat
  entries : Nat
  targets : Nat
  gread : BitVec 64
  unr : Nat
  mark : Nat
  dem : Nat
  asked : Nat
  padded : Bool
  alignNext : Bool
  deriving DecidableEq, Repr

inductive FitStatus where
  | walking | done
  | failed (reason : BitVec 4)
  /-- Code on a file page that is being read (R371). -/
  | file (index size : Nat)
  deriving DecidableEq, Repr

/-- One program under way. Lists that grow have the newest first. -/
structure FitWalk where
  at_ : Nat
  facts : Facts
  frames : List FitFrame := []
  decided : List Nat := []
  fresh : Bool := true
  padded : Bool := false
  alignNext : Bool := false
  items : List FitItem := []
  memo : List (FitKey × Nat) := []
  /-- Rolled heads: head, LOOP bundle, copies, knowledge, item. -/
  rolls : List (Nat × Nat × List Nat × Facts × Nat) := []
  work : List FitKey := []
  entries : List Nat := []
  targets : List Nat := []
  gread : BitVec 64 := 0
  unr : Nat := 0
  mark : Nat := 0
  dem : Nat := 0
  /-- How many loops that could be unrolled it has met. -/
  asked : Nat := 0
  /-- The items as they are laid out. -/
  order : List Nat := []
  status : FitStatus := .walking
  deriving DecidableEq, Repr

def FitWalk.ctx (w : FitWalk) : List Nat := w.frames.map (·.copy)
def FitWalk.fail (w : FitWalk) (r : BitVec 4) : FitWalk := { w with status := .failed r }

def lastOf {α : Type} (n : Nat) (l : List α) : List α := l.drop (l.length - n)

/-- The s, b, q and n registers. -/
def scalarNames : List RegName :=
  (List.range 32).map RegName.s ++ (List.range 8).map RegName.b ++ (List.range 8).map RegName.q ++ (List.range 6).map RegName.n

/-- Control comes into the loop's body at its head only: no direct branch from elsewhere and no entry leads behind it, a CALL's return address
among the entries (R345). -/
def Fitting.closed (c : Fitting) (l : FitLoop) : Bool :=
  !l.entered && !(c.entries.any fun e => let h := c.header e; l.head < h && h ≤ l.last)

/-- R346: what is dynamic at the head of a loop kept rolled. A body that control also enters behind the head, where nothing is known, comes back
with nothing known (DEDUCED, notes/assumptions/19.md). -/
def Fitting.bodyWrites (c : Fitting) (l : FitLoop) : List RegName := if c.closed l then l.writes else scalarNames

/-- R346: a loop kept rolled. -/
def Fitting.roll (c : Fitting) (w : FitWalk) (l : FitLoop) : FitWalk :=
  let f := w.facts.dropAll (c.bodyWrites l)
  { w with facts := f, decided := l.last :: w.decided, rolls := (l.head, l.last, w.ctx, f, w.items.length) :: w.rolls }

/-- R346: the innermost unrolling is abandoned, and its loop kept rolled. -/
def Fitting.abandon (c : Fitting) (w : FitWalk) : FitWalk :=
  match w.frames with
  | [] => w.fail 2
  | fr :: rest =>
    let w := { w with
      at_ := fr.head, facts := fr.facts, frames := rest, decided := fr.decided, fresh := false, padded := fr.padded
      alignNext := fr.alignNext, items := lastOf fr.items w.items, memo := lastOf fr.memo w.memo, rolls := lastOf fr.rolls w.rolls
      entries := lastOf fr.entries w.entries, targets := lastOf fr.targets w.targets, gread := fr.gread, unr := fr.unr
      mark := fr.mark, dem := fr.dem, asked := fr.asked }
    match c.loops.find? fun l => l.head == fr.head && l.last == fr.last with
    | some l => c.roll w l
    | none => w

/-- A segment ends: the next piece of work, or the program is done. Inside an unrolled body the unrolling is abandoned. -/
def Fitting.endSegment (c : Fitting) (w : FitWalk) : FitWalk :=
  if !w.frames.isEmpty then c.abandon w
  else
    let w := { w with items := match w.items with
      | it :: its => { it with last := true } :: its
      | [] => [] }
    match w.work.filter fun k => !(w.memo.any fun m => m.1 == k) with
    | [] => { w with work := [], status := .done }
    | k :: ks => { w with
        work := ks, at_ := k.addr, facts := k.facts, decided := [], fresh := true, padded := false, alignNext := true
        memo := (k, w.items.length) :: w.memo }

/-- The walk goes on at `a`. -/
def FitWalk.go (w : FitWalk) (a : Nat) (f : Facts) (alignNext : Bool := false) : FitWalk :=
  { w with at_ := a, facts := f, decided := [], fresh := true, padded := false, alignNext := alignNext }

def upTo (a n : Nat) : Nat := (a + n - 1) / n * n

def FitWalk.targetItem (w : FitWalk) : FitTarget → Option Nat
  | .key k => (w.memo.find? fun m => m.1 == k).map (·.2)
  | .item n => some n
  | _ => none

/-- A layout of a program (R47, R348): the address of each item, by number, and the size, with the items in `order` and each target on a
16-byte boundary. -/
def FitWalk.layout (w : FitWalk) (order : List Nat) : Array Nat × Nat :=
  let its := w.items.reverse.toArray
  let ts := w.items.filterMap fun it => w.targetItem it.target
  order.foldl (fun (acc : Array Nat × Nat) n =>
    match its[n]? with
    | some it =>
      let a := if it.align || ts.contains n then upTo acc.2 16 else acc.2
      (acc.1.setIfInBounds n a, a + 4 * it.words)
    | none => acc) (Array.replicate its.size 0, 0)

/-- The items in the order in which the walk made them. -/
def FitWalk.made (w : FitWalk) : List Nat := List.range w.items.length

/-- The words from a branch to its target. -/
def branchDistance (at_ target : Nat) : Int := ((target : Int) - at_) / 4

/-- R348: in this order the program keeps within the limit, and every direct branch reaches its target (R81). -/
def FitWalk.fits (w : FitWalk) (limit : Nat) (order : List Nat) : Bool :=
  let (table, size) := w.layout order
  size ≤ limit && (w.items.reverse.zipIdx.all fun (it, n) =>
    match w.targetItem it.target with
    | some t =>
      let d := branchDistance (table.getD n 0) (table.getD t 0)
      decide (-131072 ≤ d ∧ d < 131072)
    | none => true)

/-- Items that keep together: each run ends with an item that nothing need follow. -/
def FitWalk.runs (w : FitWalk) : List (List Nat) :=
  let (done, open_) := w.items.reverse.zipIdx.foldl (fun (acc : List (List Nat) × List Nat) (it, n) =>
    if it.last then (acc.1 ++ [acc.2 ++ [n]], []) else (acc.1, acc.2 ++ [n])) ([], [])
  if open_.isEmpty then done else done ++ [open_]

/-- R348: an order of the runs in which the program fits, if there is one. -/
def FitWalk.findOrder (w : FitWalk) (limit : Nat) : Nat → List Nat → List (List Nat) → Option (List Nat)
  | 0, done, _ => if w.fits limit done then some done else none
  | n + 1, done, rest => rest.zipIdx.findSome? fun (run, i) => w.findOrder limit n (done ++ run) (rest.eraseIdx i)

/-- The resolved branches whose targets' residuals follow them. -/
def FitWalk.jumps (w : FitWalk) : List Nat := w.items.reverse.zipIdx.filterMap fun (it, n) => if it.jump then some n else none

/-- R344: at these items the target's residual does not follow: the branch becomes a BR to it. -/
def FitWalk.split (w : FitWalk) (ns : List Nat) : FitWalk :=
  let br := (encode (.br 0 0)).getD 0
  { w with items := (w.items.reverse.zipIdx.map fun (it, n) =>
      if ns.contains n then { it with slots := (.l, br, none) :: it.slots, target := .item (n + 1), last := true, jump := false }
      else it).reverse }

def subLists {α : Type} : List α → List (List α)
  | [] => [[]]
  | x :: xs => subLists xs ++ (subLists xs).map (x :: ·)

/-- R348: the program split at these branches, in an order in which it fits, if there is one. -/
def FitWalk.splitOrder (w : FitWalk) (limit : Nat) (ns : List Nat) : Option FitWalk :=
  let v := w.split ns
  let runs := v.runs
  (v.findOrder limit runs.length [] runs).map fun order => { v with order := order }

/-- R346: a copy of a loop has reached its LOOP bundle. -/
def Fitting.endCopy (c : Fitting) (w : FitWalk) (taken : Bool) (fall : Nat) (f : Facts) : FitWalk :=
  match w.frames with
  | [] => w
  | fr :: rest =>
    if taken != decide (fr.copy + 1 < fr.count) || c.limit < (w.layout w.made).2 then c.abandon w
    else if taken then { w.go fr.head f true with frames := { fr with copy := fr.copy + 1 } :: rest }
    else { w.go fall f true with frames := rest, unr := w.unr + 1 }

/-- R345: original addresses that a static operand of a BRI, RET, SETR TRAPVEC or HARM names. -/
def Fitting.named (c : Fitting) (f : Facts) (i : Instr) : List Nat :=
  let val := fun (a : BitVec 5) => if f.knows (.s a.toNat) then some ((f.s[a.toNat]).getD 0).toNat else none
  let v := match i with
    | .bri _ a | .ret _ a => val a
    | .setr _ a n => if n = 7 then (val a).map fun v => v % 2 ^ 57 else none
    | .harm _ _ a => val a
    | _ => none
  match v with
  | some v =>
    let unit := match i with
      | .ret .. => 4
      | _ => 16
    if v % unit == 0 && c.code ≤ v && v < c.code + c.csize then [v] else []
  | none => []

/-- The slots but L (R341, R343, R347): words, learned values, dynamic registers, g registers read, and the counts. -/
structure SlotsFit where
  slots : List (Slot × Nat × Option Nat) := []
  learned : List RegWrite := []
  dynamic : List RegName := []
  gread : BitVec 64 := 0
  mark : Nat := 0
  dem : Nat := 0
  entries : List Nat := []
  sOp : Option Nat := none
  deriving DecidableEq, Repr

def gMask (i : Instr) : BitVec 64 := (gReads i).foldl (fun m n => m ||| (1#64 <<< n)) 0

def isConstLoad : Instr → Bool
  | .lds _ | .ldsx .. => true
  | _ => false

def Fitting.slot (c : Fitting) (w : FitWalk) (f : Fetched) (us : List Use) (acc : SlotsFit) (x : Slot × Nat × Option Nat) (i : Instr) :
    SlotsFit :=
  let bt := markOf x.2.1
  let plain := (x.1, x.2.1 - bt * 2 ^ 29, x.2.2)
  let acc := { acc with entries := acc.entries ++ c.named w.facts i }
  let emitted := { acc with slots := acc.slots ++ [plain], dynamic := acc.dynamic ++ writesOf i }
  let marked := if bt == 1 then { emitted with mark := emitted.mark + 1 } else emitted
  if x.1 == .s && (bt == 1 || bt == 2) then
    match c.evalRepeat f.at_ i f.header.rpt.toNat w.facts with
    | .values ws _ =>
      let r := if isConstLoad i && c.portsOpen w.facts us then plain.2
        else rewritten i x.2.1 x.2.2 (if ws.isEmpty then c.evalZero w.facts f.at_ i x.2.1 x.2.2 else ws)
      { acc with
        slots := acc.slots ++ [(x.1, r.1, r.2)], sOp := if r == plain.2 then none else some (slotOpcode .s x.2.1), learned := acc.learned ++ ws, gread := acc.gread ||| gMask i }
    | .demoted => { emitted with dem := emitted.dem + 1 }
    | .dynamic => marked
  else marked

/-- The knowledge after a bundle. -/
def Fitting.after (c : Fitting) (w : FitWalk) (sf : SlotsFit) (dyn : List RegName) (learned : List RegWrite) : Facts :=
  ((sf.learned ++ learned).foldl Facts.learn (w.facts.dropAll (sf.dynamic ++ dyn))).dropAll c.never

def FitWalk.emit (w : FitWalk) (it : FitItem) : FitWalk := { w with items := it :: w.items }

/-- R345: a direct branch's residual is made with nothing known. -/
def Fitting.dynamicKey (c : Fitting) (w : FitWalk) (target : Nat) : FitKey := { addr := c.header target, ctx := w.ctx, facts := .unknown }

/-- R340: what is known on arrival at `a`: nothing at the target of a dynamic transfer, but at the head of a loop R346 decides. -/
def Fitting.arrive (c : Fitting) (a : Nat) (f : Facts) : Facts :=
  if c.dynamic.contains a && !(c.loops.any fun l => l.head == a) then .unknown else f

/-- R346: the head, as fitted, of a loop kept rolled, for a branch in its body: all that was known there is known here, or still holds because
control comes into the body at that head only. -/
def Fitting.headItem (c : Fitting) (w : FitWalk) (f : Facts) (l : FitLoop) : Option Nat :=
  let mine := w.rolls.filter fun r => r.1 == l.head && r.2.1 == l.last && r.2.2.1 == w.ctx
  let kk := f.dropAll (c.bodyWrites l)
  match mine.find? fun r => r.2.2.2.1.within kk with
  | some r => some r.2.2.2.2
  | none => if c.closed l && !c.apart.contains (l.head, l.last) then mine.head?.map (·.2.2.2.2) else none

/-- R346: where the back branch of a loop kept rolled goes. -/
def Fitting.backTo (c : Fitting) (w : FitWalk) (l : FitLoop) (f : Facts) : FitTarget :=
  match c.headItem w f l with
  | some n => .item n
  | none => .key { addr := l.head, ctx := w.ctx, facts := f.dropAll (c.bodyWrites l) }

/-- R345, R346: the head of a loop kept rolled whose body the branch at `a` to `t` is of. -/
def Fitting.ownHead (c : Fitting) (w : FitWalk) (f : Facts) (a t : Nat) : Option Nat :=
  (c.loops.filter fun l => l.head == c.header t && l.head ≤ a && a ≤ l.last).findSome? (c.headItem w f)

/-- An unresolved L-slot transfer (R344 to R347). `it` is the item so far, `f` the knowledge after the bundle. -/
def Fitting.unresolved (c : Fitting) (w : FitWalk) (it : FitItem) (i : Instr) (f : Facts) (demoted : Bool) : FitWalk :=
  let fall := it.next.toNat
  let ends := fun (w : FitWalk) (it : FitItem) => if w.frames.isEmpty then c.endSegment (w.emit { it with cut := true }) else c.abandon w
  match i with
  | .halt _ | .aret _ | .tret .. | .bri .. | .ret .. => ends w it
  | .br _ o | .brz _ _ o | .brnz _ _ o | .brlt _ _ o | .brge _ _ o | .brq _ _ _ o | .call _ _ o | .loop _ _ o | .loopr _ _ o =>
    let t := (branchTarget it.orig o).toNat
    let back := if isCounted i then c.loops.find? fun l => l.last == it.orig.toNat else none
    let only := match i with
      | .br .. | .call .. => true
      | _ => false
    let isCall := match i with
      | .call .. => true
      | _ => false
    if back.isNone && !w.frames.isEmpty then c.abandon w
    else if demoted || t % 16 != 0 then
      let it := { it with demoted := true }
      if !w.frames.isEmpty then c.abandon w
      else if only then ends w it else (w.emit it).go fall f
    else
      let tgt := match back with
        | some l => c.backTo w l f
        | none => match c.ownHead w f it.orig.toNat t with
          | some n => .item n
          | none => .key (c.dynamicKey w t)
      let key := match tgt with
        | .key k => if w.memo.any fun m => m.1 == k then [] else [k]
        | _ => []
      if !key.isEmpty && !w.frames.isEmpty then c.abandon w
      else
        let w := { w with
          work := w.work ++ key
          targets := (if back.isNone && (match tgt with | .key _ => true | _ => false) then [c.header t] else []) ++ (if isCall then [c.header fall] else []) ++ w.targets
          entries := if isCall then fall :: w.entries else w.entries }
        if only then ends w { it with target := tgt } else (w.emit { it with target := tgt }).go fall f
  | _ => (w.emit it).go fall f

/-- A resolved L-slot transfer (R344): not taken, or taken to `target`. -/
def Fitting.resolved (c : Fitting) (w : FitWalk) (it : FitItem) (lw : Nat) (i : Instr) (target : Option DWord) (f : Facts) : FitWalk :=
  let fall := it.next.toNat
  let lastHere := w.frames.head?.any fun fr => fr.last == it.orig.toNat
  if isCounted i then
    let it := { it with slots := (.l, lw - markOf lw * 2 ^ 29, none) :: it.slots, target := .next, cut := target.isSome }
    let w := w.emit it
    if lastHere then c.endCopy w target.isSome fall f
    else w.go ((target.map (·.toNat)).getD fall) f true
  else
    match target with
    | none => (w.emit it).go fall f
    | some t =>
      let t := t.toNat
      if w.frames.head?.any fun fr => t < fr.head || fr.last < t then c.abandon w
      else
        let h := c.header t
        let key : FitKey := { addr := h, ctx := w.ctx, facts := c.arrive h f }
        if w.memo.any fun m => m.1 == key then
          let br := (encode (.br 0 0)).getD 0
          if w.frames.isEmpty then
            c.endSegment (w.emit { it with slots := (.l, br, none) :: it.slots, target := .key key, cut := true })
          else c.abandon w
        else (w.emit { it with cut := true, jump := true }).go t f

/-- The bundle at hand, its loops decided. The LOOP of a loop kept rolled stays as written (R346). -/
def Fitting.bundle (c : Fitting) (w : FitWalk) (f : Fetched) : FitWalk :=
  let us := namedUses f
  let fall := f.next.toNat
  let it : FitItem := { orig := f.at_, iter := BitVec.ofNat 60 (iterOf w.ctx), header := f.header, slots := []
                        align := w.padded || w.alignNext, next := f.next }
  let lastHere := w.frames.head?.any fun fr => fr.last == f.at_.toNat
  if c.illegal w.facts f us then
    if lastHere then c.abandon w
    else
      let raw := match c.s.codeWord none (c.core .unknown) f.at_ 0 with
        | .ok x => x
        | _ => 0
      let w := { w with mark := w.mark + (f.words.filter fun (x : Slot × Nat × Option Nat) => markOf x.2.1 == 1).length }
      (w.emit { it with raw := some raw, slots := f.words }).go fall (w.facts.dropAll (usesWrites us))
  else
    let instrOf := fun (sl : Slot) => ((us.find? fun u => u.slot == sl).map Use.instr).getD (.lnop 0)
    let sf := (f.words.filter fun x => x.1 != .l).foldl (fun a x => c.slot w f us a x (instrOf x.1)) {}
    let it := { it with slots := sf.slots, sOp := sf.sOp }
    let w := { w with
      gread := w.gread ||| sf.gread, mark := w.mark + sf.mark, dem := w.dem + sf.dem
      entries := sf.entries ++ w.entries, targets := sf.entries.map c.header ++ w.targets }
    match f.words.find? fun x => x.1 == .l with
    | none =>
      if lastHere then c.abandon w
      else (w.emit it).go fall (c.after w sf [] [])
    | some (_, lw, _) =>
      let i := instrOf .l
      let bt := markOf lw
      let rolled := !lastHere && w.rolls.any fun r => r.2.1 == f.at_.toNat && r.2.2.1 == w.ctx
      let e := if (bt == 1 || bt == 2) && fitTransfer i && !rolled then c.eval w.facts f.at_ i else .dynamic
      let w := { w with entries := c.named w.facts i ++ w.entries }
      match e with
      | .values ws t => c.resolved w it lw i t (c.after w sf [] ws)
      | _ =>
        let demoted := e == .demoted
        let w := { w with
          targets := (c.named w.facts i).map c.header ++ w.targets
          mark := if bt == 1 && !demoted then w.mark + 1 else w.mark
          dem := if demoted then w.dem + 1 else w.dem }
        if lastHere then c.abandon w
        else c.unresolved w { it with slots := (.l, lw - bt * 2 ^ 29, none) :: it.slots } i (c.after w sf (writesOf i) []) demoted

/-- R340, R346: the counter of a loop that can be unrolled: at the target of a dynamic transfer none is static. -/
def Fitting.tripCount (c : Fitting) (w : FitWalk) (l : FitLoop) : Option Nat :=
  if c.noUnroll || 6 ≤ w.frames.length || c.dynamic.contains l.head then none
  else
    match c.fetch l.last with
    | .bundle f =>
      match (namedUses f).find? fun u => u.slot == .l, f.words.find? fun x => x.1 == .l with
      | some u, some (_, lw, _) =>
        if markOf lw == 1 || markOf lw == 2 then
          match u.what with
          | .ok (.loop _ n _) | .ok (.loopr _ n _) =>
            (w.facts.n.toList.getD n.toNat none).bind fun v => if max v.toNat 1 ≤ 256 then some (max v.toNat 1) else none
          | _ => none
        else none
      | _, _ => none
    | _ => none

/-- One step of the walk: past pad words, one decision at a loop head, or one bundle. -/
def Fitting.step (c : Fitting) (w : FitWalk) : FitWalk :=
  match w.status with
  | .walking =>
    match c.fetch w.at_ with
    | .pads x => { w with at_ := x.toNat, padded := true }
    | .stopped _ (.fileWait i sz) => { w with status := .file i sz }
    | .stopped _ _ => w.fail 6
    | .bundle f =>
      let a := f.at_.toNat
      let w := if w.fresh then
          let facts := c.arrive a w.facts
          { w with fresh := false, facts := facts, padded := w.padded || a != w.at_
                   memo := ({ addr := a, ctx := w.ctx, facts := facts }, w.items.length) :: w.memo }
        else w
      let lim := (w.frames.head?.map (·.last)).getD (2 ^ 64)
      let open_ := c.loops.filter fun l => l.head == a && l.last < lim && !w.decided.contains l.last
      match open_.foldl (fun (b : Option FitLoop) l => match b with
          | some x => if x.last < l.last then some l else some x
          | none => some l) none with
      | some l =>
        match c.tripCount w l with
        | some n =>
          let unroll := c.choices.getD w.asked c.rest
          let w := { w with asked := w.asked + 1 }
          if !unroll then c.roll w l else
          let fr : FitFrame := {
            head := a, last := l.last, copy := 0, count := n, facts := w.facts, decided := w.decided, items := w.items.length
            memo := w.memo.length, rolls := w.rolls.length, entries := w.entries.length, targets := w.targets.length
            gread := w.gread, unr := w.unr, mark := w.mark, dem := w.dem, asked := w.asked, padded := w.padded
            alignNext := w.alignNext }
          { w with frames := fr :: w.frames, decided := [], fresh := true, at_ := a }
        | none => c.roll w l
      | none =>
        let size := 4 * (w.items.map FitItem.words).sum
        if c.limit < size then (if w.frames.isEmpty then w.fail c.why else c.abandon w) else c.bundle w f
  | _ => w

/-- Steps of one program that a fitting takes at most: beyond them its time is up (notes/assumptions/8.md). -/
def fitSteps : Nat := 2 ^ 22

def Fitting.walk (c : Fitting) : Nat → FitWalk → FitWalk
  | 0, w => w.fail 4
  | n + 1, w =>
    match w.status with
    | .walking => c.walk n (c.step w)
    | _ => w

/-- R348: a program that is done is laid out, or fails. -/
def Fitting.close (c : Fitting) (w : FitWalk) : FitWalk :=
  if w.status != .done then w
  else if c.limit < 4 * (w.items.map FitItem.words).sum then w.fail c.why
  else
    match (subLists w.jumps).findSome? (w.splitOrder c.limit) with
    | some v => v
    | none => w.fail (if c.limit < (w.layout w.made).2 then c.why else 3)

/-- One program from an entry (R339, R345), with the loops that `choices` says unrolled. -/
def Fitting.attempt (c : Fitting) (entry : Nat) (facts : Facts) (choices : List Bool) (rest : Bool) : FitWalk :=
  let c := { c with choices := choices, rest := rest }
  c.close (c.walk fitSteps { at_ := entry, facts := facts.dropAll c.never, alignNext := true })

/-- R348: a limit is passed. -/
def FitWalk.tooBig (w : FitWalk) : Bool := w.status == .failed 2 || w.status == .failed 3

/-- R346, R348: one loop after another is unrolled where the program, with the loops after it kept rolled, is within the limits. -/
def Fitting.choose (c : Fitting) (entry : Nat) (facts : Facts) : Nat → List Bool → FitWalk
  | 0, cs => c.attempt entry facts cs false
  | n + 1, cs =>
    let w := c.attempt entry facts (cs ++ [true]) false
    if w.asked ≤ cs.length then w else c.choose entry facts n (cs ++ [!w.tooBig])

/-- One program from an entry (R339, R345): every loop that can be unrolled is, unless a limit would be passed by it. -/
def Fitting.program (c : Fitting) (entry : Nat) (facts : Facts) : FitWalk :=
  let w := c.attempt entry facts [] true
  if w.tooBig then c.choose entry facts fitSteps [] else w

/-! ### Every program of a kernel -/

/-- The programs of a kernel: role programs and those of the entry table. -/
structure Programs where
  roles : List (Nat × FitWalk)
  entries : List (Nat × FitWalk)
  deriving DecidableEq, Repr

def Programs.all (p : Programs) : List FitWalk := (p.roles ++ p.entries).map (·.2)

def Programs.failure (p : Programs) : Option FitStatus := (p.all.map (·.status)).find? fun x => x != .done

/-- The loops whose head the program has fitted with more than one knowledge. -/
def FitWalk.apart (w : FitWalk) : List (Nat × Nat) := w.rolls.filterMap fun r =>
  if w.rolls.any fun x => x.1 == r.1 && x.2.1 == r.2.1 && x.2.2.1 == r.2.2.1 && x.2.2.2.1 != r.2.2.2.1 then some (r.1, r.2.1) else none

/-- R340, R345: fitted again until the targets of dynamic transfers, the entries and the loops apart stand still. -/
def Fitting.passes (c : Fitting) (roles : List Nat) : Nat → List Nat → List Nat → List (Nat × Nat) → Programs
  | 0, _, _, _ => { roles := [(0, ({ at_ := 0, facts := .unknown } : FitWalk).fail 4)], entries := [] }
  | n + 1, dyn, ents, apart =>
    let c' := { c with dynamic := dyn, entries := ents, apart := apart }
    let p : Programs := { roles := roles.map fun r => (r, c'.program r .reset), entries := ents.map fun r => (r, c'.program r .unknown) }
    if p.failure.isSome then p
    else
      let dyn' := (dyn ++ p.all.flatMap (·.targets)).eraseDups
      let ents' := (ents ++ p.all.flatMap (·.entries)).eraseDups
      let apart' := (apart ++ p.all.flatMap (·.apart)).eraseDups
      if dyn'.length == dyn.length && ents'.length == ents.length && apart'.length == apart.length then p
      else c.passes roles n dyn' ents' apart'

/-! ### Layout into residual bundles -/

def padWord : Word := 0x00800000

/-- A branch's words with its offset (R81). -/
def setOffset (w : Nat) (d : Int) : Nat := w / 2 ^ 18 * 2 ^ 18 + ofSigned 18 d

/-- The residual bundle of an item at its address. -/
def FitItem.place (it : FitItem) (base at_ : Nat) (target : Option Nat) : ResBundle :=
  let present := it.slots.foldl (fun (p : BitVec 7) s => p ||| (1#7 <<< s.1.index)) 0
  let hw := it.raw.getD ({ it.header with p := present } : Header).encode
  let ws := it.slots.flatMap fun s =>
    let w := match s.1, target with
      | .l, some t => setOffset s.2.1 (branchDistance at_ t)
      | _, _ => s.2.1
    w :: s.2.2.toList
  { addr := BitVec.ofNat 64 (base + at_), orig := it.orig, iter := it.iter, words := (hw :: ws).map (BitVec.ofNat 32)
    origNext := it.next, demoted := it.demoted, cut := it.cut, sOp := it.sOp }

/-- The pad words from `a` up to `b`. -/
def padsTo (base a b : Nat) : List ResBundle :=
  (List.range ((b - a) / 4)).map fun i => { addr := BitVec.ofNat 64 (base + a + 4 * i), orig := 0, words := [padWord] }

/-- A program's bundles at `base`, in their layout. -/
def FitWalk.place (w : FitWalk) (base : Nat) : List ResBundle :=
  let (table, size) := w.layout w.order
  let its := w.items.reverse.toArray
  let at_ := fun n => table.getD n size
  (w.order.foldl (fun (acc : List ResBundle × Nat) n =>
    match its[n]? with
    | some it =>
      let target := match it.target with
        | .next => some (at_ (n + 1))
        | t => (w.targetItem t).map at_
      (acc.1 ++ padsTo base acc.2 (at_ n) ++ [it.place base (at_ n) target], at_ n + 4 * it.words)
    | none => acc) ([], 0)).1

/-- Where a program starts. -/
def FitWalk.entryAt (w : FitWalk) : Nat := (w.layout w.order).1.getD 0 0

/-- What a fitting comes to. -/
inductive FitResult where
  | fitted (progs : List (DWord × DWord × SpecStatus)) (bundles : List ResBundle) (entries : List (DWord × DWord)) (bytes : Nat)
      (mask : BitVec 64)
  | failed (reason : BitVec 4)
  | file (index size : Nat)
  deriving DecidableEq, Repr

def saturate (n : Nat) : BitVec 8 := BitVec.ofNat 8 (min n 255)

/-- Every program placed one after another, each on a multiple of 256: entry, start and program, the bundles, and the bytes. -/
def placeAll (ps : List (Nat × FitWalk)) (base : Nat) : List (Nat × Nat × FitWalk) × List ResBundle × Nat :=
  ps.foldl (fun acc (a, w) =>
    (acc.1 ++ [(a, residualBase + acc.2.2 + w.entryAt, w)], acc.2.1 ++ w.place (residualBase + acc.2.2)
      , acc.2.2 + upTo (w.layout w.order).2 256)) ([], [], base)

/-- R339 to R349: fits a kernel for an errand's launch. -/
def State.fitKernel (s : State) (r : RecNo) (k : Kernel) : FitResult :=
  let im := k.theImage
  let grow := k.fitgrow * k.csize
  let u := k.uniform.toArray
  let c : Fitting := {
    s := s, asid := (s.errand r).asid, g := Vector.ofFn fun i => u.getD i 0, bench := im.fill .bench 0, constLo := im.constLo
    constHi := im.constHi, code := k.code.toNat, csize := k.csize, noUnroll := k.config.getLsbD 1
    limit := min grow (2 ^ 20), why := if grow ≤ 2 ^ 20 then 2 else 3 }
  let (bs, stop) := c.scan (c.csize / 4 + 1) c.code
  let c := c.survey bs
  let roles := ((List.range (8 * k.crew)).map fun i => (k.entryOf i).toNat).eraseDups
  let p := c.passes roles (k.csize + 8) [] roles []
  match stop with
  | some (.fileWait i sz) => .file i sz
  | some _ => .failed 6
  | none =>
    match p.failure with
    | some (.failed reason) => .failed reason
    | some (.file i sz) => .file i sz
    | some _ => .failed 4
    | none =>
      let (roles, bs, size) := placeAll p.roles 0
      let (entries, es, bytes) := placeAll p.entries size
      let word := BitVec.ofNat 64
      .fitted
        (roles.map fun x => (word x.1, word x.2.1, { dem := saturate x.2.2.dem, mark := saturate x.2.2.mark, unr := saturate x.2.2.unr }))
        (bs ++ es) (entries.map fun x => (word x.1, word x.2.1)) bytes (p.all.foldl (fun m w => m ||| w.gread) 0)

end Sys2Proof.Machine
end

