-- ==== Sys2Proof/Machine/Sha.lean ====
section
/-! DEFINITION. SHA-384, which R350, R352, R402 and R406 name and do not define: PRESUMED, as FIPS 180-4 gives it
(notes/assumptions/56.md). -/

namespace Sys2Proof.Machine.Sha

/-- The largest number of `n` bits above `acc` that `fits`. -/
def largest (fits : Nat → Bool) : Nat → Nat → Nat
  | 0, acc => acc
  | n + 1, acc => largest fits n (if fits (acc + 2 ^ n) then acc + 2 ^ n else acc)

def primes : List Nat := [
  2, 3, 5, 7, 11, 13, 17, 19, 23, 29, 31, 37, 41, 43, 47, 53, 59, 61, 67, 71, 73, 79, 83, 89, 97, 101, 103, 107, 109, 113,
  127, 131, 137, 139, 149, 151, 157, 163, 167, 173, 179, 181, 191, 193, 197, 199, 211, 223, 227, 229, 233, 239, 241, 251,
  257, 263, 269, 271, 277, 281, 283, 293, 307, 311, 313, 317, 331, 337, 347, 349, 353, 359, 367, 373, 379, 383, 389, 397,
  401, 409]

/-- The round constants: 64 bits after the point of the cube roots of the first 80 primes. -/
def constants : List DWord := primes.map fun p => BitVec.ofNat 64 (largest (fun t => t ^ 3 ≤ p * 2 ^ 192) 68 0)

/-- The initial value: 64 bits after the point of the square roots of the ninth to the sixteenth prime. -/
def initial : List DWord := ((primes.drop 8).take 8).map fun p => BitVec.ofNat 64 (largest (fun t => t ^ 2 ≤ p * 2 ^ 128) 69 0)

/-- The message in blocks of sixteen words, big-endian: a one bit, zeros, and the length in 128 bits follow it. -/
def padded (bs : List Byte) : List Byte :=
  let n := bs.length
  let zeros := (239 - n % 128) % 128
  bs ++ [0x80] ++ List.replicate zeros 0 ++ (List.range 16).map fun i => BitVec.ofNat 8 (8 * n / 256 ^ (15 - i))

def wordsOf : Nat → List Byte → List DWord
  | 0, _ => []
  | n + 1, bs => (bs.take 8).foldl (fun w b => w <<< 8 ||| b.setWidth 64) 0 :: wordsOf n (bs.drop 8)

def small0 (x : DWord) : DWord := x.rotateRight 1 ^^^ x.rotateRight 8 ^^^ x >>> 7
def small1 (x : DWord) : DWord := x.rotateRight 19 ^^^ x.rotateRight 61 ^^^ x >>> 6
def big0 (x : DWord) : DWord := x.rotateRight 28 ^^^ x.rotateRight 34 ^^^ x.rotateRight 39
def big1 (x : DWord) : DWord := x.rotateRight 14 ^^^ x.rotateRight 18 ^^^ x.rotateRight 41

/-- The message schedule: `n` more words, the latest first. -/
def schedule : Nat → List DWord → List DWord
  | 0, w => w
  | n + 1, w => schedule n ((small1 (w.getD 1 0) + w.getD 6 0 + small0 (w.getD 14 0) + w.getD 15 0) :: w)

/-- The eight working words. -/
structure Work where
  a : DWord
  b : DWord
  c : DWord
  d : DWord
  e : DWord
  f : DWord
  g : DWord
  h : DWord

def round (x : Work) (k w : DWord) : Work :=
  let t1 := x.h + big1 x.e + ((x.e &&& x.f) ^^^ (~~~x.e &&& x.g)) + k + w
  let t2 := big0 x.a + ((x.a &&& x.b) ^^^ (x.a &&& x.c) ^^^ (x.b &&& x.c))
  { a := t1 + t2, b := x.a, c := x.b, d := x.c, e := x.d + t1, f := x.e, g := x.f, h := x.g }

def Work.words (x : Work) : List DWord := [x.a, x.b, x.c, x.d, x.e, x.f, x.g, x.h]

/-- One block. -/
def compress (v : List DWord) (block : List DWord) : List DWord :=
  let w := (schedule 64 block.reverse).reverse
  let g := fun i => v.getD i 0
  let x := (constants.zip w).foldl (fun x kw => round x kw.1 kw.2) ⟨g 0, g 1, g 2, g 3, g 4, g 5, g 6, g 7⟩
  (v.zip x.words).map fun p => p.1 + p.2

def blocks : Nat → List Byte → List DWord → List DWord
  | 0, _, v => v
  | n + 1, bs, v => blocks n (bs.drop 128) (compress v (wordsOf 16 bs))

/-- The digest's 48 bytes. -/
def sha384 (bs : List Byte) : List Byte :=
  let p := padded bs
  (blocks (p.length / 128) p initial).take 6 |>.flatMap fun (w : DWord) => (List.range 8).map fun i => (w >>> (8 * (7 - i))).setWidth 8

end Sys2Proof.Machine.Sha
end

