-- ==== Sys2Proof/Machine/Fitter.lean ====
section
/-! DEFINITION. The four Fitter engines (R339), the cache (R350, R351) and its control block (R353), and falling back (R348). -/

namespace Sys2Proof.Machine

/-! ### Keys (R350) -/

def Kernel.off (k : Kernel) : Bool := k.config.getLsbD 0
def Kernel.nocache (k : Kernel) : Bool := k.config.getLsbD 2

/-- R350: the first eight bytes of the SHA-384 digest of the launch-time format table, 64 images of 32 bytes. -/
def Kernel.fmtDigest (k : Kernel) : DWord :=
  BitVec.ofNat 64 (leNat ((Sha.sha384 (k.theImage.startMatrix.fmtTable.toList.flatMap fun e => leBytes 32 e.toNat)).take 8))

/-- R350: two launches' g registers agree wherever the mask has a bit. -/
def sameUnder (mask : DWord) (a b : List Word) : Bool := (List.range 64).all fun i => !mask.getLsbD i || a.getD i 0 == b.getD i 0

/-- R339, R350: the lookup hits, wherever the launch has its code (notes/assumptions/19.md). -/
def CacheEntry.hit (e : CacheEntry) (k : Kernel) (digest : DWord) : Bool :=
  !e.dropped && !e.nocache && e.kid == k.kid && e.digest == digest && e.config == k.config && sameUnder e.mask e.values k.uniform

/-- What keys have in common before a fitting has shown which g registers count. -/
def Kernel.sameBase (a b : Kernel) : Bool := a.kid == b.kid && a.config == b.config && a.fmtDigest == b.fmtDigest

/-! ### The jobs -/

def State.fitter (s : State) (e : BitVec 2) : Option FitJob := s.hub.fitters[e.toNat]
def State.setFitter (s : State) (e : BitVec 2) (j : Option FitJob) : State :=
  s.updHub fun h => { h with fitters := h.fitters.set e.toNat j }

/-- R339: a launch has been through the Fitter, and asks the Foreman for a crew. -/
def State.askCrew (s : State) (q : LaunchReq) : State := s.updHub fun h => { h with waiting := h.waiting ++ [q] }

/-- R348: the launch runs unspecialised. -/
def State.fallBack (s : State) (q : LaunchReq) (reason : BitVec 4) : State :=
  s.askCrew { q with spec := { reason := reason }, residual := none }

/-- R351: the launch uses an entry, pins it, and makes it the most recently used. -/
def State.useEntry (s : State) (q : LaunchReq) (e : CacheEntry) (state : BitVec 2) : State :=
  let e := { e with pins := e.pins + 1 }
  (s.updHub fun h => { h with cache := (h.cache.filter fun x => x.id != e.id) ++ [e] }).askCrew
    { q with spec := { state := state }, residual := some e.id }

def State.lookup (s : State) (k : Kernel) : Option CacheEntry :=
  if k.nocache then none else
    let digest := k.fmtDigest
    s.hub.cache.find? fun e => e.hit k digest

/-- R351: another engine is fitting the same kernel, whose key may prove equal. -/
def State.beingFitted (s : State) (k : Kernel) : Bool :=
  !k.nocache && s.hub.fitters.toList.any fun j => j.any fun j => j.stage == 1 && j.req.kernel.sameBase k

/-- R348 OFF, R350, R351: what becomes of a job before any fitting: it ends, waits for another's fitting (stage 0), or is fitted
(stage 1). -/
def State.startJob (s : State) (e : BitVec 2) (j : FitJob) : State :=
  let k := j.req.kernel
  if k.off then ((s.setFitter e none).fallBack j.req 1).foreman
  else
    match s.lookup k with
    | some c => ((s.setFitter e none).useEntry j.req c 2).foreman
    | none => s.setFitter e (some { j with stage := if s.beingFitted k then 0 else 1 })

/-- FITTER_JOB (R339): a free engine takes the launch that has waited longest. -/
def execFitterJob (e : BitVec 2) (s : State) : Result :=
  match s.fitter e, s.hub.fitQueue with
  | none, q :: qs => .next ((s.updHub fun h => { h with fitQueue := qs }).startJob e { req := q, taken := s.now })
  | _, _ => .next s

/-! ### The cache (R351) -/

/-- Bytes of the residual region in use. -/
def Hub.residualBytes (h : Hub) : Nat := (h.cache.map (·.bytes)).sum

/-- Directory entries in use. -/
def Hub.directory (h : Hub) : Nat := (h.cache.filter fun e => !e.nocache && !e.dropped).length

def residualRegion : Nat := 512 * 2 ^ 20

/-- R351: unpinned entries go, the least recently used first, until `bytes` more fit; `none` where they cannot. -/
def Hub.makeRoom (h : Hub) (bytes : Nat) (entry : Bool) : Nat → Option Hub
  | 0 => none
  | n + 1 =>
    if h.residualBytes + bytes ≤ residualRegion && (!entry || h.directory < 8192) then some h
    else
      match h.cache.find? fun e => e.pins == 0 with
      | some e => { h with cache := h.cache.erase e }.makeRoom bytes entry n
      | none => none

/-- R351: a waiting job whose key is equal under the mask of the fitting that failed. -/
def FitJob.waitsOn (j : FitJob) (k : Kernel) : Bool :=
  j.stage == 0 && j.req.kernel.sameBase k && j.req.kernel.uniform == k.uniform

/-- R348, R351: a fitting has failed: its launch falls back, and with it those whose keys are equal; the others go on. -/
def State.failFit (s : State) (e : BitVec 2) (j : FitJob) (reason : BitVec 4) : State :=
  let engines : List (BitVec 2) := (List.range 4).map (BitVec.ofNat 2)
  let s := (s.setFitter e none).fallBack j.req reason
  let s := engines.foldl (fun (s : State) (x : BitVec 2) =>
    match s.fitter x with
    | some w => if w.waitsOn j.req.kernel then (s.setFitter x none).fallBack w.req reason else s
    | none => s) s
  s.foreman

/-- R339: the budget of a fitting, in nanoseconds. -/
def fitBudget : Nat := 2000000

/-- FIT_BUDGET_EXPIRY (R339, R348): a fitting that has had its 2 ms falls back with reason TIME. -/
def execFitBudgetExpiry (e : BitVec 2) (s : State) : Result :=
  match s.fitter e with
  | some j => if j.stage == 1 && j.taken + fitBudget ≤ s.now then .next (s.failFit e j 4) else .next s
  | none => .next s

/-- R350, R351: the residual is stored, or there is no room for it. -/
def State.storeFit (s : State) (e : BitVec 2) (j : FitJob) (progs : List (DWord × DWord × SpecStatus)) (bundles : List ResBundle)
    (entries : List (DWord × DWord)) (bytes : Nat) (mask : BitVec 64) : State :=
  let k := j.req.kernel
  match s.hub.makeRoom bytes (!k.nocache) (s.hub.cache.length + 1) with
  | none => s.failFit e j 5
  | some h =>
    let c : CacheEntry := {
      id := h.nextEntry, kid := k.kid, mask := mask, values := k.uniform, digest := k.fmtDigest, config := k.config
      code := k.code, progs := progs, bundles := bundles, entries := entries, bytes := bytes, nocache := k.nocache }
    let s := { s with hub := { h with nextEntry := h.nextEntry + 1 } }
    ((s.setFitter e none).useEntry j.req c 1).foreman

/-- FITTING_COMPLETE (R339 to R351): an engine has fitted its kernel, or falls back; a job that waited for a fitting that is over is
looked up again. -/
def execFittingComplete (e : BitVec 2) (s : State) : Result :=
  match s.fitter e with
  | none => .next s
  | some j =>
    if j.stage == 0 then .next (if s.beingFitted j.req.kernel then s else s.startJob e j)
    else if j.taken + fitBudget ≤ s.now then .next (s.failFit e j 4)
    else
      match s.fitKernel j.req.errand j.req.kernel with
      | .fitted progs bundles entries bytes mask => .next (s.storeFit e j progs bundles entries bytes mask)
      | .failed reason => .next (s.failFit e j reason)
      | .file i sz => .next (s.startFileRead i sz)

/-! ### The control block (R353) -/

/-- R351, R353: entries are dropped for later lookups; a pinned one keeps its residual. -/
def State.dropEntries (s : State) (which : CacheEntry → Bool) : State :=
  s.updHub fun h => { h with
    cache := (h.cache.map fun e => if which e && !e.nocache then { e with dropped := true } else e).filter fun e =>
      !(e.dropped && e.pins == 0) }

/-- R224: a register write through a port: accepted through the active one only. -/
def State.bar0Write (s : State) (p : Port) (act : State → State) : Result :=
  if !s.hub.ready then .next s else
  let s := s.lapse
  if s.hub.active == some p then .next (act s) else .next s

/-- FLUSH (R353): FITCTL written with FLUSH = 1. -/
def execFlush (p : Port) (s : State) : Result := s.bar0Write p fun s => s.dropEntries fun _ => true

/-- FITKID (R353). -/
def execFitkid (p : Port) (kid : DWord) (s : State) : Result :=
  s.bar0Write p fun s => (s.putBar0 0x3008 kid).dropEntries fun e => e.kid == kid

/-- R353: FITCTL as it reads. -/
def State.fitctl (s : State) : DWord :=
  BitVec.ofNat 64 (s.hub.directory * 2 ^ 32 + (s.hub.residualBytes + 2 ^ 20 - 1) / 2 ^ 20 * 2 ^ 12)

end Sys2Proof.Machine
end

