-- ==== Sys2Proof/Machine/Power.lean ====
section
/-! DEFINITION. Power: sprint leases (R292 to R303), the heat store (R302), current pressure (R305), clock by sensitivity (R308),
temperature (R309), the slack cap (R310, Slack.lean), and the monitors that fence a cluster (R312). -/

namespace Sys2Proof.Machine

/-! ### The clock (R292 to R294) -/

/-- R293. -/
def levelClock (level : BitVec 2) : Nat :=
  match level.toNat with
  | 1 => 950
  | 2 => 1050
  | _ => 1150

/-- R292: the target clock. -/
def Cluster.target (y : Cluster) : Nat :=
  let base := match y.lease with
    | some l => levelClock l.level
    | none => y.base
  let capped := y.cap.elim base (min base)
  if y.throttled then min capped 600 else capped

/-- CLOCK_STEP (R294): the clock reaches its target. -/
def execClockStep (cl : ClusterNo) (s : State) : Result := .next (s.updCluster cl fun y => { y with mhz := y.target })

/-! ### Leases (R295, R296, R303) -/

/-- LEASE_EXPIRY (R295, R303). -/
def execLeaseExpiry (cl : ClusterNo) (s : State) : Result := .next (s.expireLease cl)

/-- R296: the arbiter's decision, with the cluster's new lease. -/
def State.decideLease (s : State) (cl : ClusterNo) (usec : DWord) (level : BitVec 2) : Option Lease × DWord :=
  let y := s.cluster cl
  let z := s.die (dieOf cl)
  let t := min usec.toNat 4000
  let left := y.lease.elim 0 fun l => l.remaining s.now
  if t == 0 || y.lease.any fun l => level ≤ l.level then (y.lease, BitVec.ofNat 64 left)
  else if 850 ≤ z.melt.toNat || z.refreeze || y.throttled then (y.lease, 0)
  else (some { level := level, ends := s.now + 1000 * t }, BitVec.ofNat 64 t)

/-- LEASE_REQUEST_DECISION (R296, R300): the hub decides the request of a core's SPRINT, or ends the lease for its SPRINTX. -/
def execLeaseRequestDecision (c : CoreNo) (s : State) : Result :=
  match (s.core c).request, (s.core c).answer with
  | some (_, usec, level), none =>
    let cl := clusterOf c
    let s := s.expireLease cl
    let r := if level = 0 then (none, BitVec.ofNat 64 ((s.cluster cl).lease.elim 0 fun l => l.remaining s.now))
      else s.decideLease cl usec level
    .next ((s.updCluster cl fun y => { y with lease := r.1 }).updCore c fun k => { k with answer := some r.2 })
  | _, _ => .next s

/-- R301: the write of the hub's answer, to the register that the request named at its issue (R32, R60). -/
def Core.landAnswer (k : Core) (d : BitVec 5) (v : DWord) : Core :=
  if d = 0 then k
  else if k.answerArr then k.land1 (.arr (BitVec.ofNat 3 (d.toNat - 24)) v) else k.land1 (.s d v)

/-- SPRINT_ANSWER (R301): s[sd] is written in the cycle in which the hold ends, at most 2 µs after the issue; what is held issues in the
next cycle. A diversion that waited for it follows (R60). -/
def execSprintAnswer (c : CoreNo) (s : State) : Result :=
  match (s.core c).request, (s.core c).answer with
  | some (d, _, _), some v =>
    let s := s.passHeld c 0 (some (2 * (s.cluster (clusterOf c)).mhz - 1))
    let due := (s.core c).divertDue
    let s := s.updCore c fun k => { k.landAnswer d v with
      request := none, answer := none, divertDue := false, hold := if k.hold == .sprint then .none else k.hold
      ctl := { k.ctl with cycle := k.ctl.cycle + 1 } }
    .next (if due then { s with cur := c }.divertNow else s)
  | _, _ => .next s

/-! ### The heat store (R302) -/

def State.clustersOfDie (_ : State) (z : DieNo) : List ClusterNo := (List.range 16).map fun i => BitVec.ofNat 6 (z.toNat * 16 + i)

/-- MELT_SAMPLE (R302). -/
def execMeltSample (z : DieNo) (permil : BitVec 10) (s : State) : Result :=
  let p : BitVec 10 := BitVec.ofNat 10 (min permil.toNat 1000)
  let s := s.updDie z fun d => { d with melt := p }
  if 950 ≤ p.toNat then
    let s := (s.clustersOfDie z).foldl (fun s cl => (s.expireLease cl).endLease cl true) s
    .next (s.updDie z fun d => { d with refreeze := true, lastHot := s.now })
  else .next (s.updDie z fun d =>
    if d.refreeze && p.toNat ≤ 250 && d.lastHot + 30000000000 ≤ s.now then { d with refreeze := false } else d)

/-! ### Fencing (R312, R313) -/

/-- R312, R407: the leading steward fences a cluster past limit `lim`. -/
def State.fence (s : State) (cl : ClusterNo) (lim : BitVec 2) : State :=
  if (s.cluster cl).fenced || !s.led then s
  else (s.updCluster cl fun y => { y with fenced := true }).updHub fun h => { h with replaced := true, lastCl := cl, lastLim := lim }

/-- CORRECTED_MEMORY_ERROR (R312): more than 256 in an hour. -/
def execCorrectedMemoryError (cl : ClusterNo) (s : State) : Result :=
  let s := s.updCluster cl fun y => { y with
    corrected := (y.corrected.filter fun t => s.now < t + 3600000000000) ++ [s.now] }
  .next (if 256 < (s.cluster cl).corrected.length then s.fence cl 1 else s)

/-- PROCESS_MONITOR_SAMPLE (R312): PMON more than 8 % below its value at test. -/
def execProcessMonitorSample (cl : ClusterNo) (count : BitVec 16) (s : State) : Result :=
  let s := s.updCluster cl fun y => { y with pmon := count }
  .next (if 100 * count.toNat < 92 * Config.pmonTest cl then s.fence cl 2 else s)

/-! ### Current pressure (R305, R312) -/

/-- R305: the level that a sag, in ‰ of the set point, calls for. -/
def sagLevel (sag : BitVec 10) : Nat := if 70 ≤ sag.toNat then 3 else if 50 ≤ sag.toNat then 2 else if 30 ≤ sag.toNat then 1 else 0

/-- R312: the spans of P3 follow the level. -/
def Cluster.setPressure (y : Cluster) (level now : Nat) : Cluster :=
  let y := { y with pressure := BitVec.ofNat 2 level }
  match level == 3, y.p3Since with
  | true, none => { y with p3Since := some now }
  | false, some t => { y with p3Since := none, p3Spans := y.p3Spans ++ [(t, now)] }
  | _, _ => y

/-- Nanoseconds of P3 in the second before `now`. -/
def Cluster.p3Time (y : Cluster) (now : Nat) : Nat :=
  let spans := y.p3Spans ++ (y.p3Since.map fun t => (t, now)).toList
  (spans.map fun x => x.2 - max x.1 (now - 1000000000)).sum

/-- R312: P3 for more than 1 % of a second fences the cluster. -/
def State.watchP3 (s : State) (cl : ClusterNo) : State :=
  let s := s.updCluster cl fun y => { y with p3Spans := y.p3Spans.filter fun x => s.now < x.2 + 1000000000 }
  if 10000000 < (s.cluster cl).p3Time s.now then s.fence cl 3 else s

/-- R305: the level falls by one where 10 µs have passed without a sag that called for it. -/
def Cluster.decay (y : Cluster) (now : Nat) : Cluster :=
  let at_ := y.pressureAt + 10000
  if y.pressure != 0 && at_ ≤ now then { (y.setPressure (y.pressure.toNat - 1) at_) with pressureAt := at_ } else y

/-- R305: all the falls that are due, of three levels at most. -/
def Cluster.decayed (y : Cluster) (now : Nat) : Cluster := ((y.decay now).decay now).decay now

/-- DROOP_SAMPLE (R305): the falls that are due come first. -/
def execDroopSample (cl : ClusterNo) (sag : BitVec 10) (s : State) : Result :=
  let l := sagLevel sag
  let s := s.updCluster cl fun y =>
    let y := y.decayed s.now
    if l != 0 && y.pressure.toNat ≤ l then { (y.setPressure l s.now) with pressureAt := s.now } else y
  .next (s.watchP3 cl)

/-- PRESSURE_DECAY (R305): 10 µs without a sag that called for the level. -/
def execPressureDecay (cl : ClusterNo) (s : State) : Result :=
  .next ((s.updCluster cl fun y => y.decayed s.now).watchP3 cl)

/-! ### Clock by sensitivity (R308) -/

/-- SENSITIVITY_WINDOW (R308, R311): a window of 50 µs ends. -/
def execSensitivityWindow (cl : ClusterNo) (s : State) : Result :=
  if s.now < (s.cluster cl).windowAt + 50000 then .next s else .next (s.endSensWindows cl 1)

/-! ### Temperature (R309) -/

/-- The dwell of 2 ms since the last change of throttling is over. -/
def Cluster.dwelt (y : Cluster) (now : Nat) : Bool := y.throttleAt.all fun t => t + 2000000 ≤ now

/-- TEMPERATURE_SAMPLE (R309). -/
def execTemperatureSample (cl : ClusterNo) (t : BitVec 12) (s : State) : Result :=
  let s := s.updCluster cl fun y => { y with tmax := t }
  let y := s.cluster cl
  if !y.throttled && 760 ≤ t.toNat && y.dwelt s.now then
    .next ((((s.expireLease cl).endLease cl true).slackDue cl).updCluster cl fun y =>
      { y with throttled := true, throttleAt := some s.now, throttleMarks := y.throttleMarks ||| 1 })
  else if y.throttled && t.toNat < 736 && y.dwelt s.now then
    .next (s.updCluster cl fun y => { y with throttled := false, throttleAt := some s.now })
  else .next s

/-! ### The slack cap (R310) -/

/-- SLACK_WINDOW (R310): the windows that have ended take effect. -/
def execSlackWindow (cl : ClusterNo) (s : State) : Result := .next (s.slackDue cl)

end Sys2Proof.Machine
end

