-- ==== Sys2Proof/Machine/Services.lean ====
section
/-! DEFINITION. The wicket and the clerks (R359 to R368), the stewards (R369), and the page cache (R370, R371). -/

namespace Sys2Proof.Machine

/-! ### Blocks and replies (R362) -/

/-- Word A`n` of a call's argument block. -/
def Call.arg (c : Call) (n : Nat) : DWord := (c.block >>> (64 * (n + 1))).setWidth 64
def Call.callno (c : Call) : DWord := c.block.setWidth 64
def Call.ref (c : Call) : CallRef := { core := c.core, reply := c.reply, callno := c.callno }
def Call.text (c : Call) : List Byte := leBytes 40 (c.block >>> 192).toNat

/-- The call a block asks for. -/
def Call.asks (c : Call) : Option Instr := decodeCallBlock c.cap c.ref c.arg c.text

namespace Errc
def none : Nat := 0
def badArg : Nat := 1
def unsupported : Nat := 2
def io : Nat := 3
def peerLost : Nat := 4
def noSpace : Nat := 5
def jFull : Nat := 6
end Errc

/-- R362: a reply of STATUS `status` and ERRC `errc` with results R0 on. -/
def replyWord (callno : DWord) (status errc : Nat) (results : List Nat) : BitVec 512 :=
  BitVec.ofNat 512 (leNat (leBytes 8 callno.toNat ++ leBytes 8 (errc * 256 + status) ++ results.flatMap (leBytes 8)))

/-! ### The journal (R365) -/

def Errand.entry (e : Errand) (cap : BitVec 3) (callno : DWord) : Option JournalEntry :=
  e.journal.find? fun j => j.cap == cap && j.callno == callno

def Errand.putEntry (e : Errand) (j : JournalEntry) : Errand :=
  { e with journal := j :: e.journal.filter fun x => !(x.cap == j.cap && x.callno == j.callno) }

/-! ### Clerk images (R368) -/

/-- Calls of a capability that its clerk has taken and not finished. -/
def Hub.inFlight (h : Hub) (cap : BitVec 3) : Bool :=
  (h.calls.any fun c => c.cap == cap && c.running && c.answer.isNone) || (cap == 2 && (!h.decodeQueue.isEmpty || h.decoders.any (·.isSome)))

def Hub.clerk (h : Hub) (cap : BitVec 3) : BitVec 2 := h.clerkSt[cap.toNat]
def Hub.setClerk (h : Hub) (cap : BitVec 3) (st : BitVec 2) : Hub := { h with clerkSt := h.clerkSt.set cap.toNat st }

/-- R366, R368: a clerk takes new calls unless it drains or replays. -/
def Hub.clerkOpen (h : Hub) (cap : BitVec 3) : Bool := h.clerk cap == 0 || h.clerk cap == 3

/-- R368: the new image starts, and replays the calls that the old one left NOT_DONE. -/
def State.startImage (s : State) (cap : BitVec 3) : State :=
  let replay := fun (c : Call) => if c.cap == cap && cap != 2 then { c with fault := none } else c
  s.updHub fun h =>
    let h := { h with
      images := if hc : cap.toNat + 1 < 9 then h.images.set (cap.toNat + 1) (h.clerkNew[cap.toNat]) else h.images
      calls := h.calls.map replay }
    h.setClerk cap (if h.inFlight cap then 2 else 0)

/-- A call of the capability is over: a drained clerk starts its new image, and a replaying one is done with its last call. -/
def State.settleClerk (s : State) (cap : BitVec 3) : State :=
  if s.hub.inFlight cap then s
  else if s.hub.clerk cap == 1 then (if s.led then s.startImage cap else s)
  else if s.hub.clerk cap == 2 then s.updHub fun h => h.setClerk cap 0
  else s

/-- R18, R402, R403: the test of an image whose bytes `b` gives by offset and count, both its signatures among it. -/
def imageAccepted (b : Nat → Nat → List Byte) : Bool :=
  let f := fun o n => leNat (b o n)
  let kind := f 4 2
  f 0 4 == 0x49424D47 && kind ≤ 2 && (b 16672 224).all (· == 0) && b 16 48 == Sha.sha384 (b 16896 (f 8 4))
    && Config.rsaSigned (b 0 64) (b 64 384) && Config.slhSigned (b 0 64) (b 448 16224) && Config.minSvn kind ≤ f 12 4

/-- R403: the test of an image in HBM. -/
def State.imageOk (s : State) (a : Nat) : Bool := imageAccepted fun o n => s.hbm.bytes (a + o) n

/-- R368: a switch begins: the image is verified, and starts at once where it is forced or nothing is in flight. -/
def State.beginSwitch (s : State) (cap : BitVec 3) (forced : Bool) : State :=
  let a := bitsOf (s.hub.bar0.get (0x5100 + 8 * cap.toNat) 0).toNat 12 40 * 4096
  if !s.imageOk a then s.updHub fun h => h.setClerk cap 3
  else
    let s := s.updHub fun h => { (h.setClerk cap 1) with
      clerkAt := h.clerkAt.set cap.toNat s.now, clerkNew := h.clerkNew.set cap.toNat (s.hbm.bytes (a + 16) 48) }
    if forced || !s.hub.inFlight cap then s.startImage cap else s

/-- R368, R369: GO written to CLERKSW; with no leading steward the next leader takes it up. -/
def State.askSwitch (s : State) (cap : BitVec 3) (img : BitVec 40) (forced : Bool) : State :=
  let s := s.putBar0 (0x5100 + 8 * cap.toNat) (BitVec.ofNat 64 (img.toNat * 2 ^ 12 + forced.toNat * 2))
  if !s.hub.clerkOpen cap || s.hub.clerkAsk.getLsbD cap.toNat then s
  else if s.led then s.beginSwitch cap forced
  else s.updHub fun h => { h with clerkAsk := h.clerkAsk ||| (1#8 <<< cap.toNat) }

/-- CLERK_SWITCH (R368). -/
def execClerkSwitch (p : Port) (cap : BitVec 3) (img : BitVec 40) (s : State) : Result :=
  s.bar0Write p fun s => if cap = 0 then s else s.askSwitch cap img false

/-- CLERK_SWITCH_FORCED (R368). -/
def execClerkSwitchForced (p : Port) (cap : BitVec 3) (img : BitVec 40) (s : State) : Result :=
  s.bar0Write p fun s => if cap = 0 then s else s.askSwitch cap img true

/-- R368: 10 ms after the switch began. -/
def State.switchTimeout (s : State) (cap : BitVec 3) : State :=
  if s.led && s.hub.clerk cap == 1 && s.hub.clerkAt[cap.toNat] + 10000000 ≤ s.now then s.startImage cap else s

/-- CLERK_SWITCH_TIMEOUT (R368). -/
def execClerkSwitchTimeout (cap : BitVec 3) (s : State) : Result := .next (s.switchTimeout cap)

/-! ### The steward lease (R369) -/

/-- STEWARD_LEASE_RENEW (R369). -/
def execStewardLeaseRenew (s : State) : Result :=
  .next (if s.led then s.updHub fun h => { h with steward := { h.steward with expiry := s.now + 2000000 } } else s)

/-- STEWARD_LEASE_EXPIRY (R369): a leader that has not renewed stops its duties. They go by the lease's expiry itself (`State.led`), so
nothing else changes. -/
def execStewardLeaseExpiry (s : State) : Result := .next s

/-- R369: a new leader goes on with the failover and the switches left to it. -/
def State.leadOn (s : State) : State :=
  let caps : List (BitVec 3) := (List.range 8).map (BitVec.ofNat 3)
  let s := caps.foldl (fun (s : State) (cap : BitVec 3) =>
    let s := if s.hub.clerkAsk.getLsbD cap.toNat then
        (s.updHub fun h => { h with clerkAsk := h.clerkAsk &&& ~~~(1#8 <<< cap.toNat) }).beginSwitch cap
          ((s.hub.bar0.get (0x5100 + 8 * cap.toNat) 0).toNat / 2 % 2 == 1)
      else s
    (s.switchTimeout cap).settleClerk cap) s
  s.lapse

/-- STEWARD_LEASE_TAKEOVER (R369): the follower of rank `rank`, 1 the next after the old holder, takes the lease rank × 100 µs after the
expiry. -/
def execStewardLeaseTakeover (rank : BitVec 3) (s : State) : Result :=
  let l := s.hub.steward
  if !s.hub.ready || rank = 0 || 4 < rank.toNat || s.now < l.expiry + 100000 * rank.toNat then .next s
  else .next (s.updHub fun h => { h with steward := {
    holder := BitVec.ofNat 3 ((l.holder.toNat + rank.toNat) % 5), epoch := l.epoch + 1, expiry := s.now + 2000000 } }).leadOn

/-! ### A call at its clerk (R363 to R365) -/

/-- R364, R365: the call ends; its reply lands, or waits for a parked errand. -/
def State.finishCall (s : State) (c : Call) (w : BitVec 512) : State :=
  let s := s.updHub fun h => { h with calls := h.calls.erase c }
  let s := if (s.crewOfErrand c.errand).isSome || c.lost then s.landReply c w
    else if s.hub.waiting.any fun q => q.errand == c.errand && q.saved.isSome then
      s.updHub fun h => { h with calls := h.calls ++ [{ c with answer := some w, fault := none }] }
    else s
  s.settleClerk c.cap

/-- R365: the entry is written as DONE with the reply, and then the reply is sent. -/
def State.endCall (s : State) (c : Call) (w : BitVec 512) : State :=
  (s.updErrand c.errand fun e => e.putEntry {
    cap := c.cap, callno := c.callno, state := .done w, choice := (e.entry c.cap c.callno).bind (·.choice) }).finishCall c w

/-- What a clerk's work on a call comes to: its results, an error with the results it has got all the same, or a hold. -/
inductive ClerkRes where
  | done (s : State) (results : List Nat)
  | error (s : State) (errc : Nat) (results : List Nat)
  | held (s : State) (f : HeldFault)
  deriving DecidableEq, Repr

/-- What a clerk's choice for a call comes to (R365). -/
inductive Chosen where
  | made (s : State) (choice : Nat)
  | error (s : State) (errc : Nat)
  | held (s : State) (f : HeldFault)
  deriving DecidableEq, Repr

/-- The call an operation of a clerk works on: one under way, or the first of its capability at the wicket. -/
def Hub.callFor (h : Hub) (cap : BitVec 3) (i : Instr) : Option Call :=
  match h.calls.find? fun c => c.cap == cap && c.answer.isNone && c.asks == some i with
  | some c => if c.fault.isSome then none else some c
  | none => if h.clerkOpen cap then (h.wicket.find? fun c => c.cap == cap).filter fun c => c.asks == some i else none

/-- Takes a call from the wicket's queue. -/
def Hub.takeCall (h : Hub) (c : Call) : Hub :=
  if h.calls.contains c then h else { h with wicket := h.wicket.erase c, calls := h.calls ++ [c] }

def Hub.setCall (h : Hub) (c d : Call) : Hub := { h with calls := h.calls.map fun x => if x == c then d else x }

/-- R365: an effect that depends on no choice. -/
def noChoice (s : State) (_ : Call) : Chosen := .made s 0

/-- R365: the choice is made and stands in the entry before the effect, which a retry or a replay makes again by it. -/
def State.workOn (s : State) (c : Call) (choose : State → Call → Chosen) (act : State → Call → Nat → ClerkRes) : State :=
  let hold := fun (t : State) (f : HeldFault) => t.updHub fun h => h.setCall c { c with fault := some f }
  let fail := fun (t : State) (errc : Nat) (rs : List Nat) => t.endCall c (replyWord c.callno 2 errc rs)
  let go := fun (t : State) (n : Nat) =>
    match act t c n with
    | .done u rs => u.endCall c (replyWord c.callno 0 0 rs)
    | .error u errc rs => fail u errc rs
    | .held u f => hold u f
  match ((s.errand c.errand).entry c.cap c.callno).bind (·.choice) with
  | some n => go s n
  | none =>
    match choose s c with
    | .made t n => go (t.updErrand c.errand fun e => e.putEntry {
        cap := c.cap, callno := c.callno, state := .notDone, choice := some n }) n
    | .error t errc => fail t errc []
    | .held t f => hold t f

/-- R365: the clerk handles the call that asks for `i`: a key in the journal is answered from it; else the entry is written, then the
effect made. -/
def State.serve (s : State) (cap : BitVec 3) (i : Instr) (choose : State → Call → Chosen) (act : State → Call → Nat → ClerkRes) :
    Result :=
  match s.hub.callFor cap i with
  | none => .next s
  | some c =>
    let s := s.updHub fun h => h.takeCall c
    if c.running then .next (s.workOn c choose act)
    else
      match (s.errand c.errand).entry cap c.callno with
      | some j =>
        match j.state with
        | .notDone => .next s
        | .done w => .next (s.finishCall c w)
        | .refused => .next (s.finishCall c (replyWord c.callno 1 0 []))
      | none =>
        if journalSize ≤ (s.errand c.errand).journal.length then .next (s.finishCall c (replyWord c.callno 2 Errc.jFull []))
        else
          let d := { c with running := true }
          let s := (s.updHub fun h => h.setCall c d).updErrand c.errand fun e =>
            e.putEntry { cap := cap, callno := c.callno, state := .notDone }
          .next (s.workOn d choose act)

/-- R362, R365, R367: calls whose OP has no meaning are answered with BADARG, or as the journal answers their key. -/
def State.answerBadOps (s : State) : State :=
  let bad := fun (c : Call) => c.asks.isNone && c.answer.isNone
  ((s.hub.wicket.filter fun c => bad c && s.hub.clerkOpen c.cap) ++ s.hub.calls.filter bad).foldl (fun s c =>
    let s := s.updHub fun h => h.takeCall c
    match (s.errand c.errand).entry c.cap c.callno with
    | some j =>
      match j.state with
      | .notDone => s
      | .done w => s.finishCall c w
      | .refused => s.finishCall c (replyWord c.callno 1 0 [])
    | none =>
      if journalSize ≤ (s.errand c.errand).journal.length then s.finishCall c (replyWord c.callno 2 Errc.jFull [])
      else s.endCall c (replyWord c.callno 2 Errc.badArg [])) s

/-- R368: the new image cannot complete a call that it replays: the reply handle is FULL with O = 0 and ERR = 2, and an INVOKE_FAULT of
kind A is raised at the core. When that is, is the image's own; its entry stays NOT_DONE (notes/assumptions/57.md). -/
def State.replayFails (s : State) (k : CallRef) (cap : BitVec 3) : State :=
  match s.hub.calls.find? fun c => c.cap == cap && c.running && c.answer.isNone && c.ref == k with
  | none => s
  | some c =>
    if s.hub.clerk cap != 2 || (s.crewOfErrand c.errand).isNone then s
    else
      let t := s.engineRecord c.core 0 c.charge 0 { cause := Cause.invokeFault, hnd := some c.reply, aux := cap.toNat } none
      let s := s.updHub fun h => { h with calls := h.calls.erase c }
      let s := if (s.core c.core).status == .contained || c.lost then s
        else s.updCore c.core fun k => (k.updHandle c.reply fun h => h.stopped 2).addPending otherSource t
      s.settleClerk cap

/-- WICKET_ACCEPT (R363): the lowest-numbered core that is held for room issues its INVOKE; the wicket hands on what it holds. -/
def execWicketAccept (s : State) : Result :=
  let s := s.answerBadOps
  if wicketSize ≤ s.hub.wicket.length then .next s
  else
    match ((List.range 512).map (BitVec.ofNat 9)).find? fun (c : CoreNo) => s.mayIssue c && (s.core c).hold == .wicket with
    | some c => .next (s.retry c .wicket)
    | none => .next s

/-- R264, R265, R270, R367: an access of a clerk (class 5) or a decoder (class 4) for an errand: a page fault holds it with a record. -/
def State.clerkHeld {α : Type} (s : State) (r : RecNo) (cls : BitVec 3) (unit : Nat) (wr : Bool) (prog : Nat := 0) :
    Access α → State × HubRes α
  | .ok a => (s, .ok a)
  | .pageFault va =>
    let (s, h) := s.hubPageFault r { cls := cls, unit := BitVec.ofNat 9 unit, prog := BitVec.ofNat 64 prog } va wr
    (s, .held h)
  | .fileWait i sz => (s.startFileRead i sz, .held (heldOnFile i))
  | .protection _ | .fileIo _ => (s, .fault)

def State.clerkRead (s : State) (c : Call) (a n : Nat) : State × HubRes (List Byte) :=
  s.clerkHeld c.errand 5 c.cap.toNat false 0 (s.vread (s.errand c.errand).asid a n)

def State.clerkWrite (s : State) (c : Call) (a : Nat) (bs : List Byte) : State × HubRes Unit :=
  let (t, r) := s.vwrite (s.errand c.errand).asid a bs
  t.clerkHeld c.errand 5 c.cap.toNat true 0 r

/-! ### FILE (R367, R370) -/

/-- A page of the page cache as a clerk meets it. -/
def State.filePage (s : State) (index : Nat) : Access (Nat × Nat) :=
  match s.pageEntry index with
  | none => .protection 0
  | some e =>
    let w := s.hbm.num e 8
    match w % 4 with
    | 2 => .ok (bitsOf w 12 40 * 4096, e)
    | 3 => .fileIo 0
    | _ => .fileWait index 4096

/-- A FILE call after `d` pages whose next access comes to `r`: an error gives the bytes done (R367). -/
def fileStep {α : Type} (d : Nat) (r : State × HubRes α) (next : State → α → ClerkRes) : ClerkRes :=
  match r with
  | (t, .ok a) => next t a
  | (t, .held f) => .held t f
  | (t, .fault) => .error t Errc.io [4096 * d]

/-- `n` pages of a READ from page `index` and address `a` on, after `d` pages. -/
def State.fileReadPages (s : State) (c : Call) (index a d : Nat) : Nat → ClerkRes
  | 0 => .done s [4096 * d]
  | n + 1 =>
    fileStep d (s.clerkHeld c.errand 5 1 false 0 (s.filePage index)) fun t (frame, _) =>
      fileStep d (t.clerkWrite c a (t.hbm.bytes frame 4096)) fun u _ => u.fileReadPages c (index + 1) (a + 4096) (d + 1) n

/-- `n` pages of a WRITE, after `d` pages. -/
def State.fileWritePages (s : State) (c : Call) (index a d : Nat) : Nat → ClerkRes
  | 0 => .done s [4096 * d]
  | n + 1 =>
    fileStep d (s.clerkHeld c.errand 5 1 true 0 (s.filePage index)) fun t (frame, e) =>
      fileStep d (t.clerkRead c a 4096) fun u bs =>
        (u.writeAt (.file frame e) bs).fileWritePages c (index + 1) (a + 4096) (d + 1) n

/-- `n` pages of a FLUSH, after `d` pages: a dirty page is written back and its DIRTY cleared. -/
def State.fileFlushPages (s : State) (index d : Nat) : Nat → ClerkRes
  | 0 => .done s [4096 * d]
  | n + 1 =>
    match s.pageEntry index with
    | none => .error s Errc.io [4096 * d]
    | some e =>
      let w := s.hbm.num e 16
      let s := if w % 4 == 2 && bitsOf w 4 1 == 1 then
          { s with hbm := s.hbm.write e [s.hbm.read e &&& ~~~0x10#8] }.updHub fun h => { h with
            flushed := h.flushed ++ [(bitsOf w 112 16, bitsOf w 64 48)] }
        else s
      s.fileFlushPages (index + 1) (d + 1) n

/-- What a FILE call comes to: its length is a multiple of 4,096. -/
def fileCall (bytes : DWord) (work : Nat → ClerkRes) (s : State) : ClerkRes :=
  if bytes.toNat % 4096 != 0 then .error s Errc.badArg [] else work (bytes.toNat / 4096)

/-- FILE READ (R367). -/
def execFileRead (k : CallRef) (page : DWord) (addr : DWord) (bytes : DWord) (s : State) : Result :=
  s.serve 1 (.fileRead k page addr bytes) noChoice fun s c _ => fileCall bytes (s.fileReadPages c page.toNat addr.toNat 0) s

/-- FILE WRITE (R367). -/
def execFileWrite (k : CallRef) (page : DWord) (addr : DWord) (bytes : DWord) (s : State) : Result :=
  s.serve 1 (.fileWrite k page addr bytes) noChoice fun s c _ => fileCall bytes (s.fileWritePages c page.toNat addr.toNat 0) s

/-- FILE FLUSH (R367). -/
def execFileFlush (k : CallRef) (page : DWord) (bytes : DWord) (s : State) : Result :=
  s.serve 1 (.fileFlush k page bytes) noChoice fun s _ _ => fileCall bytes (s.fileFlushPages page.toNat 0) s

/-- A held access to a file page that is not being read any more tries again. -/
def releaseFile (idx : BitVec 40) (f : Option HeldFault) : Option HeldFault := f.filter fun x => x.file != some idx

def Core.releaseFile (k : Core) (idx : BitVec 40) : Core :=
  let off := Machine.releaseFile idx
  let cmd := fun (m : CopyCmd) => { m with fault := off m.fault }
  let ff := off k.fetchFault
  { k with
    fetchFault := ff, hold := if k.hold == .fetch && ff.isNone then .accept else k.hold
    c0 := { k.c0 with queue := k.c0.queue.map cmd }, c1 := { k.c1 with queue := k.c1.queue.map cmd }
    matrix := { k.matrix with fault := off k.matrix.fault, fetches := k.matrix.fetches.map cmd } }

/-- The read under way of an entry; one that the host marked READING itself is of one block. -/
def State.readOf (s : State) (index e : Nat) : FileRead :=
  let w := s.hbm.num e 16
  (s.hub.reads.find? fun x => x.index == index).getD {
    index := index, size := 4096, frame := bitsOf w 12 40 * 4096, nsid := bitsOf w 112 16, lba := bitsOf w 64 48 }

/-- `n` bytes of a list, zeros where it ends. -/
def fitBytes (n : Nat) (bs : List Byte) : List Byte := (bs ++ List.replicate n 0).take n

/-- Held accesses to a file page that is not being read any more are replayed (R371). -/
def State.releaseReads (s : State) (idx : BitVec 40) : State :=
  let off := releaseFile idx
  let call := fun (c : Call) => { c with fault := off c.fault }
  let errand := fun (x : Errand) => { x with
    fetchFault := off x.fetchFault, waitFault := off x.waitFault
    inflight := x.inflight.map fun y => { y with fault := off y.fault } }
  let s := s.updHub fun h => { h with
    errands := h.errands.map errand, calls := h.calls.map call
    decoders := h.decoders.map fun d => d.map fun j => { j with call := call j.call } }
  { s with cores := s.cores.map fun k => k.releaseFile idx }

/-- PAGE_CACHE_READ_COMPLETE (R371): the read ends with the leaf page's bytes in FRAME, or has failed. -/
def execPageCacheReadComplete (idx : BitVec 40) (data : Option (List Byte)) (s : State) : Result :=
  match s.pageEntry idx.toNat with
  | none => .next s
  | some e =>
    let b := s.hbm.read e
    if b.toNat % 4 != 1 then .next s
    else
      let x := s.readOf idx.toNat e
      let s := s.updHub fun h => { h with reads := h.reads.filter fun y => y.index != idx.toNat }
      let s := match data with
        | some bs => { s with hbm := (s.hbm.write x.frame (fitBytes x.size bs)).write e [b &&& ~~~3#8 ||| 2#8] }
        | none => { s with hbm := s.hbm.write e [b ||| 3#8] }
      .next (s.releaseReads idx)

/-! ### ALLOC (R367) -/

/-- The arena of an ASID: base and size. -/
def State.arena (s : State) (asid : BitVec 12) : Nat × Nat :=
  ((s.hub.bar0.get (0x10000 + 16 * asid.toNat) 0).toNat, (s.hub.bar0.get (0x10008 + 16 * asid.toNat) 0).toNat)

def alignTo (a n : Nat) : Nat := (a + n - 1) / n * n

/-- R367: the lowest-addressed range that fits. -/
def State.findRange (s : State) (asid : BitVec 12) (bytes align : Nat) : Option Nat :=
  let (base, size) := s.arena asid
  let mine := s.hub.arenas.filter fun x => x.1 == asid
  let fits := fun a => a + bytes ≤ base + size && mine.all fun x => !overlaps a bytes x.2.1 x.2.2
  if size == 0 then none
  else ((base :: mine.map fun x => x.2.1 + x.2.2).map (alignTo · align)).foldl (fun (b : Option Nat) a =>
    if base ≤ a && fits a then some (b.elim a (min a)) else b) none

/-- R367: an alignment ALLOC takes. -/
def alignOk (a : Nat) : Bool := 64 ≤ a && a ≤ 2 ^ 21 && a == 2 ^ a.log2

/-- ALLOC (R365, R367): the range is chosen, then taken. -/
def execAllocCall (k : CallRef) (bytes : DWord) (align : DWord) (s : State) : Result :=
  s.serve 3 (.allocCall k bytes align)
    (fun s c =>
      if !alignOk align.toNat then .error s Errc.badArg
      else match s.findRange (s.errand c.errand).asid bytes.toNat align.toNat with
        | none => .error s Errc.noSpace
        | some x => .made s x)
    fun s c x =>
      let range := ((s.errand c.errand).asid, x, bytes.toNat)
      .done (s.updHub fun h => { h with arenas := (h.arenas.filter (· != range)) ++ [range] }) [x]

/-- ALLOC FREE (R367): a range given earlier. -/
def execAllocFree (k : CallRef) (addr : DWord) (s : State) : Result :=
  let mine := fun (s : State) (c : Call) (x : BitVec 12 × Nat × Nat) => x.1 == (s.errand c.errand).asid && x.2.1 == addr.toNat
  s.serve 3 (.allocFree k addr)
    (fun s c => if s.hub.arenas.any (mine s c) then .made s 0 else .error s Errc.badArg)
    fun s c _ => .done (s.updHub fun h => { h with arenas := h.arenas.filter fun x => !mine s c x }) []

/-! ### TIME, PRINT, NOTIFY and STATUS (R366, R367) -/

/-- TIME (R367). -/
def execTimeCall (k : CallRef) (s : State) : Result := s.serve 4 (.timeCall k) noChoice fun s _ _ => .done s [s.hubTime]

/-- The bytes of a hub access that must not end otherwise than well or held. -/
def HubRes.clerk {α : Type} (r : State × HubRes α) (next : State → α → ClerkRes) : ClerkRes :=
  match r with
  | (t, .ok a) => next t a
  | (t, .held f) => .held t f
  | (t, .fault) => .error t Errc.io []

/-- R365: whether another PRINT has taken its slot of the ring whose control block `c` names, and not yet entered its record: until then the
ring's PROD still gives that slot. -/
def State.slotTaken (s : State) (c : Call) : Bool :=
  let ring := fun (d : Call) =>
    let asid := (s.errand d.errand).asid
    match s.place asid (ringBase (d.arg 0)) false false with
    | .ok p => (p.codeKey.1, 0, p.codeKey.2)
    | _ => (2, asid.toNat, ringBase (d.arg 0))
  s.hub.calls.any fun d => d.cap == 5 && d.running && d.answer.isNone && d != c && ring d == ring c
    && (((s.errand d.errand).entry 5 d.callno).bind (·.choice)).isSome

/-- PRINT (R365, R367): the slot is PROD as it is read, unless the ring is full; then a record of 64 bytes enters it. -/
def execPrintCall (k : CallRef) (ring : DWord) (len : DWord) (text : List Byte) (s : State) : Result :=
  let b := ringBase ring
  if ((s.hub.callFor 5 (.printCall k ring len text)).map s.slotTaken).getD false then .next s
  else s.serve 5 (.printCall k ring len text)
    (fun s c =>
      if len.toNat < 1 || 40 < len.toNat then .error s Errc.badArg
      else match s.clerkRead c b 16 with
        | (t, .held f) => .held t f
        | (t, .fault) => .error t Errc.io
        | (t, .ok bs) =>
          let prod := leNat (bs.take 8)
          if (prod + 2 ^ 64 - leNat (bs.drop 8)) % 2 ^ 64 == ringSize ring then .error t Errc.noSpace else .made t prod)
    fun s c prod =>
      let record := leBytes 8 len.toNat ++ text ++ List.replicate 16 0
      HubRes.clerk (s.clerkWrite c (b + 64 + 64 * (prod % ringSize ring)) record) fun s _ =>
        HubRes.clerk (s.clerkWrite c b (leBytes 8 (prod + 1))) fun s _ => .done s [prod]

/-- NOTIFY (R367): the word is written, then the notice sent. -/
def execNotifyCall (k : CallRef) (addr : DWord) (v : DWord) (s : State) : Result :=
  s.serve 6 (.notifyCall k addr v) noChoice fun s c _ =>
    if addr.toNat % 8 != 0 then .error s Errc.badArg []
    else HubRes.clerk (s.clerkWrite c addr.toNat (leBytes 8 v.toNat)) fun s _ =>
      .done (s.notice c.errand Reason.signal 0xFFFFFFFF) []

/-- R366: 0 DONE, 1 NOT_DONE, 2 REFUSED. -/
def Errand.callStatus (e : Errand) (cap callno : DWord) : Nat :=
  let state : Option JournalState := (e.journal.find? fun j => j.cap.toNat == cap.toNat && j.callno == callno).map fun j => j.state
  match state with
  | some (.done _) => 0
  | some .refused => 2
  | _ => 1

/-- STATUS (R366). -/
def execStatusCall (k : CallRef) (callno : DWord) (cap : DWord) (s : State) : Result :=
  s.serve 7 (.statusCall k callno cap) noChoice fun s c _ => .done s [(s.errand c.errand).callStatus cap callno]

end Sys2Proof.Machine
end

