-- ==== Sys2Proof/Machine/Package.lean ====
section
/-! DEFINITION. The package: reset and boot (R401 to R404, R409), attestation (R405, R406), health (R407), the registers of BAR 0 as they
are written and read (R4, R224, R311, R331, R353, R360, R368, R370), invalidation (R225), host memory accesses (R222) and links. -/

namespace Sys2Proof.Machine

/-! ### Reset (R409) -/

/-- R302, R409: a zone's heat is not reset; one at 250 ‰ or above starts in refreeze. -/
def Die.afterReset (d : Die) (now : Nat) : Die :=
  { melt := d.melt, refreeze := 250 ≤ d.melt.toNat, lastHot := now }

/-- R409: what sensors show is not reset. -/
def Cluster.afterReset (y : Cluster) (now : Nat) : Cluster := { tmax := y.tmax, pmon := y.pmon, windowAt := now, slackAt := now }

/-- R409: package reset. What lies outside the package stays: host memory, the messages sent, the wall clock. -/
def State.resetPackage (s : State) : State :=
  { State.reset with
    now := s.now, agenda := s.agenda, turn := s.turn, free := s.free, host := s.host
    dies := s.dies.map fun d => d.afterReset s.now
    clusters := s.clusters.map fun y => y.afterReset s.now
    hub := { resets := s.hub.resets + 1, epoch0 := s.now, hbmTemp := s.hub.hbmTemp, msix := s.hub.msix, flushed := s.hub.flushed
             linkSent := s.hub.linkSent, flash := s.hub.flash } }

/-- PACKAGE_RESET (R409). -/
def execPackageReset (s : State) : Result := .next s.resetPackage

/-- RAIL_FAULT (R401): a rail out of tolerance resets the package as PKGRST_N does. -/
def execRailFault (s : State) : Result := .next s.resetPackage

/-! ### Boot (R402 to R404) -/

/-- R402: bytes of image `i` of a slot: 0 the hub steward's, 1 the compute-die stewards', 2 to 8 the clerks'. -/
def Hub.flashBytes (h : Hub) (slotB : Bool) (i : Nat) (at_ n : Nat) : List Byte :=
  fitBytes n ((h.flash.toList.getD (9 * slotB.toNat + i) []).drop at_)

/-- R403: the image is accepted. -/
def Hub.flashOk (h : Hub) (slotB : Bool) (i : Nat) : Bool := imageAccepted (h.flashBytes slotB i)

/-- R401, R402: an image is written to the boot flash. -/
def State.flashWrite (s : State) (slotB : Bool) (i : Nat) (bs : List Byte) : State :=
  let n := 9 * slotB.toNat + i
  s.updHub fun h => { h with flash := if hi : i < 9 ∧ n < 18 then h.flash.set n bs hi.2 else h.flash }

/-- R404: recovery, with its cause. -/
def State.recover (s : State) (slotB : Bool) (fail : BitVec 8) : State :=
  s.updHub fun h => { h with recov := true, slotB := slotB, fail := fail }

/-- R404: steps 2 to 5, from slot A or B: the compute-die stewards' image and the seven clerks' come of the same slot. -/
def State.bootFrom (s : State) (slotB : Bool) (fail : BitVec 8) (hbm : Bool) : State :=
  if !(List.range 8).all fun i => s.hub.flashOk slotB (i + 1) then s.recover slotB 4
  else if !hbm then s.recover slotB 3
  else
    let s := s.updHub fun h => { h with
      ready := true, slotB := slotB, fail := fail, images := Vector.ofFn fun i => h.flashBytes slotB i.val 16 48
      steward := { holder := 0, epoch := 1, expiry := s.now + 2000000 } }
    { s with dies := s.dies.map fun d => { d with loft := [], lastHot := if d.refreeze then s.now else d.lastHot } }

/-- R311: a sample of a stack's temperature. -/
def State.sampleStack (s : State) (stack : BitVec 4) (t : BitVec 12) : State :=
  s.updHub fun h => { h with hbmTemp := if hs : stack.toNat < 12 then h.hbmTemp.set stack.toNat t else h.hbmTemp }

/-- BOOT (R404): after package reset, from the images that the boot flash holds; `hbm` is what HBM training and loft initialisation answer. -/
def execBoot (hbm : Bool) (s : State) : Result :=
  if s.hub.ready || s.hub.recov then .next s
  else if s.hub.flashOk false 0 then .next (s.bootFrom false 0 hbm)
  else if s.hub.flashOk true 0 then .next (s.bootFrom true 1 hbm)
  else .next (s.recover false 2)

/-- HOT_RESET (R409): the port's notice registers reset, and the active port's lease ends at once. -/
def execHotReset (p : Port) (s : State) : Result :=
  let s := s.updHub fun h => h.setNotices p {}
  if s.hub.active == some p then .next (s.updHub fun h => { h with leaseEnd := s.now }).lapse else .next s

/-! ### Registers as they read -/

/-- R407. -/
def State.health (s : State) : DWord :=
  let h := s.hub
  let n := (allClusters.filter fun c => (s.cluster c).fenced).length
  BitVec.ofNat 64 (n * 2 ^ 32 + h.lastCl.toNat * 2 ^ 26 + h.lastLim.toNat * 2 ^ 24 + h.steward.holder.toNat * 2 ^ 21
    + h.fail.toNat * 2 ^ 8 + h.recov.toNat * 2 ^ 3 + h.slotB.toNat * 2 ^ 2 + h.replaced.toNat * 2 + h.ready.toNat)

/-- R407. -/
def State.fenceWord (s : State) : DWord :=
  BitVec.ofNat 64 (allClusters.map fun c => if (s.cluster c).fenced then 2 ^ c.toNat else 0).sum

/-- R311: PR and LSE are live: neither waits for the event that ends a level or a lease. -/
def State.pstatWord (s : State) (cl : ClusterNo) : DWord :=
  let y := s.cluster cl
  BitVec.ofNat 64 (y.tmax.toNat * 2 ^ 52 + y.droopSplits / 2 ^ 16 % 256 * 2 ^ 32 + y.pmon.toNat * 2 ^ 16 + y.pressureNow s.now * 2 ^ 14
    + y.throttled.toNat * 2 ^ 13 + (y.lease.any fun l => s.now < l.ends).toNat * 2 ^ 12 + y.fenced.toNat * 2 ^ 11 + y.mhz)

/-- R331, R334: REM is the lease that remains. DESIGN CHOICE (notes/assumptions/37.md): a fraction of a microsecond counts whole, and the
standby port reads 0. -/
def State.hleaseWord (s : State) (p : Port) : DWord :=
  let active := s.hub.active == some p
  let rem := if active then (s.hub.leaseEnd - s.now + 999) / 1000 else 0
  BitVec.ofNat 64 (s.hub.focnt.toNat * 2 ^ 32 + rem * 2 ^ 16 + active.toNat * 2)

/-- R225. -/
def State.invstatWord (s : State) : DWord :=
  BitVec.ofNat 64 (s.hub.invDone.toNat * 2 ^ 32 + s.hub.invDrop.toNat * 2 + (!s.hub.invals.isEmpty).toNat)

/-- R368: CLERKSW with ST, and GO until the switch is done. -/
def State.clerkswWord (s : State) (cap : Nat) : DWord :=
  let st := s.hub.clerk (BitVec.ofNat 3 cap)
  let go := st == 1 || st == 2 || s.hub.clerkAsk.getLsbD cap
  s.hub.bar0.get (0x5100 + 8 * cap) 0 ||| BitVec.ofNat 64 (st.toNat * 4 + go.toNat)

/-- The registers that hold what was written to them: their writable bits and reset value. -/
def plainRegister (off : Nat) : Option (DWord × DWord) :=
  let lines := fun (hi lo : Nat) => BitVec.ofNat 64 (2 ^ (hi + 1) - 2 ^ lo)
  if off == 0x0200 || off == 0x0208 then some (lines 51 6, 0)
  else if off == 0x1020 then some (lines 15 0, 20)
  else if off == 0x2000 then some (lines 51 15 ||| 1, 0)
  else if off == 0x2008 then some (~~~lines 13 12, 0)
  else if off == 0x3008 then some (BitVec.allOnes 64, 0)
  else if 0x4000 ≤ off && off < 0x4800 && off % 32 == 0 then some (lines 57 48 ||| lines 41 32 ||| lines 26 16 ||| lines 10 0, Sens.reset)
  else if off == 0x4800 then some (lines 31 0, 0x000A0002)
  else if off == 0x5000 then some (lines 51 12, 0)
  else if off == 0x5008 then some (lines 39 0, 0)
  else if 0x5108 ≤ off && off ≤ 0x5138 && off % 8 == 0 then some (lines 51 12 ||| 2, 0)
  else if 0x8000 ≤ off && off < 0xC000 && off % 8 == 0 then some (0xFE, 0)
  else if 0x10000 ≤ off && off < 0x20000 && off % 8 == 0 then some (BitVec.allOnes 64, 0)
  else none

/-- What a read of BAR 0 through a port gives; in recovery HEALTH and the ATTEST block only (R404, R405). -/
def State.bar0Read (s : State) (p : Port) (offset : BitVec 20) : DWord :=
  let off := offset.toNat
  let n := s.hub.notices p
  let attest := off == 0x0100 || (0x0200 ≤ off && off ≤ 0x0210)
  if !s.hub.ready && !(s.hub.recov && attest) then 0
  else if off == 0x0100 then s.health
  else if off == 0x0108 then s.fenceWord
  else if off == 0x0210 then BitVec.ofNat 64 (s.hub.attest.toNat * 3)
  else if off == 0x1000 then s.hleaseWord p
  else if off == 0x1008 then n.nrbase
  else if off == 0x1010 then BitVec.ofNat 64 (n.lost.toNat * 2 ^ 32 + n.prod.toNat)
  else if off == 0x1018 then n.cons.setWidth 64
  else if off == 0x2010 then s.invstatWord
  else if off == 0x3000 then s.fitctl
  else if 0x4000 ≤ off && off < 0x4800 && off % 32 == 8 then s.pstatWord (BitVec.ofNat 6 ((off - 0x4000) / 32))
  else if 0x4900 ≤ off && off < 0x4960 && off % 8 == 0 then
    ((s.hub.hbmTemp.toList.getD ((off - 0x4900) / 8) 0).setWidth 64)
  else if 0x4A00 ≤ off && off < 0x4A20 && off % 8 == 0 then s.meltWord (BitVec.ofNat 2 ((off - 0x4A00) / 8))
  else if 0x5108 ≤ off && off ≤ 0x5138 && off % 8 == 0 then s.clerkswWord ((off - 0x5100) / 8)
  else
    match plainRegister off with
    | some (_, d) => s.hub.bar0.get off d
    | none => 0

/-- R408: the registers that the management controller reads. -/
def managed (off : Nat) : Bool :=
  (0x0100 ≤ off && off < 0x0218) || (0x4000 ≤ off && off < 0x4800 && (off % 32 == 0 || off % 32 == 8))
    || (0x4900 ≤ off && off < 0x4960) || (0x4A00 ≤ off && off < 0x4A20)

/-- R408: a read over I3C: before READY every register but HEALTH is 0. `none`: the controller has no such register. -/
def State.i3cRead (s : State) (offset : BitVec 20) : Option DWord :=
  if !managed offset.toNat then none
  else if offset == 0x0100 then some s.health
  else if s.hub.ready then some (s.bar0Read .a offset)
  else some 0

/-- R407: the alert line of MGMT. -/
def State.alert (s : State) : Bool := s.hub.replaced || s.hub.recov

/-! ### Registers as they are written -/

/-- R311: a value that SENS accepts. -/
def sensOk (v : DWord) : Bool :=
  Sens.fmax v % 25 == 0 && Sens.fmin v % 25 == 0 && 400 ≤ Sens.fmin v && Sens.fmin v ≤ Sens.fmax v && Sens.fmax v ≤ 800
    && Sens.lo v ≤ Sens.hi v && Sens.hi v ≤ 1000

/-- R4: a register without behaviour of its own takes a write. -/
def State.writeRegister (s : State) (p : Port) (off : Nat) (v : DWord) : State :=
  let n := s.hub.notices p
  if off == 0x1008 then s.updHub fun h => h.setNotices p { n with nrbase := v &&& 0xFFFFFFFFFF00F#64 }
  else if off == 0x1018 then s.updHub fun h => h.setNotices p { n with cons := v.setWidth 32 }
  else if off == 0x2010 then s.updHub fun h => { h with invDrop := h.invDrop && !v.getLsbD 1 }
  else if off == 0x1020 && (v.toNat % 2 ^ 16 == 0 || 1000 < v.toNat % 2 ^ 16) then s
  else if 0x4000 ≤ off && off < 0x4800 && !sensOk v then s
  else
    match plainRegister off with
    | some (mask, _) => (s.windowsDue off).putBar0 off (v &&& mask)
    | none => s

/-- REGISTER_WRITE (R4, R224): reserved bits and RO and HW fields ignore it. -/
def execRegisterWrite (p : Port) (off : BitVec 20) (v : DWord) (s : State) : Result :=
  s.bar0Write p fun s => s.writeRegister p off.toNat v

/-! ### Attestation (R405, R406) -/

/-- R406: bytes 0 to 255 of a report. -/
def State.reportHead (s : State) : List Byte :=
  let nonce := s.hbm.bytes (bitsOf (s.hub.bar0.get 0x0200 0).toNat 6 46 * 64) 32
  let hash := fun (i : Nat) => fitBytes 48 (s.hub.images.toList.getD i [])
  let clerks := fitBytes 48 (Sha.sha384 ((List.range 7).flatMap fun i => hash (i + 2)))
  leBytes 8 (16864 * 2 ^ 16 + 1) ++ leBytes 8 Config.serial.toNat ++ nonce ++ hash 0 ++ hash 1 ++ clerks ++ leBytes 8 s.health.toNat
    ++ leBytes 8 (s.hub.focnt.toNat * 2 ^ 8 + s.hub.slotB.toNat) ++ List.replicate 48 0

/-- ATTEST_GO (R4, R405, R406): a report begins, of the images in service now; ignored while one is made. DESIGN CHOICE
(notes/assumptions/55.md): GO, which R405 sets and does not say when falls, reads 1 until BUSY falls. -/
def execAttestGo (p : Port) (s : State) : Result :=
  s.bar0Write p fun s =>
    if s.hub.attest then s
    else
      let head := s.reportHead
      s.updHub fun h => { h with
        attest := true, attestHead := head
        attestAddr := BitVec.ofNat 64 (bitsOf (h.bar0.get 0x0208 0).toNat 6 46 * 64) }

/-- R406: the whole report. -/
def reportOf (head : List Byte) : List Byte :=
  head ++ fitBytes 384 (Config.signature 0 head) ++ fitBytes 16224 (Config.signature 1 head)

/-- ATTEST_REPORT_COMPLETE (R406): the report is performed, then BUSY falls. -/
def execAttestReportComplete (s : State) : Result :=
  if !s.hub.attest then .next s
  else
    let s := { s with hbm := s.hbm.write s.hub.attestAddr.toNat (reportOf s.hub.attestHead) }
    .next (s.updHub fun h => { h with attest := false, attestHead := [] })

/-! ### Invalidation (R225) and the host's accesses (R222) -/

/-- R225: a write that is not queued. -/
def Hub.invalRefused (h : Hub) (v : DWord) : Bool :=
  let kind := bitsOf v.toNat 14 2
  kind == 3 || (kind == 0 && bitsOf v.toNat 16 3 == 7) || 64 ≤ h.invals.length

/-- INVAL (R225). -/
def execInval (p : Port) (v : DWord) (s : State) : Result :=
  s.bar0Write p fun s =>
    let w := v &&& ~~~0x3000#64
    (s.putBar0 0x2008 w).updHub fun h =>
      if h.invalRefused v then { h with invDrop := true } else { h with invals := h.invals ++ [w] }

/-- R224: the bytes of an INVAL range of code `sz`. -/
def invalSize (sz : Nat) : Nat :=
  match sz with
  | 0 => 2 ^ 12 | 1 => 2 ^ 14 | 2 => 2 ^ 16 | 3 => 2 ^ 21 | 4 => 2 ^ 25 | 5 => 2 ^ 30
  | _ => 2 ^ 34

/-- R224, R225: an invalidation covers a translation cache's entry. -/
def invalCovers (w : DWord) (p : CachedPage) : Bool :=
  let size := invalSize (bitsOf w.toNat 16 3)
  let va := bitsOf w.toNat 19 45 * 4096 / size * size
  match bitsOf w.toNat 14 2 with
  | 0 => p.asid.toNat == bitsOf w.toNat 0 12 && overlaps va size p.base p.size
  | 1 => p.asid.toNat == bitsOf w.toNat 0 12
  | _ => true

/-- INVALIDATION_COMPLETE (R225): in order; every translation cache, the hub's walkers among them, has dropped what it covers, and no write that
used one is still in an egress. -/
def execInvalidationComplete (s : State) : Result :=
  match s.hub.invals with
  | [] => .next s
  | w :: rest =>
    if s.hub.egress.any fun x => !x.host then .next s
    else .next (({ s with clusters := s.clusters.map fun y => { y with tlb := y.tlb.filter fun p => !invalCovers w p } } : State).updHub fun h =>
      { h with tlb := h.tlb.filter fun p => !invalCovers w p, invals := rest, invDone := h.invDone + 1 })

/-- HOST_HBM_ACCESS (R222): a host reads or writes HBM; outside it there is nothing. -/
def execHostHbmAccess (pa : DWord) (wr : Option (List Byte)) (s : State) : Result :=
  match wr with
  | none => .next s
  | some bs => if pa.toNat + bs.length ≤ hbmSize then .next { s with hbm := s.hbm.write pa.toNat bs } else .next s

/-- CHETIA_FLIT (R285): a flit is delivered once and in order; one delivered already is discarded, and one that comes while a gang that spans
packages is stopped is saved. -/
def execChetiaFlit (port : BitVec 4) (seq : Nat) (payload : BitVec 512) (s : State) : Result :=
  .next (s.updHub fun h => h.takeFlit port seq payload)

/-- LOFT_REFRESH (R216): a bank's slot in its die's cycle goes by the phase alone, which wall-clock time moves (`State.loftPhase`). -/
def execLoftRefresh (_die : DieNo) (s : State) : Result := .next s

end Sys2Proof.Machine
end

