-- ==== Sys2Proof/Machine/Av1.lean ====
section
/-! DEFINITION. AV1 streams (R372 to R374), which the spec names and does not define. PRESUMED (notes/assumptions/33.md): the low-overhead OBU
format, the sequence and frame headers and the symbol decoder are those of the AV1 bitstream specification, and the samples are worked out
for a frame of one luma block that is predicted by DC without a residual (R411). -/

namespace Sys2Proof.Machine.Av1

/-! ### Bits -/

/-- A reader of bits, which fails where they run out. -/
abbrev Rd := StateT (List Bool) Option

def bitsOfBytes (bs : List Byte) : List Bool := bs.flatMap fun b => (List.range 8).map fun i => b.getLsbD (7 - i)

def numOfBits (bs : List Bool) : Nat := bs.foldl (fun a b => 2 * a + b.toNat) 0

/-- An unsigned number of `n` bits. -/
def f (n : Nat) : Rd Nat := fun bs => if bs.length < n then none else some (numOfBits (bs.take n), bs.drop n)

def flag : Rd Bool := fun bs =>
  match bs with
  | [] => none
  | b :: r => some (b, r)

/-- What is read only where `c` holds, else `d`. -/
def opt {α : Type} (c : Bool) (r : Rd α) (d : α) : Rd α := if c then r else pure d

/-- `n` bits passed over where `c` holds. -/
def pass (c : Bool) (n : Nat) : Rd Unit := if c then do let _ ← f n else pure ()

/-- A signed number of `n` bits. -/
def su (n : Nat) : Rd Int := do
  let v ← f n
  pure (if v < 2 ^ (n - 1) then (v : Int) else (v : Int) - (2 ^ n : Nat))

/-- A number below `n`, in as few bits as that takes. -/
def ns (n : Nat) : Rd Nat := do
  let w := n.log2 + 1
  let m := 2 ^ w - n
  let v ← f (w - 1)
  if v < m then pure v else do let x ← f 1; pure (2 * v - m + x)

/-- A number in the variable-length code of 32 bits at most. -/
def uvlc : Rd Nat := fun bs =>
  let z := (bs.takeWhile (!·)).length
  (do pass true (z + 1); let v ← f (if 32 ≤ z then 0 else z); pure (if 32 ≤ z then 2 ^ 32 - 1 else v + 2 ^ z - 1) : Rd Nat) bs

/-- `n` things in a row. -/
def times {α : Type} (n : Nat) (r : Rd α) : Rd (List α) := (List.range n).mapM fun _ => r

/-! ### Sequence header -/

/-- Timing and decoder model: whether there is a model, equal picture intervals, and the bits of its delays, removal and presentation times. -/
structure Timing where
  model : Bool := false
  equal : Bool := false
  delay : Nat := 0
  removal : Nat := 0
  time : Nat := 0

def timing : Rd Timing := do
  if !(← flag) then pure {}
  else
    pass true 64
    let equal ← flag
    let _ ← opt equal uvlc 0
    if !(← flag) then pure { equal := equal }
    else
      let delay ← f 5
      pass true 32
      let removal ← f 5
      let time ← f 5
      pure { model := true, equal := equal, delay := delay + 1, removal := removal + 1, time := time + 1 }

/-- An operating point: its layers, its level and whether it has decoder model parameters. -/
def point (t : Timing) (display : Bool) : Rd (Nat × Nat × Bool) := do
  let idc ← f 12
  let level ← f 5
  pass (7 < level) 1
  let model ← opt t.model flag false
  pass model (2 * t.delay + 1)
  let d ← opt display flag false
  pass d 4
  pure (idc, level, model)

/-- Bit depth, monochrome, subsampling of each direction, and separate chroma deltas. -/
structure Color where
  depth : Nat
  mono : Bool
  subX : Bool
  subY : Bool
  separate : Bool

def color (profile : Nat) : Rd Color := do
  let high ← flag
  let twelve ← opt (profile == 2 && high) flag false
  let depth := if twelve then 12 else if high then 10 else 8
  let mono ← opt (profile != 1) flag false
  let described ← flag
  let c ← opt described (f 24) 0x020202
  if mono then
    pass true 1
    pure { depth := depth, mono := true, subX := true, subY := true, separate := false }
  else if c == 0x010D00 then
    let separate ← flag
    pure { depth := depth, mono := false, subX := false, subY := false, separate := separate }
  else
    pass true 1
    let free := profile == 2 && depth == 12
    let subX ← opt free flag (profile != 1)
    let subY ← opt (free && subX) flag (profile == 0)
    pass (subX && subY) 2
    let separate ← flag
    pure { depth := depth, mono := false, subX := subX, subY := subY, separate := separate }

def sequence : Rd Av1Seq := do
  let profile ← f 3
  pass true 1
  let reduced ← flag
  let t ← opt (!reduced) timing {}
  let points ← if reduced then do let level ← f 5; pure [(0, level, false)]
    else do
      let display ← flag
      let n ← f 5
      times (n + 1) (point t display)
  let widthBits := (← f 4) + 1
  let heightBits := (← f 4) + 1
  let maxWidth := (← f widthBits) + 1
  let maxHeight := (← f heightBits) + 1
  let ids ← opt (!reduced) flag false
  let delta ← opt ids (f 4) 0
  let more ← opt ids (f 3) 0
  let sb128 ← flag
  pass true 2
  pass (!reduced) 4
  let order ← opt (!reduced) flag false
  pass order 2
  let choose ← opt (!reduced) flag true
  let screen ← opt (!choose) (f 1) 2
  let chooseMv ← opt (!reduced && 0 < screen) flag true
  let intMv ← opt (!chooseMv) (f 1) 2
  let orderBits ← opt order (do let n ← f 3; pure (n + 1)) 0
  let superres ← flag
  let cdef ← flag
  let restoration ← flag
  let c ← color profile
  let grain ← flag
  pure {
    reduced := reduced, profile := profile, level := (points.head?.map (·.2.1)).getD 0, points := points.map fun p => (p.1, p.2.2)
    modelInfo := t.model, equalPicture := t.equal, removalBits := t.removal, timeBits := t.time
    widthBits := widthBits, heightBits := heightBits, maxWidth := maxWidth, maxHeight := maxHeight
    idBits := if ids then delta + more + 3 else 0, deltaIdBits := if ids then delta + 2 else 0, sb128 := sb128
    screen := screen, intMv := intMv, orderBits := orderBits, superres := superres, cdef := cdef, restoration := restoration
    depth := c.depth, mono := c.mono, subX := c.subX, subY := c.subY, separateUv := c.separate, grain := grain }

/-- R373: Main profile, 8 or 10 bits, 4:2:0 or monochrome, up to level 6.1. -/
def supported (q : Av1Seq) : Bool := q.profile == 0 && (q.depth == 8 || q.depth == 10) && (q.mono || (q.subX && q.subY)) && q.level ≤ 17

/-! ### Frame header -/

/-- What a frame header says. `plain` is set for an intra frame of one tile whose block data hold the symbols of `Av1.flatBlock` and no others. -/
structure Header where
  /-- show_existing_frame: the reference frame that is output. -/
  existing : Option Nat := none
  key : Bool := false
  intra : Bool := false
  shown : Bool := false
  showable : Bool := false
  refresh : Nat := 0
  /-- The reference frames it names, and those that its header says are missing. -/
  uses : List Nat := []
  missing : List Nat := []
  orderHint : Nat := 0
  width : Nat := 0
  height : Nat := 0
  plain : Bool := false
  deriving DecidableEq, Repr

/-- A frame's size: its width after and before the scaling of super-resolution, and its height. -/
structure Size where
  up : Nat
  width : Nat
  height : Nat

def superres (q : Av1Seq) (up height : Nat) : Rd Size := do
  let use ← opt q.superres flag false
  let denom ← opt use (do let n ← f 3; pure (n + 9)) 8
  pure { up := up, width := (8 * up + denom / 2) / denom, height := height }

/-- The frame size and the render size. -/
def frameSize (q : Av1Seq) (own : Bool) : Rd Size := do
  let w ← opt own (do let n ← f q.widthBits; pure (n + 1)) q.maxWidth
  let h ← opt own (do let n ← f q.heightBits; pure (n + 1)) q.maxHeight
  let z ← superres q w h
  let differs ← flag
  pass differs 32
  pure z

/-- A frame size taken from the first of the reference frames that a bit marks, or one of its own. -/
def sizeWithRefs (q : Av1Seq) (refs : Vector (Option Av1Ref) 8) : List Nat → Rd Size
  | [] => frameSize q true
  | i :: is => do
    if ← flag then
      match (refs[i]?).join with
      | some r => superres q r.frame.width r.frame.height
      | none => failure
    else sizeWithRefs q refs is

/-- The distance of two order hints of `n` bits. -/
def distance (n a b : Nat) : Int :=
  if n == 0 then 0
  else
    let d := (a + 2 ^ n - b % 2 ^ n) % 2 ^ n
    if d < 2 ^ (n - 1) then (d : Int) else (d : Int) - (2 ^ n : Nat)

/-- The reference frame not yet used with the best hint: `better` compares a hint with that of the best so far. -/
def bestRef (hints : List Int) (used : List Nat) (ok : Int → Bool) (better : Int → Int → Bool) : Option Nat :=
  (hints.zipIdx.foldl (fun (b : Option (Int × Nat)) (h, i) =>
    if used.contains i || !ok h then b
    else match b with
      | some x => if better h x.1 then some (h, i) else b
      | none => some (h, i)) none).map (·.2)

/-- The reference frames of a header that names only the last and the golden one; `hints` are the distances of their order hints from the
frame's. -/
def shortRefs (hints : List Int) (last gold : Nat) : List Nat :=
  let put := fun (r : List (Option Nat)) (k : Nat) (ok : Int → Bool) (better : Int → Int → Bool) =>
    if ((r[k]?).join).isSome then r
    else match bestRef hints (r.filterMap id) ok better with
      | some i => r.set k (some i)
      | none => r
  let back : Int → Bool := fun h => 0 ≤ h
  let r : List (Option Nat) := [some last, none, none, some gold, none, none, none]
  let r := put r 6 back fun h x => decide (x ≤ h)
  let r := put r 4 back fun h x => decide (h < x)
  let r := put r 5 back fun h x => decide (h < x)
  let r := [1, 2, 4, 5, 6].foldl (fun r k => put r k (fun h => decide (h < 0)) fun h x => decide (x ≤ h)) r
  let rest := (bestRef hints [] (fun _ => true) fun h x => decide (h < x)).getD 0
  r.map (·.getD rest)

/-- The seven reference frames of an inter frame. -/
def interRefs (q : Av1Seq) (refs : Vector (Option Av1Ref) 8) (orderHint : Nat) : Rd (List Nat) := do
  let short ← opt (0 < q.orderBits) flag false
  if short then
    let last ← f 3
    let gold ← f 3
    let hints := refs.toList.map fun r => distance q.orderBits ((r.map (·.orderHint)).getD 0) orderHint
    let _ ← times 7 (pass (0 < q.deltaIdBits) q.deltaIdBits)
    pure (shortRefs hints last gold)
  else times 7 (do let i ← f 3; pass (0 < q.deltaIdBits) q.deltaIdBits; pure i)

/-- The least k with 2^k times `blk` at or above `target`. -/
def tileLog2 (blk target : Nat) : Nat := ((List.range 64).find? fun k => target ≤ blk * 2 ^ k).getD 64

/-- A count that bits of 1 raise from `a`, up to `m`. -/
def raise (m : Nat) : Nat → Nat → Rd Nat
  | 0, a => pure a
  | n + 1, a => if m ≤ a then pure a else do if ← flag then raise m n (a + 1) else pure a

/-- Tiles of sizes of their own along one direction: their number and the widest. -/
def sizedTiles (most : Nat) : Nat → Nat → Nat × Nat → Rd (Nat × Nat)
  | 0, _, a => pure a
  | n + 1, left, a =>
    if left == 0 then pure a
    else do
      let w := (← ns (min left most)) + 1
      sizedTiles most n (left - w) (a.1 + 1, max a.2 w)

/-- The number of tiles. -/
def tileCount (q : Av1Seq) (z : Size) : Rd Nat := do
  let units := fun n => let mi := 2 * ((n + 7) / 8); if q.sb128 then (mi + 31) / 32 else (mi + 15) / 16
  let cols := units z.width
  let rows := units z.height
  let shift := if q.sb128 then 7 else 6
  let most := 4096 / 2 ^ shift
  let minCols := tileLog2 most cols
  let minTiles := max minCols (tileLog2 (4096 * 2304 / 2 ^ (2 * shift)) (rows * cols))
  let (n, bits) ← if ← flag then do
      let lc ← raise (tileLog2 1 (min cols 64)) 64 minCols
      let w := (cols + 2 ^ lc - 1) / 2 ^ lc
      let nc := (cols + w - 1) / w
      let lr ← raise (tileLog2 1 (min rows 64)) 64 (minTiles - lc)
      let h := (rows + 2 ^ lr - 1) / 2 ^ lr
      pure (nc * ((rows + h - 1) / h), lc + lr)
    else do
      let (nc, widest) ← sizedTiles most cols cols (0, 0)
      let area := if 0 < minTiles then rows * cols / 2 ^ (minTiles + 1) else rows * cols
      let (nr, _) ← sizedTiles (max (area / max widest 1) 1) rows rows (0, 0)
      pure (nc * nr, tileLog2 1 nc + tileLog2 1 nr)
  pass (0 < bits) (bits + 2)
  pure n

/-- A difference of quantiser indices. -/
def deltaQ : Rd Int := do if ← flag then su 7 else pure 0

/-- The quantiser: its base index, and whether every difference is 0. -/
def quantizer (q : Av1Seq) : Rd (Nat × Bool) := do
  let base ← f 8
  let y ← deltaQ
  let differ ← opt (!q.mono && q.separateUv) flag false
  let uv ← times (if q.mono then 0 else if differ then 4 else 2) deltaQ
  let matrix ← flag
  pass matrix (if q.separateUv then 12 else 8)
  pure (base, y == 0 && uv.all (· == 0))

/-- The segmentation of an intra frame: the change of the quantiser index in each segment; none without segments. -/
def segments : Rd (Option (List Int)) := do
  if ← flag then
    let qs ← times 8 (do
      let alt ← opt (← flag) (su 9) 0
      let _ ← times 4 (do pass (← flag) 7)
      pass (← flag) 3
      pass true 2
      pure alt)
    pure (some qs)
  else pure none

/-- The film grain of a frame of an intra type, which is not applied (R373). -/
def filmGrain (q : Av1Seq) : Rd Unit := do
  if ← flag then
    pass true 16
    let ny ← f 4
    pass true (16 * ny)
    let fromLuma ← opt (!q.mono) flag false
    let chroma := !(q.mono || fromLuma || (q.subX && q.subY && ny == 0))
    let nb ← opt chroma (f 4) 0
    pass true (16 * nb)
    let nr ← opt chroma (f 4) 0
    pass true (16 * nr)
    pass true 2
    let lag ← f 2
    let luma := 2 * lag * (lag + 1)
    let each := if 0 < ny then luma + 1 else luma
    pass (0 < ny) (8 * luma)
    pass (fromLuma || 0 < nb) (8 * each)
    pass (fromLuma || 0 < nr) (8 * each)
    pass true 4
    pass (0 < nb) 25
    pass (0 < nr) 25
    pass true 2

/-- The loop filter, the directional filter and the restoration filter; whether none restores. -/
def filters (q : Av1Seq) (lossless allLossless : Bool) : Rd Bool := do
  if lossless then pure ()
  else
    let a ← f 6
    let b ← f 6
    pass (!q.mono && (a != 0 || b != 0)) 12
    pass true 3
    let deltas ← flag
    let update ← opt deltas flag false
    let _ ← times (if update then 10 else 0) (do pass (← flag) 7)
  if !lossless && q.cdef then
    pass true 2
    let n ← f 2
    pass true (2 ^ n * if q.mono then 6 else 12)
  if allLossless || !q.restoration then pure true
  else
    let kinds ← times (if q.mono then 1 else 3) (f 2)
    let uses := kinds.any (· != 0)
    let wide ← opt uses flag false
    pass (uses && wide && !q.sb128) 1
    pass (uses && q.subX && q.subY && (kinds.drop 1).any (· != 0)) 1
    pure (!uses)

/-- The rest of the header of an intra frame of size `z`; whether it is plain. -/
def intraRest (q : Av1Seq) (z : Size) (grain screen frozen : Bool) : Rd Bool := do
  let copies ← opt (screen && z.up == z.width) flag false
  pass (!(q.reduced || frozen)) 1
  let tiles ← tileCount q z
  let (base, even) ← quantizer q
  let segs ← segments
  let deltaQs ← opt (0 < base) flag false
  pass deltaQs 2
  let deltaLf ← opt (deltaQs && !copies) flag false
  pass deltaLf 3
  let lossless := even && (segs.getD [0]).all fun d => (base : Int) + d ≤ 0
  let unrestored ← filters q (lossless || copies) ((lossless && z.up == z.width) || copies)
  let select ← opt (!lossless) flag false
  pass true 1
  if grain then filmGrain q
  pure (q.mono && !q.sb128 && tiles == 1 && 32 < z.width && z.width ≤ 64 && 32 < z.height && z.height ≤ 64
    && !screen && segs.isNone && !deltaQs && unrestored && !select)

/-- The times at which an operating point removes the frame from its buffer. -/
def removals (q : Av1Seq) (tid sid : Nat) : Rd Unit := do
  if ← opt q.modelInfo flag false then
    let ops := q.points.filter fun p => p.2 && (p.1 == 0 || (p.1.testBit tid && p.1.testBit (sid + 8)))
    pass true (ops.length * q.removalBits)

/-- A frame header of layers `tid` and `sid`. Of an inter frame all that R373 and R374 ask for is read: its size and its references. -/
def header (q : Av1Seq) (refs : Vector (Option Av1Ref) 8) (tid sid : Nat) : Rd Header := do
  let timed := q.modelInfo && !q.equalPicture
  if ← opt (!q.reduced) flag false then
    let i ← f 3
    pass timed q.timeBits
    pass true q.idBits
    pure { existing := some i, shown := true }
  else
    let kind ← opt (!q.reduced) (f 2) 0
    let shown ← opt (!q.reduced) flag true
    pass (shown && timed) q.timeBits
    let showable ← opt (!shown) flag (kind != 0 && !q.reduced)
    let key := kind == 0
    let intra := key || kind == 2
    let resilient ← opt (!(kind == 3 || (key && shown))) flag true
    let frozen ← flag
    let screen := (← opt (q.screen == 2) (f 1) q.screen) == 1
    pass (screen && q.intMv == 2) 1
    pass true q.idBits
    let own ← opt (kind != 3 && !q.reduced) flag (kind == 3)
    let orderHint ← f q.orderBits
    pass (!(intra || resilient)) 3
    removals q tid sid
    let refresh ← opt (!(kind == 3 || (key && shown))) (f 8) 0xFF
    let hints ← times (if (!intra || refresh != 0xFF) && resilient && 0 < q.orderBits then 8 else 0) (f q.orderBits)
    let missing := (hints.zipIdx.filter fun (h, i) => ((refs[i]?).join).all fun r => r.orderHint != h).map (·.2)
    let base : Header := {
      key := key, intra := intra, shown := shown, showable := showable, refresh := refresh, missing := missing, orderHint := orderHint }
    if intra then
      let z ← frameSize q own
      let plain ← intraRest q z (q.grain && (shown || showable)) screen frozen
      pure { base with width := z.up, height := z.height, plain := plain }
    else
      let uses ← interRefs q refs orderHint
      let z ← if own && !resilient then sizeWithRefs q refs uses else frameSize q own
      pure { base with uses := uses, width := z.up, height := z.height }

/-! ### Symbols -/

/-- The symbol decoder: its value and range, the bits still to come, and how many more it may take. -/
structure Symbols where
  value : Nat
  range : Nat
  bits : List Bool
  most : Int

def Symbols.start (bits : List Bool) : Symbols :=
  { value := (2 ^ 15 - 1) ^^^ numOfBits ((bits.take 15) ++ List.replicate (15 - bits.length) false), range := 2 ^ 15
    bits := bits.drop 15, most := (bits.length : Int) - 15 }

/-- The symbol in whose part of the range the value lies, with the bounds of that part; `cdf` lists the cumulative frequencies from symbol
`i` on. -/
def Symbols.find (x : Symbols) (count : Nat) : List Nat → Nat → Nat → Nat × Nat × Nat
  | [], i, above => (i, above, 0)
  | c :: cs, i, above =>
    let low := x.range / 256 * ((2 ^ 15 - c) / 64) / 2 + 4 * (count - i - 1)
    if x.value < low then x.find count cs (i + 1) low else (i, above, low)

def Symbols.next (x : Symbols) (cdf : List Nat) : Nat × Symbols :=
  let (i, above, low) := x.find cdf.length cdf 0 x.range
  let range := above - low
  let n := 15 - range.log2
  let taken := x.bits.take n
  let new := numOfBits taken * 2 ^ (n - taken.length)
  (i, { value := new ^^^ ((x.value - low + 1) * 2 ^ n - 1), range := range * 2 ^ n, bits := x.bits.drop n, most := x.most - n })

/-- The initial frequencies of the partition of a 64 by 64 block, of skip and of the luma mode of an intra frame, where no neighbour is. -/
def partitionCdf : List Nat := [20137, 21547, 23078, 29566, 29837, 30261, 30524, 30892, 31724, 32768]
def skipCdf : List Nat := [31671, 32768]
def modeCdf : List Nat := [15588, 17027, 19338, 20218, 20682, 21110, 21825, 23244, 24189, 28165, 29093, 30466, 32768]

/-- The data of a plain frame are one block, not split, without a residual, and predicted by DC: every sample is then half the range. -/
def flatBlock (bits : List Bool) : Bool :=
  let (part, x) := (Symbols.start bits).next partitionCdf
  let (skip, x) := x.next skipCdf
  let (mode, x) := x.next modeCdf
  part == 0 && skip == 1 && mode == 0 && -14 ≤ x.most

end Sys2Proof.Machine.Av1
end

