-- ==== Sys2Proof/Machine/Video.lean ====
section
/-! DEFINITION. The AV1 decoders (R372 to R374). -/

namespace Sys2Proof.Machine

/-! ### Video decode (R372 to R374) -/

def videoTileBytes (fmt : BitVec 2) (tw th : Nat) : Nat := tw * th * (if fmt = 0 then 2 else 1)

/-- R372, R373: the ring is defined and inbound, and every member holds a tile. -/
def Core.ringTakes (k : Core) (ring : Nat) (bytes : Nat) : Bool :=
  match k.ring ring with
  | none => false
  | some r => !r.out && (List.range r.l.toNat).all fun i => bytes ≤ (k.handle (BitVec.ofNat 6 (r.f.toNat + i))).size.toNat

/-- The job of a DECODE call's arguments; `none` where they are outside R372. -/
def decodeJobOf (c : Call) (dst tile limit : DWord) : Option DecodeJob :=
  let d := dst.toNat
  let tw := bitsOf tile.toNat 0 16
  let th := bitsOf tile.toNat 16 16
  if 2 ^ 16 ≤ d || bitsOf d 13 2 == 3 || 2 ^ 32 ≤ tile.toNat || tw < 8 || 1024 < tw || th < 8 || 1024 < th then none
  else some {
    call := c, ring := BitVec.ofNat 3 (bitsOf d 10 3), rank := bitsOf d 0 10, fmt := BitVec.ofNat 2 (bitsOf d 13 2)
    planes := bitsOf d 15 1 == 1, tw := tw, th := th, limit := limit.toNat }

/-- The destination core of a job, while its errand's crew runs. -/
def State.decodeCore (s : State) (j : DecodeJob) : Option CoreNo :=
  (s.crewOfErrand j.call.errand).bind fun w => (w.clusters[j.rank / 8]?).map fun cl => coreAt cl (j.rank % 8)

/-- R372: a job's destination errand is parked, its crew saved. -/
def State.decodeParked (s : State) (r : RecNo) : Bool := s.hub.waiting.any fun q => q.errand == r && q.saved.isSome

/-- R372: the decode queue's jobs. -/
def decodeQueueSize : Nat := 1024

/-- R372: the destination core of a job as it stands: the crew's, or that of the saved crew of a parked errand. -/
def State.decodeTarget (s : State) (j : DecodeJob) : Option Core :=
  match s.decodeCore j with
  | some peer => some (s.core peer)
  | none => ((s.hub.waiting.find? fun q => q.errand == j.call.errand && q.saved.isSome).bind (·.saved)).bind fun w => w.cores[j.rank]?

/-- DECODE (R372): a job is queued, or refused with BADARG; while the queue is full the call waits at the wicket. -/
def execDecodeCall (k : CallRef) (stream : DWord) (len : DWord) (dst : DWord) (tile : DWord) (limit : DWord) (s : State) : Result :=
  if decodeQueueSize ≤ s.hub.decodeQueue.length then .next s
  else s.serve 2 (.decodeCall k stream len dst tile limit) noChoice fun s c _ =>
    match decodeJobOf c dst tile limit with
    | none => .error s Errc.badArg []
    | some j =>
      if (s.decodeTarget j).any fun k => k.ringTakes j.ring.toNat (videoTileBytes j.fmt j.tw j.th) then
        .held (s.updHub fun h => { h with decodeQueue := h.decodeQueue ++ [j] }) { cls := 4 }
      else .error s Errc.badArg []

/-- The call of a job as it stands among the calls under way: held until the job ends. -/
def Hub.jobCall (h : Hub) (j : DecodeJob) : Option Call :=
  h.calls.find? fun c => c.cap == 2 && c.errand == j.call.errand && c.core == j.call.core && c.reply == j.call.reply && c.answer.isNone

def State.setDecoder (s : State) (d : BitVec 4) (j : Option DecodeJob) : State :=
  s.updHub fun h => { h with decoders := h.decoders.set d.toNat j }

/-- R372 to R374: a job ends, with its counts. -/
def State.endJob (s : State) (d : BitVec 4) (j : DecodeJob) (status errc : Nat) : State :=
  let s := s.setDecoder d none
  match s.hub.jobCall j with
  | none => s.settleClerk 2
  | some c => s.endCall c (replyWord c.callno status errc [j.frames, j.poisoned, j.tiles])

/-! ### The stream -/

/-- An OBU of the low-overhead format: its type, its layers, whether its header names them, its payload, whether the stream ends before it
does, and all its bytes. -/
structure Obu where
  kind : Nat
  tid : Nat
  sid : Nat
  layered : Bool
  body : List Byte
  cut : Bool
  bytes : List Byte
  deriving DecidableEq, Repr

/-- An OBU's size, in at most eight bytes of seven bits from `pos` on, with those bytes. -/
def readSize (get : Nat → Nat → Access (List Byte)) (len : Nat) : Nat → Nat → Access (Option (Nat × List Byte))
  | 0, _ => .ok none
  | n + 1, pos =>
    if len ≤ pos then .ok none
    else
      (get pos 1).bind fun bs =>
        let b := leNat bs
        if b < 128 then .ok (some (b, bs))
        else (readSize get len n (pos + 1)).bind fun r => .ok (r.map fun (v, more) => (128 * v + b % 128, bs ++ more))

/-- The OBU at `pos`; none where no OBU of the format stands there. -/
def readObu (get : Nat → Nat → Access (List Byte)) (len pos : Nat) : Access (Option Obu) :=
  (get pos 1).bind fun h =>
    let w := leNat h
    let ext := bitsOf w 2 1
    if bitsOf w 7 1 == 1 || bitsOf w 1 1 == 0 || len < pos + 1 + ext then .ok none
    else
      (get (pos + 1) ext).bind fun e =>
        (readSize get len 8 (pos + 1 + ext)).bind fun r =>
          match r with
          | none => .ok none
          | some (size, bs) =>
            let start := pos + 1 + ext + bs.length
            (get start (min size (len - start))).bind fun body => .ok (some {
              kind := bitsOf w 3 4, tid := bitsOf (leNat e) 5 3, sid := bitsOf (leNat e) 3 2, layered := ext == 1
              body := body, cut := len - start < size, bytes := h ++ e ++ bs ++ body })

/-- A frame as its OBUs give it: its header, where that can be read; whether an OBU of it is cut off; its data; and the stream after it. -/
structure CodedFrame where
  header : Option Av1.Header
  cut : Bool
  data : List Bool
  stream : Av1Stream
  deriving DecidableEq, Repr

/-- What comes next in a stream. -/
inductive StreamNext where
  | frame (x : CodedFrame)
  | ended
  | unsupported
  deriving DecidableEq, Repr

/-- The tile groups that follow a frame header. -/
def tileGroups (get : Nat → Nat → Access (List Byte)) (len : Nat) : Nat → CodedFrame → Access CodedFrame
  | 0, x => .ok x
  | n + 1, x =>
    let pos := x.stream.bytes.length
    if len ≤ pos then .ok x
    else
      (readObu get len pos).bind fun r =>
        match r with
        | none => .ok x
        | some o =>
          if o.kind != 4 then .ok x
          else tileGroups get len n { x with
            cut := x.cut || o.cut, data := x.data ++ Av1.bitsOfBytes o.body, stream := { x.stream with bytes := x.stream.bytes ++ o.bytes } }

/-- The next frame of the stream that `get` reads by place and count. Temporal delimiters, metadata, padding and layers outside the first operating
point are passed over (R372, R373). -/
def nextFrame (get : Nat → Nat → Access (List Byte)) (len : Nat) : Nat → Av1Stream → Access StreamNext
  | 0, _ => .ok .ended
  | n + 1, st =>
    let pos := st.bytes.length
    if st.lost || len ≤ pos then .ok .ended
    else
      (readObu get len pos).bind fun r =>
        match r with
        | none => .ok (.frame { header := none, cut := true, data := [], stream := { st with lost := true } })
        | some o =>
          let st := { st with bytes := st.bytes ++ o.bytes }
          let idc := ((st.seq.bind (·.points.head?)).map (·.1)).getD 0
          let other := o.layered && idc != 0 && !(idc.testBit o.tid && idc.testBit (o.sid + 8))
          if o.kind == 1 then
            match Av1.sequence (Av1.bitsOfBytes o.body) with
            | some (q, _) => if Av1.supported q then nextFrame get len n { st with seq := some q } else .ok .unsupported
            | none => nextFrame get len n { st with seq := none }
          else if other || !(o.kind == 3 || o.kind == 6) then nextFrame get len n st
          else
            let h := st.seq.bind fun q => Av1.header q st.refs o.tid o.sid (Av1.bitsOfBytes o.body)
            let x : CodedFrame := {
              header := h.map (·.1), cut := o.cut, stream := st
              data := if o.kind == 6 then (h.map fun r => r.2.drop (r.2.length % 8)).getD [] else [] }
            if o.kind == 6 then .ok (.frame x) else (tileGroups get len len x).bind fun x => .ok (.frame x)

/-- What a job's stream holds next, as memory stands now. -/
def State.upcoming (s : State) (j : DecodeJob) : Access StreamNext :=
  let asid := (s.errand j.call.errand).asid
  let len := (j.call.arg 1).toNat
  nextFrame (fun pos n => s.vread asid (j.call.arg 0 + BitVec.ofNat 64 pos).toNat n) len (len + 1) j.stream

/-- R264, R265, R270, R367: the decoder reads its stream: it may hold, with the tiles delivered as its progress, or end the job with IO. -/
def State.readStream (s : State) (d : BitVec 4) (j : DecodeJob) (next : State → StreamNext → State) : State :=
  match s.clerkHeld j.call.errand 4 d.toNat false (j.tiles % 2 ^ 32) (s.upcoming j) with
  | (t, .ok x) => next t x
  | (t, .held f) => t.setDecoder d (some { j with call := { j.call with fault := some f } })
  | (t, .fault) => t.endJob d j 2 Errc.io

/-- DECODE_JOB_START (R372): the first queued job whose errand is not parked goes to the lowest free decoder. -/
def execDecodeJobStart (s : State) : Result :=
  let free := ((List.range 16).map (BitVec.ofNat 4)).find? fun (d : BitVec 4) => s.hub.decoders[d.toNat].isNone
  match free, s.hub.decodeQueue.find? fun j => !s.decodeParked j.call.errand with
  | some d, some j => .next ((s.updHub fun h => { h with decodeQueue := h.decodeQueue.erase j }).setDecoder d (some j))
  | _, _ => .next s

/-- R373: a sample of bit depth `d` in a tile's format: 0 BF16, 1 INT8, 2 N8. -/
def sampleBytes (fmt : BitVec 2) (d v : Nat) : List Byte :=
  if fmt = 0 then leBytes 2 (Fmt.bf16.encode 0 false false (.fin false v (8 - d : Int))).1
  else
    let n := min ((v + 2 ^ (d - 8) / 2) / 2 ^ (d - 8)) 255
    leBytes 1 (if fmt = 1 then n + 128 else n)

/-- R373: the sample at place `i` of plane `p` of a frame. -/
def FrameData.sample (f : FrameData) (p i : Nat) : Nat := f.flat.getD (Config.av1Sample f.source p i % 2 ^ f.depth)

/-- R373: width and height of plane `p`: 0 Y, 1 Cb, 2 Cr. -/
def planeSize (f : FrameData) (p : Nat) : Nat × Nat := if p = 0 then (f.width, f.height) else ((f.width + 1) / 2, (f.height + 1) / 2)

/-- R373: the tiles of a frame in their order, by plane, column and row: only luma with PLANES = 0 or where it is monochrome. -/
def DecodeJob.cut (j : DecodeJob) (f : FrameData) : List (Nat × Nat × Nat) :=
  (List.range (if j.planes && !f.mono then 3 else 1)).flatMap fun p =>
    let (w, h) := planeSize f p
    (List.range ((h + j.th - 1) / j.th)).flatMap fun y => (List.range ((w + j.tw - 1) / j.tw)).map fun x => (p, x, y)

/-- R373, R374: the bytes of a tile, row-major; pixels outside the plane are 0, and a corrupt frame's tile is zeros. -/
def DecodeJob.tileBytes (j : DecodeJob) (x : FrameInHand) (t : Nat × Nat × Nat) : List Byte :=
  let (w, h) := planeSize x.frame t.1
  if x.corrupt then List.replicate (videoTileBytes j.fmt j.tw j.th) 0
  else (List.range (j.tw * j.th)).flatMap fun i =>
    let px := t.2.1 * j.tw + i % j.tw
    let py := t.2.2 * j.th + i / j.tw
    sampleBytes j.fmt x.frame.depth (if px < w && py < h then x.frame.sample t.1 (py * w + px) else 0)

/-- R188: an inbound ring's producer pointer advances. -/
def Core.pushRing (k : Core) (n : Nat) : Core :=
  match k.ring n with
  | some r => k.setRing n (some { r with p := r.next r.p })
  | none => k

/-- R374: whether a reference frame is corrupt, or not there. -/
def Av1Stream.badRef (st : Av1Stream) (i : Nat) : Bool := ((st.refs[i]?).join).all (·.corrupt)

/-- R373: every sample's value where the model works it out: half the range in a block without neighbours or residual. -/
def CodedFrame.flat (x : CodedFrame) (h : Av1.Header) : Option Nat :=
  if h.plain && Av1.flatBlock x.data then x.stream.seq.map fun q => 2 ^ (q.depth - 1) else none

/-- R373, R374: the frame that a header gives, as a reference. It is corrupt where it is cut off, references a corrupt frame, or breaks the
syntax or the decode process. -/
def CodedFrame.decoded (x : CodedFrame) (h : Av1.Header) : Av1Ref :=
  let bad := x.cut || (h.uses.any fun i => x.stream.badRef i || h.missing.contains i)
  { frame := {
      width := h.width, height := h.height, depth := (x.stream.seq.map (·.depth)).getD 8, mono := x.stream.seq.any (·.mono)
      flat := x.flat h, source := x.stream.bytes }
    corrupt := bad || ((x.flat h).isNone && Config.av1Broken x.stream.bytes)
    key := h.key, showable := h.showable, orderHint := h.orderHint }

/-- The job goes on with the stream after a frame that puts `r` into the reference frames `into` names, and outputs `out`. -/
def DecodeJob.goOn (j : DecodeJob) (st : Av1Stream) (r : Av1Ref) (into : Nat → Bool) (out : Bool) : DecodeJob :=
  { j with
    stream := { st with refs := st.refs.mapIdx fun i old => if into i then some r else old }
    frame := if out then some { frame := r.frame, corrupt := r.corrupt } else none }

/-- R374: the job takes the next frame. One whose headers cannot be read has no tiles and counts as poisoned; since it may have replaced any
reference frame, all are corrupt until a key frame. One that is not output has no tiles. -/
def DecodeJob.take (j : DecodeJob) (x : CodedFrame) : DecodeJob :=
  match x.header with
  | none => { j with
      poisoned := j.poisoned + 1
      stream := { x.stream with refs := x.stream.refs.map fun r => r.map fun r => { r with corrupt := true } } }
  | some h =>
    match h.existing with
    | some i =>
      match (x.stream.refs[i]?).join with
      | none => { j with poisoned := j.poisoned + 1, stream := x.stream }
      | some r => j.goOn x.stream r (fun _ => r.key) true
    | none => j.goOn x.stream (x.decoded h) h.refresh.testBit h.shown

/-- R188, R373: tile `t` of the frame in hand is a fill of the handle at the ring's P, counted with its frame (R374) and in the journal
(R365). The job ends with the last tile of the last frame that it may deliver. -/
def State.putTile (s : State) (d : BitVec 4) (j : DecodeJob) (x : FrameInHand) (t : Nat × Nat × Nat) (peer : CoreNo) (h : BitVec 6) : State :=
  let bytes := j.tileBytes x t
  let s := s.updCore peer fun k =>
    (({ k with bench := k.bench.write (k.handle h).base.toNat bytes } : Core).updHandle h fun y => Handle.filled { y with
      landed := BitVec.ofNat 20 bytes.length, rd := 0, err := 0, psn := BitVec.ofBool x.corrupt, abort := false
      fetch := false }).pushRing j.ring.toNat
  let first := x.done == 0
  let last := (j.cut x.frame).length ≤ x.done + 1
  let j := { j with
    tiles := j.tiles + 1, frames := j.frames + first.toNat, poisoned := j.poisoned + (first && x.corrupt).toNat
    frame := if last then none else some { x with done := x.done + 1 } }
  let s := s.updErrand j.call.errand fun e => e.putEntry {
    cap := 2, callno := j.call.callno, state := .notDone, choice := some j.tiles }
  if last && j.limit != 0 && j.limit ≤ j.frames then s.endJob d j 0 0 else s.setDecoder d (some j)

/-- R373, R374: the next tile of the frame in hand, as the ring stands now; a parked destination holds the decoder, and a contained one, or
one whose launch is over (notes/assumptions/58.md), ends the job. -/
def State.deliverTile (s : State) (d : BitVec 4) (j : DecodeJob) (x : FrameInHand) : State :=
  match s.decodeCore j, (j.cut x.frame)[x.done]? with
  | none, _ => if s.decodeParked j.call.errand then s else s.endJob d j 2 Errc.peerLost
  | some _, none => s.setDecoder d (some { j with frame := none })
  | some peer, some t =>
    if (s.core peer).status == .contained then s.endJob d j 2 Errc.peerLost
    else if !(s.core peer).ringTakes j.ring.toNat (videoTileBytes j.fmt j.tw j.th) then s.endJob d j 2 Errc.badArg
    else
      match (s.core peer).ring j.ring.toNat with
      | none => s
      | some r =>
        let h := r.at r.p
        let hd := (s.core peer).handle h
        if hd.st == Hs.free && hd.o == 1 then s.putTile d j x t peer h else s

/-- DECODE_TILE (R373, R374): tile number `tile` of the job, where that comes next: of the frame in hand, or of the stream's next frame where
there is none. -/
def execDecodeTile (d : BitVec 4) (tile : Nat) (s : State) : Result :=
  match s.hub.decoders[d.toNat] with
  | none => .next s
  | some j =>
    if j.call.fault.isSome || j.tiles != tile then .next s
    else
      match j.frame with
      | some x => .next (s.deliverTile d j x)
      | none => .next (s.readStream d j fun t u =>
          match u with
          | .frame x =>
            let j := j.take x
            let t := t.setDecoder d (some j)
            j.frame.elim t (t.deliverTile d j)
          | _ => t)

/-- DECODE_JOB_END (R373, R374): the stream ends, once the frame in hand has been delivered, or a sequence header comes that is outside the
decoder's support. -/
def execDecodeJobEnd (d : BitVec 4) (unsupported : Bool) (s : State) : Result :=
  match s.hub.decoders[d.toNat] with
  | none => .next s
  | some j =>
    if j.call.fault.isSome || j.frame.isSome then .next s
    else .next (s.readStream d j fun t u =>
      match u with
      | .ended => if unsupported then t else t.endJob d j 0 0
      | .unsupported => if unsupported then t.endJob d j 2 Errc.unsupported else t
      | .frame _ => t)

/-- What a decoder does next: it ends its job where nothing more of the stream comes. -/
def State.decoderStep (s : State) (d : BitVec 4) : Result :=
  match s.hub.decoders[d.toNat] with
  | none => .next s
  | some j =>
    match j.frame, s.upcoming j with
    | none, .ok .ended => execDecodeJobEnd d false s
    | none, .ok .unsupported => execDecodeJobEnd d true s
    | _, _ => execDecodeTile d j.tiles s

end Sys2Proof.Machine
end

