-- ==== Sys2Proof/Machine/Dispatch.lean ====
section
/-! DEFINITION. The dispatch: one arm for each operation and event of the opcode table. -/

namespace Sys2Proof.Machine

open Host

def exec (i : Instr) (s : State) : Host.Outcome State Fault Refusal :=
  match i with
  | .lnop bt => Sys2Proof.Machine.execLnop bt s
  | .br bt o => Sys2Proof.Machine.execBr bt o s
  | .brz bt a o => Sys2Proof.Machine.execBrz bt a o s
  | .brnz bt a o => Sys2Proof.Machine.execBrnz bt a o s
  | .brlt bt a o => Sys2Proof.Machine.execBrlt bt a o s
  | .brge bt a o => Sys2Proof.Machine.execBrge bt a o s
  | .brq bt q n o => Sys2Proof.Machine.execBrq bt q n o s
  | .bri bt a => Sys2Proof.Machine.execBri bt a s
  | .call bt d o => Sys2Proof.Machine.execCall bt d o s
  | .ret bt a => Sys2Proof.Machine.execRet bt a s
  | .loop bt c o => Sys2Proof.Machine.execLoop bt c o s
  | .loopr bt c o => Sys2Proof.Machine.execLoopr bt c o s
  | .hwait bt g p h => Sys2Proof.Machine.execHwait bt g p h s
  | .bar bt b => Sys2Proof.Machine.execBar bt b s
  | .waitv bt a b c z => Sys2Proof.Machine.execWaitv bt a b c z s
  | .halt bt => Sys2Proof.Machine.execHalt bt s
  | .aret bt => Sys2Proof.Machine.execAret bt s
  | .tret bt k => Sys2Proof.Machine.execTret bt k s
  | .snop bt => Sys2Proof.Machine.execSnop bt s
  | .add o => Sys2Proof.Machine.execAdd o s
  | .sub o => Sys2Proof.Machine.execSub o s
  | .addi o => Sys2Proof.Machine.execAddi o s
  | .mul o => Sys2Proof.Machine.execMul o s
  | .mulhs o => Sys2Proof.Machine.execMulhs o s
  | .mulhn o => Sys2Proof.Machine.execMulhn o s
  | .divs o => Sys2Proof.Machine.execDivs o s
  | .divn o => Sys2Proof.Machine.execDivn o s
  | .rems o => Sys2Proof.Machine.execRems o s
  | .remn o => Sys2Proof.Machine.execRemn o s
  | .and o => Sys2Proof.Machine.execAnd o s
  | .or o => Sys2Proof.Machine.execOr o s
  | .xor o => Sys2Proof.Machine.execXor o s
  | .andn o => Sys2Proof.Machine.execAndn o s
  | .andi o => Sys2Proof.Machine.execAndi o s
  | .ori o => Sys2Proof.Machine.execOri o s
  | .xori o => Sys2Proof.Machine.execXori o s
  | .shl o => Sys2Proof.Machine.execShl o s
  | .shr o => Sys2Proof.Machine.execShr o s
  | .sar o => Sys2Proof.Machine.execSar o s
  | .shli o => Sys2Proof.Machine.execShli o s
  | .shri o => Sys2Proof.Machine.execShri o s
  | .sari o => Sys2Proof.Machine.execSari o s
  | .ror o => Sys2Proof.Machine.execRor o s
  | .rori o => Sys2Proof.Machine.execRori o s
  | .clz o => Sys2Proof.Machine.execClz o s
  | .ctz o => Sys2Proof.Machine.execCtz o s
  | .popc o => Sys2Proof.Machine.execPopc o s
  | .bfx o => Sys2Proof.Machine.execBfx o s
  | .bfxs o => Sys2Proof.Machine.execBfxs o s
  | .bfi o => Sys2Proof.Machine.execBfi o s
  | .bfxv bt d a b x => Sys2Proof.Machine.execBfxv bt d a b x s
  | .ceq o => Sys2Proof.Machine.execCeq o s
  | .cne o => Sys2Proof.Machine.execCne o s
  | .clt o => Sys2Proof.Machine.execClt o s
  | .cltn o => Sys2Proof.Machine.execCltn o s
  | .cle o => Sys2Proof.Machine.execCle o s
  | .clen o => Sys2Proof.Machine.execClen o s
  | .ceqi o => Sys2Proof.Machine.execCeqi o s
  | .clti o => Sys2Proof.Machine.execClti o s
  | .sel bt d a b q => Sys2Proof.Machine.execSel bt d a b q s
  | .min o => Sys2Proof.Machine.execMin o s
  | .max o => Sys2Proof.Machine.execMax o s
  | .minn o => Sys2Proof.Machine.execMinn o s
  | .maxn o => Sys2Proof.Machine.execMaxn o s
  | .li bt d v => Sys2Proof.Machine.execLi bt d v s
  | .liExt bt d x => Sys2Proof.Machine.execLiExt bt d x s
  | .lih bt d a x => Sys2Proof.Machine.execLih bt d a x s
  | .addr bt d a b k r => Sys2Proof.Machine.execAddr bt d a b k r s
  | .lds o => Sys2Proof.Machine.execLds o s
  | .sts o => Sys2Proof.Machine.execSts o s
  | .ldsx bt d a b k x z => Sys2Proof.Machine.execLdsx bt d a b k x z s
  | .stsx bt d a b k z => Sys2Proof.Machine.execStsx bt d a b k z s
  | .getr bt d n => Sys2Proof.Machine.execGetr bt d n s
  | .setr bt a n => Sys2Proof.Machine.execSetr bt a n s
  | .getg bt d n => Sys2Proof.Machine.execGetg bt d n s
  | .geth bt d n => Sys2Proof.Machine.execGeth bt d n s
  | .setn bt n a => Sys2Proof.Machine.execSetn bt n a s
  | .setb bt n a => Sys2Proof.Machine.execSetb bt n a s
  | .setq bt n a => Sys2Proof.Machine.execSetq bt n a s
  | .drain bt w sv => Sys2Proof.Machine.execDrain bt w sv s
  | .invoke bt a c h => Sys2Proof.Machine.execInvoke bt a c h s
  | .sprint bt d a l => Sys2Proof.Machine.execSprint bt d a l s
  | .sprintx bt d => Sys2Proof.Machine.execSprintx bt d s
  | .trap bt a n => Sys2Proof.Machine.execTrap bt a n s
  | .statpop bt d e => Sys2Proof.Machine.execStatpop bt d e s
  | .fmtset bt a c f => Sys2Proof.Machine.execFmtset bt a c f s
  | .vnop bt => Sys2Proof.Machine.execVnop bt s
  | .vadd o => Sys2Proof.Machine.execVadd o s
  | .vaddArith o x => Sys2Proof.Machine.execVaddArith o x s
  | .vsub o => Sys2Proof.Machine.execVsub o s
  | .vsubArith o x => Sys2Proof.Machine.execVsubArith o x s
  | .vmul o => Sys2Proof.Machine.execVmul o s
  | .vmulArith o x => Sys2Proof.Machine.execVmulArith o x s
  | .vfma o => Sys2Proof.Machine.execVfma o s
  | .vfmaArith o x => Sys2Proof.Machine.execVfmaArith o x s
  | .vfms o => Sys2Proof.Machine.execVfms o s
  | .vfmsArith o x => Sys2Proof.Machine.execVfmsArith o x s
  | .vmin o => Sys2Proof.Machine.execVmin o s
  | .vmax o => Sys2Proof.Machine.execVmax o s
  | .vabs o => Sys2Proof.Machine.execVabs o s
  | .vabsArith o sat => Sys2Proof.Machine.execVabsArith o sat s
  | .vneg o => Sys2Proof.Machine.execVneg o s
  | .vnegArith o sat => Sys2Proof.Machine.execVnegArith o sat s
  | .vclamp o => Sys2Proof.Machine.execVclamp o s
  | .vand o => Sys2Proof.Machine.execVand o s
  | .vor o => Sys2Proof.Machine.execVor o s
  | .vxor o => Sys2Proof.Machine.execVxor o s
  | .vshl o => Sys2Proof.Machine.execVshl o s
  | .vshr o => Sys2Proof.Machine.execVshr o s
  | .vsar o => Sys2Proof.Machine.execVsar o s
  | .vceq o => Sys2Proof.Machine.execVceq o s
  | .vclt o => Sys2Proof.Machine.execVclt o s
  | .vcle o => Sys2Proof.Machine.execVcle o s
  | .vcun o => Sys2Proof.Machine.execVcun o s
  | .vsel o => Sys2Proof.Machine.execVsel o s
  | .vcvt o x => Sys2Proof.Machine.execVcvt o x s
  | .vcvtb o x => Sys2Proof.Machine.execVcvtb o x s
  | .vpack o dst sh => Sys2Proof.Machine.execVpack o dst sh s
  | .vunpk o src => Sys2Proof.Machine.execVunpk o src s
  | .vshuf o e => Sys2Proof.Machine.execVshuf o e s
  | .vpatld bt a e => Sys2Proof.Machine.execVpatld bt a e s
  | .vpatsw bt => Sys2Proof.Machine.execVpatsw bt s
  | .vradd o => Sys2Proof.Machine.execVradd o s
  | .vraddArith o x => Sys2Proof.Machine.execVraddArith o x s
  | .vrmax o => Sys2Proof.Machine.execVrmax o s
  | .vrmin o => Sys2Proof.Machine.execVrmin o s
  | .vbcast o src l => Sys2Proof.Machine.execVbcast o src l s
  | .vext bt y d a w l => Sys2Proof.Machine.execVext bt y d a w l s
  | .vidx bt y d w k => Sys2Proof.Machine.execVidx bt y d w k s
  | .vld o x => Sys2Proof.Machine.execVld o x s
  | .vst o x => Sys2Proof.Machine.execVst o x s
  | .vlds o x => Sys2Proof.Machine.execVlds o x s
  | .vsts o x => Sys2Proof.Machine.execVsts o x s
  | .vgath o x => Sys2Proof.Machine.execVgath o x s
  | .vscat o x => Sys2Proof.Machine.execVscat o x s
  | .vexp o => Sys2Proof.Machine.execVexp o s
  | .vexpAccurate o n => Sys2Proof.Machine.execVexpAccurate o n s
  | .vlog o => Sys2Proof.Machine.execVlog o s
  | .vlogAccurate o n => Sys2Proof.Machine.execVlogAccurate o n s
  | .vrcp o => Sys2Proof.Machine.execVrcp o s
  | .vrcpAccurate o n => Sys2Proof.Machine.execVrcpAccurate o n s
  | .vrsq o => Sys2Proof.Machine.execVrsq o s
  | .vrsqAccurate o n => Sys2Proof.Machine.execVrsqAccurate o n s
  | .vsin o => Sys2Proof.Machine.execVsin o s
  | .vsinAccurate o n => Sys2Proof.Machine.execVsinAccurate o n s
  | .vcos o => Sys2Proof.Machine.execVcos o s
  | .vcosAccurate o n => Sys2Proof.Machine.execVcosAccurate o n s
  | .vtanh o => Sys2Proof.Machine.execVtanh o s
  | .vtanhAccurate o n => Sys2Proof.Machine.execVtanhAccurate o n s
  | .vlgst o => Sys2Proof.Machine.execVlgst o s
  | .vlgstAccurate o n => Sys2Proof.Machine.execVlgstAccurate o n s
  | .kand bt d a b => Sys2Proof.Machine.execKand bt d a b s
  | .kor bt d a b => Sys2Proof.Machine.execKor bt d a b s
  | .kxor bt d a b => Sys2Proof.Machine.execKxor bt d a b s
  | .knot bt d a => Sys2Proof.Machine.execKnot bt d a s
  | .kset bt d a => Sys2Proof.Machine.execKset bt d a s
  | .vmov o => Sys2Proof.Machine.execVmov o s
  | .mnop bt => Sys2Proof.Machine.execMnop bt s
  | .mcall bt n => Sys2Proof.Machine.execMcall bt n s
  | .msetp bt m a p => Sys2Proof.Machine.execMsetp bt m a p s
  | .mlatch bt e b v k f => Sys2Proof.Machine.execMlatch bt e b v k f s
  | .maccz bt m => Sys2Proof.Machine.execMaccz bt m s
  | .mretire bt m a v f e => Sys2Proof.Machine.execMretire bt m a v f e s
  | .mupld bt n a word cnt => Sys2Proof.Machine.execMupld bt n a word cnt s
  | .mfmt bt a b c r sv => Sys2Proof.Machine.execMfmt bt a b c r sv s
  | .mwait bt => Sys2Proof.Machine.execMwait bt s
  | .rtload bt a f c => Sys2Proof.Machine.execRtload bt a f c s
  | .rgrid bt x w h c g => Sys2Proof.Machine.execRgrid bt x w h c g s
  | .rgridOff bt => Sys2Proof.Machine.execRgridOff bt s
  | .rmode bt n ix u x y o p => Sys2Proof.Machine.execRmode bt n ix u x y o p s
  | .rstep bt a => Sys2Proof.Machine.execRstep bt a s
  | .rload bt m y v r => Sys2Proof.Machine.execRload bt m y v r s
  | .rstore bt m y v r => Sys2Proof.Machine.execRstore bt m y v r s
  | .rhalox bt sv a => Sys2Proof.Machine.execRhalox bt sv a s
  | .rhaloi bt sv a => Sys2Proof.Machine.execRhaloi bt sv a s
  | .rcensus bt a => Sys2Proof.Machine.execRcensus bt a s
  | .cnop bt => Sys2Proof.Machine.execCnop bt s
  | .copy bt g h a v sv => Sys2Proof.Machine.execCopy bt g h a v sv s
  | .copyo bt g h a v sv => Sys2Proof.Machine.execCopyo bt g h a v sv s
  | .gather bt g h a b v => Sys2Proof.Machine.execGather bt g h a b v s
  | .scattr bt g h a b v => Sys2Proof.Machine.execScattr bt g h a b v s
  | .fillh bt g h a => Sys2Proof.Machine.execFillh bt g h a s
  | .advp bt r => Sys2Proof.Machine.execAdvp bt r s
  | .advc bt r => Sys2Proof.Machine.execAdvc bt r s
  | .flip bt h => Sys2Proof.Machine.execFlip bt h s
  | .ringdef bt f l n o => Sys2Proof.Machine.execRingdef bt f l n o s
  | .harm bt h a => Sys2Proof.Machine.execHarm bt h a s
  | .harmOff bt h => Sys2Proof.Machine.execHarmOff bt h s
  | .send bt g d sv b => Sys2Proof.Machine.execSend bt g d sv b s
  | .sacc bt hi v a o => Sys2Proof.Machine.execSacc bt hi v a o s
  | .coll bt sv d a => Sys2Proof.Machine.execColl bt sv d a s
  | .hpois bt h c => Sys2Proof.Machine.execHpois bt h c s
  | .tilef bt g h a b v sv => Sys2Proof.Machine.execTilef bt g h a b v sv s
  | .upass n => Sys2Proof.Machine.execUpass n s
  | .ulatch u => Sys2Proof.Machine.execUlatch u s
  | .ustep u => Sys2Proof.Machine.execUstep u s
  | .uloop l count target => Sys2Proof.Machine.execUloop l count target s
  | .uacc ms md => Sys2Proof.Machine.execUacc ms md s
  | .ufmt src af bf => Sys2Proof.Machine.execUfmt src af bf s
  | .ufetch h md v => Sys2Proof.Machine.execUfetch h md v s
  | .uwait h => Sys2Proof.Machine.execUwait h s
  | .urowp mr => Sys2Proof.Machine.execUrowp mr s
  | .uend => Sys2Proof.Machine.execUend s
  | .nop h => Sys2Proof.Machine.execNop h s
  | .launch h gang prio desc ublock => Sys2Proof.Machine.execLaunch h gang prio desc ublock s
  | .wait h kind cond size step addr value mask => Sys2Proof.Machine.execWait h kind cond size step addr value mask s
  | .signal h irq addr value => Sys2Proof.Machine.execSignal h irq addr value s
  | .xfer h src dst len => Sys2Proof.Machine.execXfer h src dst len s
  | .loft h die bay src off len => Sys2Proof.Machine.execLoft h die bay src off len s
  | .loftRel h die bay => Sys2Proof.Machine.execLoftRel h die bay s
  | .joinpt h => Sys2Proof.Machine.execJoinpt h s
  | .goto h target => Sys2Proof.Machine.execGoto h target s
  | .endStep h => Sys2Proof.Machine.execEndStep h s
  | .start p ecb => Sys2Proof.Machine.execStart p ecb s
  | .join p addr v => Sys2Proof.Machine.execJoin p addr v s
  | .park p => Sys2Proof.Machine.execPark p s
  | .parkCut p => Sys2Proof.Machine.execParkCut p s
  | .resume p => Sys2Proof.Machine.execResume p s
  | .kill p => Sys2Proof.Machine.execKill p s
  | .gangJoin p gang => Sys2Proof.Machine.execGangJoin p gang s
  | .gangLeave p => Sys2Proof.Machine.execGangLeave p s
  | .gangStop p => Sys2Proof.Machine.execGangStop p s
  | .gangGo p => Sys2Proof.Machine.execGangGo p s
  | .home p => Sys2Proof.Machine.execHome p s
  | .adopt p => Sys2Proof.Machine.execAdopt p s
  | .stewardRegister p => Sys2Proof.Machine.execStewardRegister p s
  | .orphan p => Sys2Proof.Machine.execOrphan p s
  | .stewardUnregister p => Sys2Proof.Machine.execStewardUnregister p s
  | .ack p cls unit seq => Sys2Proof.Machine.execAck p cls unit seq s
  | .query p r => Sys2Proof.Machine.execQuery p r s
  | .unassignedPortOperation p => Sys2Proof.Machine.execUnassignedPortOperation p s
  | .fileRead k page addr bytes => Sys2Proof.Machine.execFileRead k page addr bytes s
  | .fileWrite k page addr bytes => Sys2Proof.Machine.execFileWrite k page addr bytes s
  | .fileFlush k page bytes => Sys2Proof.Machine.execFileFlush k page bytes s
  | .decodeCall k stream len dst tile limit => Sys2Proof.Machine.execDecodeCall k stream len dst tile limit s
  | .allocCall k bytes align => Sys2Proof.Machine.execAllocCall k bytes align s
  | .allocFree k addr => Sys2Proof.Machine.execAllocFree k addr s
  | .timeCall k => Sys2Proof.Machine.execTimeCall k s
  | .printCall k ring len text => Sys2Proof.Machine.execPrintCall k ring len text s
  | .notifyCall k addr v => Sys2Proof.Machine.execNotifyCall k addr v s
  | .statusCall k callno cap => Sys2Proof.Machine.execStatusCall k callno cap s
  | .bundleIssue c => Sys2Proof.Machine.execBundleIssue c s
  | .timingRestart c => Sys2Proof.Machine.execTimingRestart c s
  | .resultArrival c => Sys2Proof.Machine.execResultArrival c s
  | .trapDelivery c => Sys2Proof.Machine.execTrapDelivery c s
  | .trapRecordWrite src => Sys2Proof.Machine.execTrapRecordWrite src s
  | .containment c mem => Sys2Proof.Machine.execContainment c mem s
  | .containmentWaitTimeout c => Sys2Proof.Machine.execContainmentWaitTimeout c s
  | .hwaitRelease c => Sys2Proof.Machine.execHwaitRelease c s
  | .barrierRelease cl b => Sys2Proof.Machine.execBarrierRelease cl b s
  | .waitvPoll c => Sys2Proof.Machine.execWaitvPoll c s
  | .drainHoldEnd c => Sys2Proof.Machine.execDrainHoldEnd c s
  | .mwaitRelease c => Sys2Proof.Machine.execMwaitRelease c s
  | .sprintAnswer c => Sys2Proof.Machine.execSprintAnswer c s
  | .quantumCommit cl => Sys2Proof.Machine.execQuantumCommit cl s
  | .loftRefresh die => Sys2Proof.Machine.execLoftRefresh die s
  | .matrixOperationStart c => Sys2Proof.Machine.execMatrixOperationStart c s
  | .latchLoadComplete c e => Sys2Proof.Machine.execLatchLoadComplete c e s
  | .maxredExpiry c => Sys2Proof.Machine.execMaxredExpiry c s
  | .copyCommandStart c eng => Sys2Proof.Machine.execCopyCommandStart c eng s
  | .fillComplete c h => Sys2Proof.Machine.execFillComplete c h s
  | .handleDrainComplete c h => Sys2Proof.Machine.execHandleDrainComplete c h s
  | .sendDelivery c eng => Sys2Proof.Machine.execSendDelivery c eng s
  | .saccRound cl => Sys2Proof.Machine.execSaccRound cl s
  | .collSegmentComplete group seg => Sys2Proof.Machine.execCollSegmentComplete group seg s
  | .chetiaFlit port seq payload => Sys2Proof.Machine.execChetiaFlit port seq payload s
  | .hostHbmAccess pa wr => Sys2Proof.Machine.execHostHbmAccess pa wr s
  | .inval p v => Sys2Proof.Machine.execInval p v s
  | .invalidationComplete => Sys2Proof.Machine.execInvalidationComplete s
  | .statRecordDrain c => Sys2Proof.Machine.execStatRecordDrain c s
  | .statisticsWindow c => Sys2Proof.Machine.execStatisticsWindow c s
  | .sliceEnd => Sys2Proof.Machine.execSliceEnd s
  | .saveComplete r => Sys2Proof.Machine.execSaveComplete r s
  | .launchComplete r => Sys2Proof.Machine.execLaunchComplete r s
  | .cutReached r => Sys2Proof.Machine.execCutReached r s
  | .cutTimeout r => Sys2Proof.Machine.execCutTimeout r s
  | .leaseRequestDecision c => Sys2Proof.Machine.execLeaseRequestDecision c s
  | .leaseExpiry cl => Sys2Proof.Machine.execLeaseExpiry cl s
  | .meltSample z permil => Sys2Proof.Machine.execMeltSample z permil s
  | .clockStep cl => Sys2Proof.Machine.execClockStep cl s
  | .droopSample cl sag => Sys2Proof.Machine.execDroopSample cl sag s
  | .pressureDecay cl => Sys2Proof.Machine.execPressureDecay cl s
  | .sensitivityWindow cl => Sys2Proof.Machine.execSensitivityWindow cl s
  | .temperatureSample cl t => Sys2Proof.Machine.execTemperatureSample cl t s
  | .slackWindow cl => Sys2Proof.Machine.execSlackWindow cl s
  | .correctedMemoryError cl => Sys2Proof.Machine.execCorrectedMemoryError cl s
  | .hostLeaseExpiry => Sys2Proof.Machine.execHostLeaseExpiry s
  | .renew p => Sys2Proof.Machine.execRenew p s
  | .stewardLeaseRenew => Sys2Proof.Machine.execStewardLeaseRenew s
  | .stewardLeaseExpiry => Sys2Proof.Machine.execStewardLeaseExpiry s
  | .stewardLeaseTakeover rank => Sys2Proof.Machine.execStewardLeaseTakeover rank s
  | .fitterJob e => Sys2Proof.Machine.execFitterJob e s
  | .fitBudgetExpiry e => Sys2Proof.Machine.execFitBudgetExpiry e s
  | .waitPoll r => Sys2Proof.Machine.execWaitPoll r s
  | .stepCompletion r idx => Sys2Proof.Machine.execStepCompletion r idx s
  | .wicketAccept => Sys2Proof.Machine.execWicketAccept s
  | .clerkSwitch p cap img => Sys2Proof.Machine.execClerkSwitch p cap img s
  | .clerkSwitchForced p cap img => Sys2Proof.Machine.execClerkSwitchForced p cap img s
  | .clerkSwitchTimeout cap => Sys2Proof.Machine.execClerkSwitchTimeout cap s
  | .pageCacheReadComplete idx data => Sys2Proof.Machine.execPageCacheReadComplete idx data s
  | .decodeJobStart => Sys2Proof.Machine.execDecodeJobStart s
  | .decodeTile d tile => Sys2Proof.Machine.execDecodeTile d tile s
  | .decodeJobEnd d unsupported => Sys2Proof.Machine.execDecodeJobEnd d unsupported s
  | .packageReset => Sys2Proof.Machine.execPackageReset s
  | .railFault => Sys2Proof.Machine.execRailFault s
  | .boot v => Sys2Proof.Machine.execBoot v s
  | .hotReset p => Sys2Proof.Machine.execHotReset p s
  | .attestGo p => Sys2Proof.Machine.execAttestGo p s
  | .attestReportComplete => Sys2Proof.Machine.execAttestReportComplete s
  | .flush p => Sys2Proof.Machine.execFlush p s
  | .fitkid p kid => Sys2Proof.Machine.execFitkid p kid s
  | .registerWrite p off v => Sys2Proof.Machine.execRegisterWrite p off v s
  | .fittingComplete e => Sys2Proof.Machine.execFittingComplete e s
  | .matrixOperationComplete c => Sys2Proof.Machine.execMatrixOperationComplete c s
  | .linkPeerLost port => Sys2Proof.Machine.execLinkPeerLost port s
  | .processMonitorSample cl count => Sys2Proof.Machine.execProcessMonitorSample cl count s

end Sys2Proof.Machine
end

