-- ==== Sys2Proof/Machine/Schedule.lean ====
section
/-! DEFINITION. What happens next (notes/assumptions/6.md): inputs of the agenda, and the package's own events, one at a time and each in
its turn. An event that finds nothing to do leaves the state as it is. -/

namespace Sys2Proof.Machine

/-! ### Inputs -/

/-- A BAR 0 write as the event it is (R225, R331, R353, R368, R405). -/
def runBar0 (p : Port) (s : State) : Bar0Write → Result
  | .renew => execRenew p s
  | .inval v => execInval p v s
  | .flush => execFlush p s
  | .fitkid kid => execFitkid p kid s
  | .attestGo => execAttestGo p s
  | .clerkSwitch cap img => execClerkSwitch p cap img s
  | .clerkSwitchForced cap img => execClerkSwitchForced p cap img s
  | .register off v => execRegisterWrite p off v s

/-- R317: a read of an errand-port page: QUERY at offset 0, zero at others, nothing at another size. -/
def runPortRead (p : Port) (page : RecNo) (off : BitVec 12) (size : Nat) (s : State) : Result :=
  if off != 0 then .next (s.updHub fun h => { h with queried := some (p, page, 0) })
  else if size = 64 then execQuery p page s
  else .next s

/-- An input happens: an operation or event, or the one that a raw access decodes to (R317: a port write of another size or offset is
discarded). RENEW through both ports at once is port A's (R334). -/
def runInput (s : State) : Input → Result
  | .op i => exec i s
  | .portWrite p page off size bits => if off = 0 ∧ size = 64 then exec (decodePortWrite p page bits.toNat) s else .next s
  | .portRead p page off size => runPortRead p page off size s
  | .bar0 p off v => runBar0 p s (decodeBar0Write off v)
  | .renewBoth => match execRenew .a s with
    | .next t => execRenew .b t
    | r => r
  | .collPart desc data poison arrived reference => .next (s.takeForeign
      { desc := desc, data := data, poison := poison, arrived := arrived, reference := reference })
  | .farError c eng => .next (s.farError c eng.toNat)
  | .gangSpans g b => .next (s.gangSpans g b)
  | .gangStop g => .next (s.farStop g)
  | .gangGo g => .next (s.farGo g)
  | .linkSend port payload => .next (s.linkSend port payload)
  | .linkAck port seq => .next (s.linkAck port seq)
  | .flashWrite slotB i bs => .next (s.flashWrite slotB i.toNat bs)
  | .statRingError c => .next (s.statRingError c)
  | .replayFails call cap => .next (s.replayFails call cap)
  | .ringError r => .next (s.ringError r)
  | .saveError r => .next (s.saveError r)
  | .hubWalk asid va => .next (s.hubWalk asid va.toNat)
  | .hubForget n => .next (s.hubForget n)
  | .codeTake c va => .next (s.prefetchCode c va)
  | .codeForget c n => .next (s.forgetCode c n)
  | .stackTemp stack t => .next (s.sampleStack stack t)

/-! ### The package's own events -/

/-- The micro-op that the running routine comes to (R155). -/
def State.microStep (s : State) (c : CoreNo) : Result :=
  match (s.matrix c).routine.bind (s.matrix c).microWord with
  | some i => exec i { s with cur := c }
  | none => .next s

/-- The handle of the command at the head of an engine's queue, or of the first fetch of a UFETCH. -/
def State.headHandle (s : State) (c : CoreNo) : Nat → Option (BitVec 6)
  | 2 => (s.matrix c).fetches.head?.map (·.h)
  | n => (s.engine c n).queue.head?.map (·.h)

def State.onHead (s : State) (c : CoreNo) (n : Nat) (f : BitVec 6 → State → Result) : Result :=
  match s.headHandle c n with
  | some h => f h s
  | none => .next s

/-- Events of a core. -/
def coreEvents : List (CoreNo → State → Result) := [
  execBundleIssue, execTrapDelivery, execTimingRestart, execResultArrival, execHwaitRelease, execWaitvPoll, execMwaitRelease,
  execDrainHoldEnd, execLeaseRequestDecision, execSprintAnswer,
  fun c s => s.microStep c, execMatrixOperationStart, execMatrixOperationComplete, execMaxredExpiry,
  fun c => execLatchLoadComplete c 0, fun c => execLatchLoadComplete c 1, fun c => execLatchLoadComplete c 2,
  fun c => execLatchLoadComplete c 3,
  fun c => execCopyCommandStart c 0, fun c => execCopyCommandStart c 1, fun c => execSendDelivery c 0, fun c => execSendDelivery c 1,
  fun c s => s.onHead c 0 (execFillComplete c), fun c s => s.onHead c 1 (execFillComplete c),
  fun c s => s.onHead c 2 (execFillComplete c), fun c s => s.onHead c 0 (execHandleDrainComplete c),
  fun c s => s.onHead c 1 (execHandleDrainComplete c),
  fun c => execTrapRecordWrite ⟨0, c⟩, fun c => execTrapRecordWrite ⟨1, c⟩, fun c => execTrapRecordWrite ⟨2, c⟩,
  fun c => execTrapRecordWrite ⟨3, c⟩,
  execStatRecordDrain, execStatisticsWindow, execContainmentWaitTimeout ]

/-- Events of a cluster. -/
def clusterEvents : List (ClusterNo → State → Result) := [
  execQuantumCommit, execSaccRound,
  fun c => execBarrierRelease c 0, fun c => execBarrierRelease c 1, fun c => execBarrierRelease c 2, fun c => execBarrierRelease c 3,
  fun c => execBarrierRelease c 4, fun c => execBarrierRelease c 5, fun c => execBarrierRelease c 6, fun c => execBarrierRelease c 7,
  execLeaseExpiry, execClockStep, execPressureDecay, execSensitivityWindow, execSlackWindow, fun cl s => .next (s.cacheStep cl) ]

/-- The sequencer of an errand fetches and starts a step (R324 to R326). -/
def State.sequence (s : State) (r : RecNo) : Result :=
  if !(s.errand r).fetches then .next s
  else
    match s.fetchStep r with
    | .step i => exec i s
    | .state t => .next t

def State.completeStep (s : State) (r : RecNo) : Result :=
  match (s.errand r).inflight.find? StepInFlight.open with
  | some x => execStepCompletion r (BitVec.ofNat 20 x.index) s
  | none => .next s

def State.writeHubRecord (s : State) (r : RecNo) : Result :=
  match (s.errand r).records.head? with
  | some t => execTrapRecordWrite ⟨t.cls, t.unit⟩ s
  | none => .next s

/-- Events of an errand. -/
def errandEvents : List (RecNo → State → Result) := [
  fun r s => s.sequence r, execWaitPoll, fun r s => s.completeStep r, fun r s => s.writeHubRecord r,
  execCutReached, execCutTimeout, execSaveComplete, execLaunchComplete, fun r s => .next (s.fulfilJoin r) ]

/-- The call that the clerk of a capability turns to next. -/
def Hub.nextCall (h : Hub) (errands : RecNo → Errand) (cap : BitVec 3) : Option Call :=
  let waits := fun (c : Call) => !c.running && ((errands c.errand).entry cap c.callno).any fun j => j.state == .notDone
  match h.calls.find? fun c => c.cap == cap && c.fault.isNone && c.answer.isNone && !waits c with
  | some c => some c
  | none => if h.clerkOpen cap then h.wicket.find? fun c => c.cap == cap else none

def State.clerkStep (s : State) (cap : BitVec 3) : Result :=
  match (s.hub.nextCall s.errand cap).bind Call.asks with
  | some i => exec i s
  | none => .next s

/-- A segment that is complete, or whose parts disagree, or that is lost. -/
def State.collReady (s : State) : Option CollPart :=
  s.hub.colls.find? fun p =>
    let ps := s.collParts (CollDesc.group p.desc) (CollDesc.seg p.desc)
    CollDesc.npart p.desc ≤ ps.length || ps.any fun q => q.key != p.key || s.joinsLost q

def State.collStep (s : State) : Result :=
  match s.collReady with
  | some p => execCollSegmentComplete (BitVec.ofNat 32 (CollDesc.group p.desc)) (BitVec.ofNat 32 (CollDesc.seg p.desc)) s
  | none => .next s

/-- R369: the leader renews every 500 µs. -/
def State.renewDue (s : State) : Result :=
  if s.hub.steward.expiry ≤ s.now + 1500000 then execStewardLeaseRenew s else .next s

/-- Events of the hub. -/
def hubEvents : List (State → Result) := [
  State.renewDue, execHostLeaseExpiry,
  execStewardLeaseExpiry, execStewardLeaseTakeover 1, execStewardLeaseTakeover 2, execStewardLeaseTakeover 3, execStewardLeaseTakeover 4,
  execFitterJob 0, execFitterJob 1, execFitterJob 2, execFitterJob 3,
  execFitBudgetExpiry 0, execFitBudgetExpiry 1, execFitBudgetExpiry 2, execFitBudgetExpiry 3,
  execFittingComplete 0, execFittingComplete 1, execFittingComplete 2, execFittingComplete 3,
  execSliceEnd, execWicketAccept,
  fun s => s.clerkStep 1, fun s => s.clerkStep 2, fun s => s.clerkStep 3, fun s => s.clerkStep 4, fun s => s.clerkStep 5,
  fun s => s.clerkStep 6, fun s => s.clerkStep 7,
  execClerkSwitchTimeout 1, execClerkSwitchTimeout 2, execClerkSwitchTimeout 3, execClerkSwitchTimeout 4, execClerkSwitchTimeout 5,
  execClerkSwitchTimeout 6, execClerkSwitchTimeout 7,
  fun s => s.decoderStep 0, fun s => s.decoderStep 1, fun s => s.decoderStep 2, fun s => s.decoderStep 3, fun s => s.decoderStep 4,
  fun s => s.decoderStep 5, fun s => s.decoderStep 6, fun s => s.decoderStep 7, fun s => s.decoderStep 8, fun s => s.decoderStep 9,
  fun s => s.decoderStep 10, fun s => s.decoderStep 11, fun s => s.decoderStep 12, fun s => s.decoderStep 13, fun s => s.decoderStep 14,
  fun s => s.decoderStep 15, execDecodeJobStart, State.collStep, execInvalidationComplete, execAttestReportComplete,
  fun s => .next s.egressStep ]

/-! ### Turns -/

/-- Units that have events: 512 cores, 64 clusters, 2,048 errands and the hub. -/
def unitCount : Nat := 2625

/-- A unit that may have an event to come. -/
def State.unitLive (s : State) (u : Nat) : Bool :=
  if u < 512 then (s.core (BitVec.ofNat 9 u)).status != .off
  else if u < 576 then true
  else if u < 2624 then
    let e := s.errand (BitVec.ofNat 11 (u - 576))
    e.state != .idle || !e.records.isEmpty || s.hub.crews.any fun w => w.errand == BitVec.ofNat 11 (u - 576)
  else true

/-- The first live unit from `u` on, the hub at the latest. -/
def State.liveFrom (s : State) : Nat → Nat → Nat
  | 0, _ => unitCount - 1
  | n + 1, u =>
    let u := if unitCount ≤ u then 0 else u
    if s.unitLive u then u else s.liveFrom n (u + 1)

/-- Events of a unit. -/
def eventCount (u : Nat) : Nat :=
  if u < 512 then coreEvents.length else if u < 576 then clusterEvents.length else if u < 2624 then errandEvents.length
  else hubEvents.length

/-- Whose turn it is: a unit and the number of its event. -/
def State.whoseTurn (s : State) : Nat × Nat :=
  let u := s.turn / 64
  let k := s.turn % 64
  if u < unitCount && k < eventCount u && s.unitLive u then (u, k) else (s.liveFrom unitCount (u + 1), 0)

/-- Event `k` of unit `u`. -/
def runEvent (u k : Nat) (s : State) : Result :=
  if u < 512 then (coreEvents.getD k fun _ s => .next s) (BitVec.ofNat 9 u) s
  else if u < 576 then (clusterEvents.getD k fun _ s => .next s) (BitVec.ofNat 6 (u - 512)) s
  else if u < 2624 then (errandEvents.getD k fun _ s => .next s) (BitVec.ofNat 11 (u - 576)) s
  else (hubEvents.getD k fun s => .next s) s

/-- The event whose turn it is happens, and the next one's turn comes. -/
def State.ownEvent (s : State) : Result :=
  let (u, k) := s.whoseTurn
  runEvent u k { s with turn := 64 * u + k + 1 }

end Sys2Proof.Machine
end

