-- ==== Sys2Proof/Machine/Step.lean ====
section
/-! DEFINITION. One step, and the placing of an instruction where the next step fetches it (notes/assumptions/6.md). -/

namespace Sys2Proof.Machine

/-- One step: the input whose time has come, or an event of the package's own. -/
def step (s : State) : Host.Outcome State Fault Refusal :=
  match s.agenda with
  | d :: rest =>
    if d.after = 0 then runInput { s with agenda := rest, now := s.now + d.ns } d.input
    else State.ownEvent { s with agenda := { d with after := d.after - 1 } :: rest }
  | [] => s.ownEvent

/-! ### Placing an instruction -/

/-- Where `State.withFetchWord` places code, by virtual and by physical address. -/
def codeAt : Nat := 0x100000

/-- Address space 0 maps the low 1 GiB onto itself, readable, writable and executable (R218, R219, R224). -/
def State.withMap (s : State) : State :=
  let hbm := [(0x2000, 0x3001), (0x3000, 0x4001), (0x4000, 0x000F), (0x8000, 0x2001)].foldl
    (fun (m : Mem) (e : Nat × Nat) => m.write e.1 (leBytes 8 e.2)) s.hbm
  { s with hbm := hbm, hub := { s.hub with bar0 := s.hub.bar0.set 0x2000 0x8001 } }

def State.withBytes (s : State) (bs : List Byte) : State :=
  let t := s.withMap
  { t with hbm := t.hbm.write codeAt bs }

/-- Core 0 runs, between bundles, with nothing held or pending. -/
def Core.atCode (k : Core) : Core :=
  { k with
    status := .running, launch := some (k.launch.getD {}), pc := BitVec.ofNat 64 codeAt, issue := 0, hold := .none, stop := false
    notBefore := 0, returned := false, arrived := none, released := false, request := none, answer := none, divertDue := false
    restart := none, fetchFault := none, pendingA := [], records := [], ringHeld := 0
    cut := {}, stopEnded := false, matrix := { k.matrix with reloading := false } }

/-- R11: the core's instruction cache holds the words placed at `codeAt`, so that no miss holds the bundle. -/
def Core.withCode (k : Core) (words : List Nat) : Core :=
  { k with icache := words.zipIdx.map fun (w, i) => { mem := 0, addr := codeAt + 4 * i, word := w } }

/-- The words of a bundle that holds one slot word, with its extension. -/
def bundleWords (sl : Slot) (words : List Nat) : List Nat :=
  let h : Header := {
    ae := false, cut := 0, qb := false, rp := false, rpt := 0, stop := false, p := 1#7 <<< sl.index }
  h.encode :: words

/-- An instruction of the opcode table placed where the next step fetches it: a slot word in a bundle of its own for core 0, a micro-op as
the routine that core 0's matrix engine runs, a step as the next of errand 0. -/
def State.withFetchWord (s : State) (nbits w : Nat) : State :=
  let s := { s with agenda := [] }
  if nbits ≤ 64 then
    let w0 := w % 2 ^ 32
    let x := if w0 / 2 ^ 31 == 1 then some (w / 2 ^ 32 % 2 ^ 32) else none
    if nbits ≤ 32 || x.isSome then
      let sl := ((tableSlot w0 x).map (·.1)).getD .s
      let ws := bundleWords sl (w0 :: x.toList)
      { ((s.withBytes (ws.flatMap (leBytes 4))).updCore 0 fun k => k.atCode.withCode ws) with turn := 0 }
    else
      let t := s.updCore 0 fun k => { k.atCode with matrix := { k.matrix with
        running := some { instr := .mcall 0 0 }, routine := some { first := 0, len := 1 }, fault := none
        ustore := k.matrix.ustore.write 0 (leBytes 8 w) } }
      { t with turn := 10 }
  else
    let t := (s.withBytes (leBytes 32 w)).updErrand 0 fun e => { e with
      state := .running, reason := .none, prog := BitVec.ofNat 64 codeAt, next := 0, asid := 0, inflight := []
      waitStep := none, waitFault := none, fetchFault := none, saving := none, killPending := false }
    { t with turn := 64 * 576 }

end Sys2Proof.Machine
end

