-- ==== Sys2Proof/Safety.lean ====
section
/-! DEFINITION. The terms in which claims are made: runs and safe runs, the canonical form of every memory of a state, and what an
issue leaves (R32, R65). -/

namespace Sys2Proof.Machine

/-! ### Runs -/

/-- `t` follows from `s` by steps of the machine. -/
inductive Reaches : State → State → Prop where
  | here (s : State) : Reaches s s
  | step {s t u : State} : Reaches s t → Machine.step t = .next u → Reaches s u

/-- A safe run: no state that follows from `s` ends in a fault or a refusal. -/
def Safe (s : State) : Prop := ∀ t, Reaches s t → ∃ u, step t = .next u

/-! ### Memories -/

/-- Every memory of a core is in canonical form. -/
def Core.memWf (k : Core) : Prop :=
  Mem.wf k.bench = true ∧ Mem.wf k.matrix.ustore = true ∧ Mem.wf k.matrix.acc = true ∧ Mem.wf k.matrix.halo = true
    ∧ Mem.wf k.matrix.rules = true

/-- Every memory that a save holds is in canonical form. -/
def SavedCrew.memWf (v : SavedCrew) : Prop := (∀ k ∈ v.cores, Core.memWf k) ∧ ∀ y ∈ v.clusters, Mem.wf y.yard = true

def LaunchReq.memWf (q : LaunchReq) : Prop := ∀ v, q.saved = some v → SavedCrew.memWf v

/-- Every memory of the package, of the host and of the saved crews is in canonical form (R212). -/
structure State.MemWf (s : State) : Prop where
  hbm : Mem.wf s.hbm = true
  host : Mem.wf s.host = true
  cores : ∀ c : CoreNo, Core.memWf (s.core c)
  yards : ∀ cl : ClusterNo, Mem.wf (s.cluster cl).yard = true
  lofts : ∀ d : DieNo, Mem.wf (s.die d).loft = true
  waiting : ∀ q ∈ s.hub.waiting, LaunchReq.memWf q
  fitQueue : ∀ q ∈ s.hub.fitQueue, LaunchReq.memWf q
  fitters : ∀ (e : BitVec 2) (j : FitJob), s.fitter e = some j → LaunchReq.memWf j.req

/-! ### What an issue leaves -/

/-- `n` more cycles do not wrap the 64-bit CYCLE register (R61). -/
def State.roomFor (s : State) (n : Nat) : Prop := s.me.cycleNat + n < 2 ^ 64

/-- One bundle of a single slot word (`words` words with its extension) has issued, and the slot has done nothing: the issue's
cycle has passed, what was due has arrived, and the next bundle is the following one (R32, R65). -/
def State.issued (s : State) (slot words : Nat) : State := (s.beginSolo slot words).commitIssue true 0

/-- Registers take values now. -/
def State.arrive (s : State) (ws : List RegWrite) : State := s.updMe fun k => ws.foldl Core.land1 k

/-- Results are on their way (R65). -/
def State.awaits (s : State) (p : Pending) : State := s.updMe fun k => { k with pend := k.pend ++ [p] }

/-- s[d] := v as the running code names its registers: nothing for s0 (R58), the arrival bank in an arrival handler (R60). -/
def State.scalar (s : State) (d : BitVec 5) (v : DWord) : List RegWrite := s.me.sWrite d v

/-- A result of latency `lat`: it arrives `lat` cycles after the issue (R65). -/
def State.due (s : State) (lat : Nat) (ws : List RegWrite) : Pending := { due := s.me.cycleNat + lat, writes := ws }

/-- Operation `i` in slot `slot` issues; its results `ws` arrive with the issue's own cycle, and nothing else happens (latency 1). -/
def GivesAtOnce (i : Instr) (slot words : Nat) (ws : State → List RegWrite) : Prop :=
  ∀ s : State, s.roomFor 1 → exec i s = .next ((s.issued slot words).arrive (ws s))

/-- Operation `i` issues; its results `p` are on their way, and nothing else happens. -/
def GivesLater (i : Instr) (slot words lat : Nat) (p : State → Pending) : Prop :=
  ∀ s : State, s.roomFor lat → exec i s = .next ((s.issued slot words).awaits (p s))

/-- A register-form scalar operation of latency 1 that computes sd := f(a, b) (R71, R72). -/
def AluReg (i : SReg → Instr) (f : DWord → DWord → DWord) : Prop :=
  ∀ o : SReg, GivesAtOnce (i o) 1 1 fun s => s.scalar o.d (f (s.me.readS o.a) (s.me.operand o.f o.b))

/-- The same with a later result. -/
def AluRegLater (i : SReg → Instr) (lat : Nat) (f : DWord → DWord → DWord) : Prop :=
  ∀ o : SReg, GivesLater (i o) 1 1 lat fun s => s.due lat (s.scalar o.d (f (s.me.readS o.a) (s.me.operand o.f o.b)))

/-- An immediate-form scalar operation, its immediate sign-extended (R70, R72). -/
def AluImm (i : SImm → Instr) (f : DWord → DWord → DWord) : Prop :=
  ∀ o : SImm, GivesAtOnce (i o) 1 1 fun s => s.scalar o.d (f (s.me.readS o.a) (BitVec.ofInt 64 o.i.toInt))

/-- A shift by the low six bits of the immediate (R72). -/
def AluShift (i : SShift → Instr) (f : DWord → Nat → DWord) : Prop :=
  ∀ o : SShift, GivesAtOnce (i o) 1 1 fun s => s.scalar o.d (f (s.me.readS o.a) o.i.toNat)

/-- Operation `i` has a result for s[d] of latency 1 of which `good` holds. -/
def GivesScalar (i : Instr) (words : Nat) (d : BitVec 5) (good : State → DWord → Prop) : Prop :=
  ∀ s : State, s.roomFor 1 → ∃ v, good s v ∧ exec i s = .next ((s.issued 1 words).arrive (s.scalar d v))

/-- 1 where a condition holds, else 0. -/
def truth (p : Prop) [Decidable p] : DWord := if p then 1 else 0

/-- The operation has a precise trap: it is taken, and the issue has no other effect (R266). -/
def Traps (i : Instr) (s : State) (slot words : Nat) (t : TrapRecord) : Prop :=
  exec i s = .next ((s.beginSolo slot words).takePrecise t)

/-- The operation cannot go on yet: the core is held, with no effect (R38). -/
def Holds (i : Instr) (s : State) (slot words : Nat) (h : Hold) : Prop :=
  exec i s = .next ((s.beginSolo slot words).updMe fun k => { k with hold := h, holdSince := k.cycleNat, holdAt := s.now })

/-- The operation changes the core by `f` within its issue, before the issue's cycle passes. -/
def Changes (i : Instr) (s : State) (slot words : Nat) (f : Core → Core) : Prop :=
  exec i s = .next (((s.beginSolo slot words).updMe f).commitIssue true 0)

/-- The operation changes the core by `f` within its issue, and the core goes on at `next` (R82). -/
def GoesTo (i : Instr) (s : State) (next : DWord) (f : Core → Core) : Prop :=
  exec i s = .next (((s.beginSolo 0 1).updMe fun k => { f k with nextPc := next }).commitIssue true 0)

/-- The operation only waits: the core is held as the rule says, after an effect `f` of its own. -/
def Waits (i : Instr) (s : State) (slot words : Nat) (f : Core → Core) (h : Hold) : Prop :=
  exec i s = .next ((s.beginSolo slot words).updMe fun k => { f k with hold := h, holdSince := k.cycleNat, holdAt := s.now })

/-- The core runs original code at its program counter (R345). -/
def State.original (s : State) : Prop := s.residualAt s.me s.me.pc = none

/-- The word after a bundle of one word of its own. -/
def State.afterOne (s : State) : DWord := s.me.pc + 8

/-- The target of a direct branch in original code (R81). -/
def State.branchTo (s : State) (o : BitVec 18) : DWord := s.me.pc + BitVec.ofInt 64 (4 * o.toInt)

/-- Bytes of the bench of core `c`. -/
def State.benchByte (s : State) (c : CoreNo) (a : Nat) : Byte := (s.core c).bench.read a

/-- `n` bytes at bench address `a` lie in the bench, and the core owns them (R183, R213). -/
def Core.mayUse (k : Core) (a n : Nat) : Prop :=
  a + n ≤ 0x80000
    ∧ ∀ h ∈ k.handles.toList, h.size ≠ 0 → a < h.base.toNat + h.size.toNat → h.base.toNat < a + n → h.o = 0

/-- No poisoned region lies there (R186). -/
def Core.clean (k : Core) (a n : Nat) : Prop :=
  ∀ h ∈ k.handles.toList, h.size ≠ 0 → a < h.base.toNat + h.size.toNat → h.base.toNat < a + n → h.psn = 0

/-- The little-endian number in `n` bytes from `a` on, as `f` reads them. -/
def leValue (f : Nat → Byte) (a : Nat) : Nat → Nat
  | 0 => 0
  | n + 1 => (f a).toNat + 256 * leValue f (a + 1) n

/-- The little-endian number in `n` bench bytes. -/
def State.benchNat (s : State) (a n : Nat) : Nat := leValue (s.benchByte s.cur) a n

/-- The yard byte at `off` as the running core reads it: the byte it buffered last, else the committed one (R233). -/
def State.yardByte (s : State) (off : Nat) : Byte :=
  match ((s.me.buffer.flatMap (·.bytes)).filter fun w => w.1 = off).getLast? with
  | some w => w.2
  | none => (s.cluster s.myCluster).yard.read off

/-- The loft byte at `off` of the running core's die. -/
def State.loftByte (s : State) (off : Nat) : Byte := (s.die s.myDie).loft.read off

/-- A loaded number of `n` bytes as the register takes it (R78). -/
def loaded (sx : Bool) (n v : Nat) : DWord := if sx then BitVec.ofInt 64 (toSigned (8 * n) v) else BitVec.ofNat 64 v

/-- An access of the running core to a bank of its yard waits `w` cycles: the bank serves one in each of the first `w`, and none then (R214). -/
def State.bankWaits (s : State) (bank w : Nat) : Prop :=
  let us := (s.cluster s.myCluster).bankUses
  (∀ u ∈ us, u.bank = bank → u.cycle ≠ s.me.cycleNat + w) ∧ ∀ j < w, ∃ u ∈ us, u.bank = bank ∧ u.cycle = s.me.cycleNat + j

/-- The running core's access to the banks `banks` of its yard waits `w` cycles in all: each bank serves it once, in the first cycle that is
free, for the core's own side as requester; what the banks have taken for this cycle and later stands (R214). -/
def State.Serves (s : State) (banks : Nat → Prop) (w : Nat) (us : List BankUse) : Prop :=
  let old := (s.cluster s.myCluster).bankUses
  ∃ mine kept : List BankUse, us = mine ++ kept ∧ (∀ u ∈ kept, u ∈ old) ∧ (∀ u ∈ old, s.me.cycleNat ≤ u.cycle → u ∈ kept)
    ∧ (mine.map (·.bank)).Nodup ∧ (∀ b, banks b ↔ ∃ u ∈ mine, u.bank = b) ∧ (∃ u ∈ mine, u.cycle = s.me.cycleNat + w)
    ∧ ∀ u ∈ mine, u.requester = 3 * (s.cur.toNat % 8) ∧ ∃ x ≤ w, u.cycle = s.me.cycleNat + x ∧ s.bankWaits u.bank x

/-- The yard's banks serve `us`. -/
def State.served (s : State) (us : List BankUse) : State := s.updCluster s.myCluster fun y => { y with bankUses := us }

/-- The bank of the loft byte at `off` is being refreshed (R216). -/
def State.refreshing (s : State) (off : Nat) : Bool := s.loftPhase s.myDie / 1000 == off / (6 * 2 ^ 20)

/-- Cycles until the refresh under way ends (R216). -/
def State.refreshCycles (s : State) : Nat :=
  ((1000 - s.loftPhase s.myDie % 1000) * (s.cluster s.myCluster).mhz + 999) / 1000

/-- The running core's errand holds the bay of the loft byte at `off` (R215). -/
def State.holdsBay (s : State) (off : Nat) : Prop := (s.die s.myDie).bays.toList.getD (off / 2 ^ 20) none = some s.me.theLaunch.errand

/-- A load of `n` bytes from bench address `a`: its result is on its way with latency 4 (R65, R78). -/
def LoadsBench (i : Instr) (d : BitVec 5) (n : Nat) (sx : Bool) (ea : State → DWord) : Prop :=
  ∀ s : State, s.roomFor 4 → Mem.wf s.me.bench = true → (ea s).toNat % n = 0 → s.me.mayUse (ea s).toNat n → s.me.clean (ea s).toNat n →
    exec i s = .next ((s.issued 1 1).awaits { s.due 4 (s.scalar d (loaded sx n (s.benchNat (ea s).toNat n))) with load := true })

/-- A load of `n` bytes from the yard: its latency is 12 and what its bank's wait adds (R65, R78, R214, R233). -/
def LoadsYard (i : Instr) (d : BitVec 5) (n : Nat) (sx : Bool) (ea : State → DWord) : Prop :=
  ∀ s : State, s.roomFor (12 + (s.cluster s.myCluster).bankUses.length) → Mem.wf (s.cluster s.myCluster).yard = true →
    (ea s).toNat % n = 0 → 0x10000000 ≤ (ea s).toNat → (ea s).toNat + n ≤ 0x10400000 →
    let off := (ea s).toNat - 0x10000000
    ∃ w us, s.Serves (· = off / 64 % 32) w us ∧ exec i s = .next (((s.issued 1 1).awaits
      { s.due (12 + w) (s.scalar d (loaded sx n (leValue s.yardByte off n))) with load := true }).served us)

/-- A load of `n` bytes from a bay of the loft that the core's errand holds: its latency is 20 and what a refresh of its bank adds, which a
LOFT_LATE event counts (R65, R78, R215, R216). -/
def LoadsLoft (i : Instr) (d : BitVec 5) (n : Nat) (sx : Bool) (ea : State → DWord) : Prop :=
  ∀ s : State, let off := (ea s).toNat - 0x20000000
    let w := if s.refreshing off then s.refreshCycles else 0
    s.roomFor (20 + w) → Mem.wf (s.die s.myDie).loft = true → (ea s).toNat % n = 0 → 0x20000000 ≤ (ea s).toNat →
    (ea s).toNat + n ≤ 0x38000000 → s.holdsBay off →
    exec i s = .next ((s.issued 1 1).awaits { s.due (20 + w) (s.scalar d (loaded sx n (leValue s.loftByte off n))) with
      load := true, events := if w = 0 then [] else [(s.beginSolo 1 1).event 7 1 w 0] })

/-- A store of the low `n` bytes of s[d] at bench address `a`: those bytes change, no other byte and nothing else (R78). -/
def StoresBench (i : Instr) (d : BitVec 5) (n : Nat) (ea : State → DWord) : Prop :=
  ∀ s : State, Mem.wf s.me.bench = true → (ea s).toNat % n = 0 → s.me.mayUse (ea s).toNat n →
    ∃ m : Mem, Mem.wf m = true
      ∧ (∀ b, m.read b = if (ea s).toNat ≤ b ∧ b < (ea s).toNat + n
          then BitVec.ofNat 8 ((s.me.readS d).toNat / 256 ^ (b - (ea s).toNat)) else s.benchByte s.cur b)
      ∧ exec i s = .next ((s.issued 1 1).updMe fun k => { k with bench := m })

/-! ### Vector results -/

/-- Lane `j` of v[r], `eb` bits wide. -/
def State.vLane (s : State) (r : BitVec 5) (eb j : Nat) : Nat := lane s.me.v[r.toNat] eb j

/-- Lane `j` is active under k[p] (R120). -/
def State.active (s : State) (p : BitVec 3) (j : Nat) : Bool := (s.me.readK p).getLsbD j

/-- The lanes of `n` that are active, in order. -/
def State.actives (s : State) (p : BitVec 3) (n : Nat) : List Nat := (List.range n).filter (s.active p)

/-- A vector result of latency `lat`: each active lane of the first `n` takes the first part of `f`, every other lane of vd stays
(R119, R120), and the flags that the active lanes raise arrive with it, with an event for each (R101). Nothing else happens. -/
def LaneResult (i : Instr) (words : Nat) (d : BitVec 5) (p : BitVec 3) (n eb lat : Nat) (f : State → Nat → Nat × Fl) : Prop :=
  ∀ s : State, s.roomFor lat → ∃ (v : VReg) (fl : Fl),
    (∀ j < 1024 / eb, lane v eb j = if j < n ∧ s.active p j = true then (f s j).1 % 2 ^ eb else s.vLane d eb j)
      ∧ (∀ b < 4, fl.getLsbD b = (s.actives p n).any fun j => (f s j).2.getLsbD b)
      ∧ exec i s = .next ((s.issued 2 words).awaits { s.due lat [.v d v] with
          flags := fl, events := (s.beginSolo 2 words).flagEvents 1 ((s.actives p n).map fun j => (f s j).2) })

/-- The integer in lane `j` of v[r] (R94). -/
def State.vInt (s : State) (y : BitVec 3) (r : BitVec 5) (j : Nat) : Int := intValue y.toNat (s.vLane r (elemBits y.toNat) j)

/-- An integer lane result: its low bits, or with SAT the nearest value of the type and the SAT flag where that is another (R124). -/
def intResult (y : BitVec 3) (sat : Bool) (x : Int) : Nat × Fl :=
  let c := if sat then max (intMin y.toNat) (min (intMax y.toNat) x) else x
  ((c % 2 ^ elemBits y.toNat).toNat, if c = x || !sat then Fl.none else Fl.sat)

/-- The value in floating-point lane `j` of v[r], as read under MODE.SUB (R99). -/
def State.vNum (s : State) (f : FloatFmt) (r : BitVec 5) (j : Nat) : FNum := f.read s.me.sub (s.vLane r (f.eb + f.mb + 1) j)

/-- The floating-point types of a T field (R90). -/
def floatType (y : BitVec 3) : Option FloatFmt :=
  if y = 0 then some Fmt.f32 else if y = 1 then some Fmt.bf16 else if y = 2 then some Fmt.f16 else none

/-- An operation on integer lanes. -/
def IntLanes (i : VBin → Instr) (words : Nat) (sat : Bool) (lat : Nat) (r : Int → Int → Int → Int) : Prop :=
  ∀ o : VBin, 3 ≤ o.y.toNat → LaneResult (i o) words o.d o.k (laneCount o.w o.y.toNat) (elemBits o.y.toNat) lat fun s j =>
    intResult o.y sat (r (s.vInt o.y o.a j) (s.vInt o.y o.b j) (s.vInt o.y o.d j))

/-- An operation on floating-point lanes: the exact result `r` of a mode and of a, b and d, rounded once in that mode (R125). -/
def FloatLanes (i : VBin → Instr) (words : Nat) (sat : Bool) (mode : State → Nat) (lat : Nat) (r : Nat → FNum → FNum → FNum → FNum × Fl) : Prop :=
  ∀ (o : VBin) (f : FloatFmt), floatType o.y = some f →
    LaneResult (i o) words o.d o.k (laneCount o.w o.y.toNat) (elemBits o.y.toNat) lat fun s j =>
      let x := r (mode s) (s.vNum f o.a j) (s.vNum f o.b j) (s.vNum f o.d j)
      let c := f.round (mode s) sat s.me.sub x.1
      (c.1, x.2 ||| c.2)

/-- A bitwise operation or a shift (R126). -/
def BitLanes (i : VBin → Instr) (r : Nat → Nat → Nat → Nat) : Prop :=
  ∀ o : VBin, LaneResult (i o) 1 o.d o.k (laneCount o.w o.y.toNat) (elemBits o.y.toNat) 2 fun s j =>
    (r (elemBits o.y.toNat) (s.vLane o.a (elemBits o.y.toNat) j) (s.vLane o.b (elemBits o.y.toNat) j), Fl.none)

/-- The order of lane `j` of v[a] and v[b]; none where an operand is NaN (R127). -/
def State.vOrder (s : State) (y : BitVec 3) (a b : BitVec 5) (j : Nat) : Option Ordering :=
  match floatType y with
  | some f => FNum.cmp (s.vNum f a j) (s.vNum f b j)
  | none => some (compare (s.vInt y a j) (s.vInt y b j))

/-- A compare writes the whole of kd: bit j is the result of an active lane, every other bit is 0 (R127). -/
def Compares (i : VCmp → Instr) (test : Option Ordering → Bool) : Prop :=
  ∀ (o : VCmp) (s : State), s.roomFor 2 → ∃ p : Pred,
    (∀ j < 128, p.getLsbD j = (decide (j < laneCount o.w o.y.toNat) && s.active o.k j && test (s.vOrder o.y o.a o.b j)))
      ∧ exec (i o) s = .next ((s.issued 2 1).awaits (s.due 2 [.k o.d p]))

/-- The bytes of the active lanes of a vector access at addresses `at_` lie in the bench, and the core owns them. -/
def State.lanesUsable (s : State) (p : BitVec 3) (n bytes : Nat) (at_ : Nat → DWord) : Prop :=
  ∀ j < n, s.active p j = true → s.me.mayUse (at_ j).toNat bytes

/-- A vector load from the bench (R132): its result is on its way with latency `lat`. -/
def LoadsLanes (i : Instr) (s : State) (d : BitVec 5) (p : BitVec 3) (n eb lat : Nat) (at_ : Nat → DWord) : Prop :=
  ∃ v : VReg, (∀ j < 1024 / eb, lane v eb j = if j < n ∧ s.active p j = true then s.benchNat (at_ j).toNat (eb / 8) else s.vLane d eb j)
    ∧ exec i s = .next ((s.issued 2 2).awaits { s.due lat [.v d v] with load := true })

/-- The active lanes of `n`, of `bytes` bytes each, lie in the local range from `lo` to `hi`, at least one of them. -/
def State.lanesWithin (s : State) (p : BitVec 3) (n bytes lo hi : Nat) (at_ : Nat → DWord) : Prop :=
  (∃ j < n, s.active p j = true) ∧ ∀ j < n, s.active p j = true → lo ≤ (at_ j).toNat ∧ (at_ j).toNat + bytes ≤ hi

/-- A vector load from the yard: latency 12 and the longest wait at the banks that its lanes touch (R65, R132, R214, R233). -/
def LoadsYardLanes (i : Instr) (s : State) (d : BitVec 5) (p : BitVec 3) (n eb : Nat) (at_ : Nat → DWord) : Prop :=
  let off := fun j => (at_ j).toNat - 0x10000000
  ∃ (v : VReg) (w : Nat) (us : List BankUse),
    (∀ j < 1024 / eb, lane v eb j = if j < n ∧ s.active p j = true then leValue s.yardByte (off j) (eb / 8) else s.vLane d eb j)
      ∧ s.Serves (fun b => ∃ j < n, s.active p j = true ∧ ∃ l < eb / 8, b = (off j + l) / 64 % 32) w us
      ∧ exec i s = .next (((s.issued 2 2).awaits { s.due (12 + w) [.v d v] with load := true }).served us)

/-- A vector load from bays of the loft that the core's errand holds: latency 20 and what a refresh of a bank of its lanes adds (R65, R132, R216). -/
def LoadsLoftLanes (i : Instr) (s : State) (d : BitVec 5) (p : BitVec 3) (n eb : Nat) (at_ : Nat → DWord) : Prop :=
  let off := fun j => (at_ j).toNat - 0x20000000
  let w := if (s.actives p n).any fun j => s.refreshing (off j) then s.refreshCycles else 0
  s.roomFor (20 + w) → ∃ v : VReg,
    (∀ j < 1024 / eb, lane v eb j = if j < n ∧ s.active p j = true then leValue s.loftByte (off j) (eb / 8) else s.vLane d eb j)
      ∧ exec i s = .next ((s.issued 2 2).awaits { s.due (20 + w) [.v d v] with
          load := true, events := if w = 0 then [] else [(s.beginSolo 2 2).event 7 1 w 1] })

/-- The bytes of the active lanes with their yard offsets, in lane order. -/
def State.yardLaneBytes (s : State) (d : BitVec 5) (p : BitVec 3) (n eb : Nat) (at_ : Nat → DWord) : List (Nat × Byte) :=
  (s.actives p n).flatMap fun j => (List.range (eb / 8)).map fun l =>
    ((at_ j).toNat - 0x10000000 + l, BitVec.ofNat 8 (s.vLane d eb j / 256 ^ l))

/-- A vector store to the yard, where the quantum and the buffer have room: its bytes enter the store buffer in lane order, with an entry for
each aligned 8-byte part, and nothing else changes (R132, R228, R233). -/
def StoresYardLanes (i : Instr) (s : State) (d : BitVec 5) (p : BitVec 3) (n eb : Nat) (at_ : Nat → DWord) : Prop :=
  let bs := s.yardLaneBytes d p n eb at_
  let e := ((bs.map fun b => b.1 / 8).eraseDups).length
  s.me.quantumEntries + e ≤ 256 → s.me.usedEntries + e ≤ 256 →
    Changes i s 2 2 fun k => { k with buffer := k.buffer ++ [{ quantum := k.ctl.quantEnd.toNat + 1, entries := e, bytes := bs }] }

/-- A vector store to the bench (R132, R134): where lanes meet the highest-numbered one stays; no other byte and nothing else changes. -/
def StoresLanes (i : Instr) (s : State) (d : BitVec 5) (p : BitVec 3) (n eb : Nat) (at_ : Nat → DWord) : Prop :=
  let hits := fun (j b : Nat) => j < n ∧ s.active p j = true ∧ (at_ j).toNat ≤ b ∧ b < (at_ j).toNat + eb / 8
  ∃ m : Mem, Mem.wf m = true
    ∧ (∀ b, (∀ j, ¬hits j b) → m.read b = s.benchByte s.cur b)
    ∧ (∀ j b, hits j b → (∀ l, j < l → ¬hits l b) →
        m.read b = BitVec.ofNat 8 (s.vLane d eb j / 256 ^ (b - (at_ j).toNat)))
    ∧ exec i s = .next ((s.issued 2 2).updMe fun k => { k with bench := m })

/-! ### Engines -/

/-- The matrix engine of core `c` changes by `f`, and nothing else. -/
def State.onMatrix (s : State) (c : CoreNo) (f : Matrix → Matrix) : State :=
  s.updCore c fun k => { k with matrix := f k.matrix }

/-- No record of class `cls` has found the ring full, for which its engine would wait (R269). -/
def Core.ringClear (k : Core) (cls : Nat) : Prop := k.ringHeld.getLsbD cls = false ∨ ∀ t ∈ k.records, t.cls.toNat ≠ cls

/-- Core `c`'s matrix engine is free to start `o`, the oldest operation of its queue (R153, R249). -/
structure State.MayStart (s : State) (c : CoreNo) (o : MatOp) (rest : List MatOp) : Prop where
  queue : (s.core c).matrix.queue = o :: rest
  running : (s.core c).matrix.running = none
  fault : (s.core c).matrix.fault = none
  open_ : (s.core c).matrix.closed = false
  reload : (s.core c).matrix.reloading = false
  earlier : isRuleOp o.instr = true → (s.core c).matrix.fetches = [] ∧ (∀ e : Fin 4, (s.core c).matrix.latches[e].loading = false)
    ∧ ∀ w ∈ s.hub.egress, w.core = c → w.eng ≠ 2
  latch : ∀ bt (e : BitVec 2) b v kk f, o.instr = .mlatch bt e b v kk f → (s.core c).matrix.latches[e.toNat].loading = false
  ring : (s.core c).ringClear 1

/-- Core `c`'s matrix engine runs `o`, and may go on with it. -/
structure State.Runs (s : State) (c : CoreNo) (o : MatOp) (r : Option Routine) : Prop where
  running : (s.core c).matrix.running = some o
  routine : (s.core c).matrix.routine = r
  fault : (s.core c).matrix.fault = none
  open_ : (s.core c).matrix.closed = false
  ring : (s.core c).ringClear 1

/-- A legal tile address (R145): tile `t`, which is no tile of the grid (R241). -/
def Matrix.names (m : Matrix) (a : DWord) (t : Nat) : Prop := a.toNat = t * 0x10000 ∧ t < 8 ∧ m.gridTiles.getLsbD t = false

/-- Element (row, col) of tile `t`, an FP32 pattern (R146). -/
def Matrix.elem (m : Matrix) (t row col : Nat) : Nat := m.acc.num (t * 0x10000 + row * 512 + col * 4) 4

/-- A micro-op of the routine that runs on the current core: the routine goes on as `r'`, in a state that is otherwise `t`. -/
def MicroGoes (i : Instr) (s t : State) (r' : Routine) : Prop :=
  exec i s = .next (t.onMatrix s.cur fun m => { m with routine := some r' })

/-- A micro-op that the array cannot run stops the operation with a MICROCODE trap record of class 1 (R167). -/
def MicroFaults (i : Instr) (s : State) (o : MatOp) (r : Routine) : Prop :=
  exec i s = .next ((s.onMatrix s.cur fun m => { m with routine := some r }).matrixFault s.cur o
    (some (r.rout, BitVec.ofNat 11 r.idx)) { cause := 0x0D })

/-- The handle that an operation's g and h name, which it may take at once as a destination (R184, R188). -/
def Core.mayFill (k : Core) (g : BitVec 1) (h x : BitVec 6) : Prop :=
  (k.handle x).st = 0 ∧ (k.handle x).o = 1
    ∧ if g = 1 then ∃ r, k.ring h.toNat = some r ∧ r.out = false ∧ x = BitVec.ofNat 6 (r.f.toNat + r.p.toNat)
      else x = h ∧ (k.handle x).size ≠ 0 ∧ (k.handle x).ring = none

/-- The same as a source. -/
def Core.mayDrain (k : Core) (g : BitVec 1) (h x : BitVec 6) : Prop :=
  if g = 1 then (k.handle x).st = 2 ∧ (k.handle x).o = 1
      ∧ ∃ r, k.ring h.toNat = some r ∧ r.out = true ∧ x = BitVec.ofNat 6 (r.f.toNat + r.c.toNat)
    else x = h ∧ (k.handle x).size ≠ 0 ∧ (k.handle x).ring = none
      ∧ ((k.handle x).st = 2 ∨ ((k.handle x).st = 0 ∧ (k.handle x).o = 0))

/-- A ring's producer or consumer pointer moves on by one, back to 0 at its end (R187). -/
def Core.bumpRing (k : Core) (n : Nat) (producer : Bool) : Core :=
  k.setRing n ((k.ring n).map fun r =>
    if producer then { r with p := if r.p.toNat + 1 < r.l.toNat then r.p + 1 else 0 }
    else { r with c := if r.c.toNat + 1 < r.l.toNat then r.c + 1 else 0 })

/-- Command `m` enters engine C0's queue: its handle `x` is FILLING or DRAINING with O = 1 and its counts at 0, and the ring it took
the handle from moves on (R182, R185, R188, R189). -/
def Core.takes (k : Core) (m : CopyCmd) (g : BitVec 1) (h x : BitVec 6) : Core :=
  let k := { k with c0 := { k.c0 with queue := k.c0.queue ++ [m], accepted := k.c0.accepted + 1 } }
  let k := k.updHandle x fun y => { y with st := if m.inbound then 1 else 3, o := 1, landed := 0, rd := 0, err := 0 }
  if g = 1 then k.bumpRing h.toNat m.inbound else k

/-! ### Errands -/

/-- The sequencer of `h`'s errand comes to step `i`, and no barrier holds it (R324 to R326). -/
structure State.AtStep (s : State) (h : StepHead) (i : Instr) : Prop where
  state : (s.errand h.errand).state = .running
  reason : (s.errand h.errand).reason = .none
  saving : (s.errand h.errand).saving = none
  kill : (s.errand h.errand).killPending = false
  fetchFault : (s.errand h.errand).fetchFault = none
  waitFault : (s.errand h.errand).waitFault = none
  waitStep : (s.errand h.errand).waitStep = none
  next : (s.errand h.errand).next < 2 ^ 20
  launch : ∀ x ∈ (s.errand h.errand).inflight, isLaunch x.instr = false
  bar : (h.bar = 1 ∨ (∃ k, i = .joinpt k) ∨ ∃ k, i = .endStep k) → (s.errand h.errand).inflight = []
  loft : isLaunch i = true → ∀ x ∈ (s.errand h.errand).inflight, isLoft x.instr = false

/-- The step has been read: NEXT is one further (R322). -/
def State.fetched (s : State) (r : RecNo) : State := s.updErrand r fun e => { e with next := e.next + 1 }

/-- The step has started, and is in flight as `x`. -/
def State.flying (s : State) (r : RecNo) (x : StepInFlight) : State :=
  s.updErrand r fun e => { e with next := e.next + 1, inflight := e.inflight ++ [x] }

/-- Step `i` as it enters flight. -/
def State.inFlight (s : State) (r : RecNo) (i : Instr) : StepInFlight :=
  { index := (s.errand r).next, no := (s.errand r).newNo, instr := i, started := true }

/-- A port write through the active port, whose lease runs, to a hub that is up (R318, R334). -/
structure State.Hears (s : State) (p : Port) : Prop where
  ready : s.hub.ready = true
  active : s.hub.active = some p
  lease : s.now < s.hub.leaseEnd

/-- Such a port write with the errand's token, for an errand that stands at no WAIT (R319, R326). -/
structure State.Obeys (s : State) (p : PortWrite) : Prop where
  hears : s.Hears p.port
  token : (s.errand p.errand).token = p.token
  started : (s.errand p.errand).state ≠ .idle
  waitStep : (s.errand p.errand).waitStep = none

/-- The port operation has status `v`, the caller's CPU is the errand's home, and the errand changes by `f`, the rest by `g` (R319, R320). -/
def Port.Does (i : Instr) (s : State) (p : PortWrite) (v : BitVec 8) (f : Errand → Errand) (g : State → State) : Prop :=
  exec i s = .next (g (s.updErrand p.errand fun e =>
    let e := f { e with home := p.cpu }
    if p.port = .a then { e with pstatA := v } else { e with pstatB := v }))

/-- The errand has no crew, and no launch of any errand waits for one. -/
structure State.Quiet (s : State) (r : RecNo) : Prop where
  crew : ∀ w ∈ s.hub.crews, w.errand ≠ r
  waiting : s.hub.waiting = []
  cut : (s.errand r).cutAsked = none
  saving : (s.errand r).saving = none
  join : (s.errand r).join = none

/-- A write to BAR 0 through the active port does `f` (R224). -/
def Bar0Does (i : Instr) (p : Port) (f : State → State) : Prop := ∀ s : State, s.Hears p → exec i s = .next (f s)

/-! ### Calls -/

/-- Call `c`, the first at the wicket, asks for `i` of its clerk (none: its OP has no meaning), which is idle, and its key is new (R363,
R365). -/
structure State.Asks (s : State) (i : Option Instr) (c : Call) (rest : List Call) : Prop where
  wicket : s.hub.wicket = c :: rest
  calls : s.hub.calls = []
  asks : c.asks = i
  fresh : c.running = false ∧ c.fault = none ∧ c.answer = none ∧ c.lost = false
  clerk : s.hub.clerkOpen c.cap = true
  key : (s.errand c.errand).entry c.cap c.callno = none
  room : (s.errand c.errand).journal.length < 2 ^ 20

/-- Such a call whose core runs, so that its reply lands (R364). -/
structure State.Calls (s : State) (i : Option Instr) (c : Call) (rest : List Call) : Prop extends State.Asks s i c rest where
  crew : (s.crewOfErrand c.errand).isSome = true
  core : (s.core c.core).status ≠ .contained

/-- The 64 bytes of a reply (R362). -/
def replyOf (callno : DWord) (status errc : Nat) (rs : List Nat) : BitVec 512 :=
  BitVec.ofNat 512 (callno.toNat + 2 ^ 64 * (status + 256 * errc)
    + (rs.zipIdx.map fun r => 2 ^ (128 + 64 * r.2) * (r.1 % 2 ^ 64)).sum)

/-- The call has ended with `w`: it is DONE in the journal, with the choice its effect has made, and its reply has filled the reply handle
(R364, R365). -/
def State.replied (s : State) (c : Call) (rest : List Call) (choice : Option Nat) (w : BitVec 512) : State :=
  let s := s.updHub fun h => { h with wicket := rest }
  let s := s.updErrand c.errand fun e =>
    { e with journal := { cap := c.cap, callno := c.callno, state := .done w, choice := choice }
        :: e.journal.filter fun j => ¬(j.cap = c.cap ∧ j.callno = c.callno) }
  s.updCore c.core fun k => ({ k with bench := k.bench.write (k.handle c.reply).base.toNat (leBytes 64 w.toNat) } : Core).updHandle c.reply
    fun h => Handle.filled { h with landed := 64, rd := 0, psn := 0, abort := false }

/-! ### Cores that may go on -/

/-- Core `c` may issue (R32, R38): it runs, and nothing but its hold keeps it. -/
structure State.Free (s : State) (c : CoreNo) : Prop where
  status : (s.core c).status = .running
  restart : (s.core c).restart = none
  fetchFault : (s.core c).fetchFault = none
  records : (s.core c).ringClear 0
  pending : (s.core c).pendingA = []
  reload : (s.core c).matrix.reloading = true → (s.core c).matrix.fault ≠ none
  cut : (s.core c).cut.stopped = false
  save : ∀ w ∈ s.hub.crews, w.stopping = false

/-- Word `i` from core `c`'s program counter on: from its instruction cache, else from memory that may be executed (R11, R49). -/
def State.codeAt (s : State) (c : CoreNo) (i : Nat) : Access Nat := s.codeWord (some (clusterOf c)) (s.core c) (s.core c).pc i

/-- Core `c` comes to a bundle at its program counter that holds one slot word `w`, with extension word `x`, and nothing else: no result on
its way, no record of a sticky engine, held as `hd` (R22, R26, R32). -/
structure State.AtBundle (s : State) (c : CoreNo) (sl : Slot) (w : Nat) (x : Option Nat) (hd : Hold) : Prop extends State.Free s c where
  hold : (s.core c).hold = hd
  pend : (s.core c).pend = []
  issue : (s.core c).issue = 0
  stop : (s.core c).stop = false
  restarted : (s.core c).restarted = false
  returned : (s.core c).returned = false
  turn : (s.core c).notBefore ≤ (s.core c).cycleNat
  sticky : (s.core c).sticky = {}
  room : (s.core c).pc.toNat + 12 < 2 ^ 57
  original : s.residualAt (s.core c) (s.core c).pc = none
  header : s.codeAt c 0 = .ok (2 ^ sl.index)
  word : s.codeAt c 1 = .ok w
  ext : (x = none ∧ w < 2 ^ 31) ∨ ∃ y, x = some y ∧ 2 ^ 31 ≤ w ∧ w < 2 ^ 32 ∧ y < 2 ^ 32 ∧ s.codeAt c 2 = .ok y

/-- Fetch finds all that core `c` needs in its caches: it changes nothing and costs no cycle (R11, R69, R223). -/
def State.Resident (s : State) (c : CoreNo) : Prop :=
  let t := { s with cur := c }
  t.afterFetch t.fetch = t

/-- Core `c` comes to such a bundle, which its caches hold. -/
structure State.AtCached (s : State) (c : CoreNo) (sl : Slot) (w : Nat) (x : Option Nat) (hd : Hold) : Prop extends State.AtBundle s c sl w x hd where
  resident : s.Resident c

/-- `k'` is core `k` as it enters its trap handler with record `t`: the record is queued for the ring and written to the trap buffer, the
context is saved, the sticky engines are idle, and issue goes on at TRAPVEC's entry (R272). -/
def Core.Entered (k k' : Core) (t : TrapRecord) (precise : Bool) (ret next : DWord) : Prop :=
  let vec := k.ctl.trapvec.toNat
  let buf := vec / 2 ^ 57 * 4096
  ∃ x : HandlerCtx, k'.trapCtx = some x ∧ x.precise = precise ∧ x.ret = ret ∧ x.next = next ∧ x.retIssue = (if precise then k.issue else 0)
    ∧ x.stickies = k.sticky ∧ x.snapshot = k.snapshot ∧ x.stop = k.stop ∧ x.restarted = k.restarted
    ∧ x.arrived = (if precise then none else k.arrived) ∧ x.released = (k.released && !precise)
    ∧ k'.released = false ∧ k'.arrived = none ∧ k'.restarted = false ∧ k'.returned = false
    ∧ k'.pc = BitVec.ofNat 64 (vec / 16 % 2 ^ 53 * 16) ∧ k'.issue = 0 ∧ k'.sticky = {} ∧ k'.stop = false ∧ k'.hold = .none
    ∧ k'.snapshot = { pc := k'.pc } ∧ k'.records = k.records ++ [t] ∧ k'.inForce.mode = k.ctl.mode
    ∧ (∀ b, k'.bench.read b = if buf ≤ b ∧ b < buf + 64 then t.bytes.getD (b - buf) 0 else k.bench.read b)
    ∧ k'.s = k.s ∧ k'.b = k.b ∧ k'.q = k.q ∧ k'.n = k.n ∧ k'.v = k.v ∧ k'.k = k.k ∧ k'.m = k.m ∧ k'.arr = k.arr ∧ k'.ctl = k.ctl
    ∧ k'.handles = k.handles ∧ k'.rings = k.rings ∧ k'.buffer = k.buffer ∧ k'.matrix = k.matrix ∧ k'.status = k.status

/-- A trap can be delivered to core `k` (R272). -/
def Core.CanEnter (k : Core) : Prop :=
  k.ctl.trapvec.toNat / 16 % 2 ^ 53 ≠ 0 ∧ k.trapCtx = none ∧ k.arrCtx = none ∧ k.mayUse (k.ctl.trapvec.toNat / 2 ^ 57 * 4096) 64

/-- Only core `c` differs. -/
def State.OnlyCore (s t : State) (c : CoreNo) : Prop :=
  (∀ d, d ≠ c → t.core d = s.core d) ∧ t.clusters = s.clusters ∧ t.dies = s.dies ∧ t.hub = s.hub ∧ t.hbm = s.hbm ∧ t.host = s.host

end Sys2Proof.Machine
end

