-- ==== Sys2Proof/Certificates/Slice0/Obligations.lean ====
section
/-! DEFINITION. What is to be proved of the machine. Each statement's docstring names the rules it formalises. `s.issued slot words` is
the state after an issue whose slot does nothing, so that an equation with it says the whole of what an instruction changes. -/

open Sys2Proof Sys2Proof.Machine

/-! ### The scalar slot -/

/-- R72, R65: the register-form integer operations of latency 1, with b read from the file that SBF names (R71). R70, R72, R76: the
immediate-form operations, and LI with a 12-bit or 32-bit immediate. -/
def Obligations.ScalarIntegerResults : Prop :=
  (AluReg .add (fun a b => BitVec.ofNat 64 (a.toNat + b.toNat))
     ∧ AluReg .sub (fun a b => BitVec.ofInt 64 ((a.toNat : Int) - b.toNat))
     ∧ AluReg .and (fun a b => a &&& b) ∧ AluReg .or (fun a b => a ||| b) ∧ AluReg .xor (fun a b => a ^^^ b)
     ∧ AluReg .andn (fun a b => a &&& ~~~b)
     ∧ AluReg .shl (fun a b => BitVec.ofNat 64 (a.toNat * 2 ^ (b.toNat % 64)))
     ∧ AluReg .shr (fun a b => BitVec.ofNat 64 (a.toNat / 2 ^ (b.toNat % 64)))
     ∧ AluReg .sar (fun a b => BitVec.ofInt 64 (a.toInt / 2 ^ (b.toNat % 64)))
     ∧ AluReg .ror (fun a b => a.rotateRight (b.toNat % 64))
     ∧ AluReg .ceq (fun a b => truth (a = b)) ∧ AluReg .cne (fun a b => truth (a ≠ b))
     ∧ AluReg .clt (fun a b => truth (a.toInt < b.toInt)) ∧ AluReg .cltn (fun a b => truth (a.toNat < b.toNat))
     ∧ AluReg .cle (fun a b => truth (a.toInt ≤ b.toInt)) ∧ AluReg .clen (fun a b => truth (a.toNat ≤ b.toNat))
     ∧ AluReg .min (fun a b => if a.toInt ≤ b.toInt then a else b) ∧ AluReg .max (fun a b => if a.toInt ≤ b.toInt then b else a)
     ∧ AluReg .minn (fun a b => if a.toNat ≤ b.toNat then a else b) ∧ AluReg .maxn (fun a b => if a.toNat ≤ b.toNat then b else a))
  ∧ (AluImm .addi (fun a b => BitVec.ofInt 64 ((a.toNat : Int) + b.toInt))
       ∧ AluImm .andi (fun a b => a &&& b) ∧ AluImm .ori (fun a b => a ||| b) ∧ AluImm .xori (fun a b => a ^^^ b)
       ∧ AluImm .ceqi (fun a b => truth (a = b)) ∧ AluImm .clti (fun a b => truth (a.toInt < b.toInt))
       ∧ AluShift .shli (fun a n => BitVec.ofNat 64 (a.toNat * 2 ^ n)) ∧ AluShift .shri (fun a n => BitVec.ofNat 64 (a.toNat / 2 ^ n))
       ∧ AluShift .sari (fun a n => BitVec.ofInt 64 (a.toInt / 2 ^ n)) ∧ AluShift .rori (fun a n => a.rotateRight n)
       ∧ (∀ bt d v, GivesAtOnce (.li bt d v) 1 1 fun s => s.scalar d (BitVec.ofInt 64 v.toInt))
       ∧ (∀ bt d x, GivesAtOnce (.liExt bt d x) 1 2 fun s => s.scalar d (BitVec.ofInt 64 x.toInt)))

/-- R65, R72, R73: products have latency 3, quotients and remainders latency 20; division by zero and −2^63 by −1 have results. -/
def Obligations.ScalarProductsAndQuotients : Prop :=
  AluRegLater .mul 3 (fun a b => BitVec.ofNat 64 (a.toNat * b.toNat))
    ∧ AluRegLater .mulhs 3 (fun a b => BitVec.ofInt 64 (a.toInt * b.toInt / 2 ^ 64))
    ∧ AluRegLater .mulhn 3 (fun a b => BitVec.ofNat 64 (a.toNat * b.toNat / 2 ^ 64))
    ∧ AluRegLater .divs 20 (fun a b => if b = 0 then BitVec.ofInt 64 (-1) else BitVec.ofInt 64 (a.toInt.tdiv b.toInt))
    ∧ AluRegLater .divn 20 (fun a b => if b = 0 then BitVec.ofNat 64 (2 ^ 64 - 1) else BitVec.ofNat 64 (a.toNat / b.toNat))
    ∧ AluRegLater .rems 20 (fun a b => if b = 0 then a else BitVec.ofInt 64 (a.toInt.tmod b.toInt))
    ∧ AluRegLater .remn 20 (fun a b => if b = 0 then a else BitVec.ofNat 64 (a.toNat % b.toNat))

/-- R72, R74: counts of bits, and bit fields bit by bit; a bit past bit 63 reads as zero. -/
def Obligations.ScalarBitResults : Prop :=
  (∀ o : SUnary, GivesScalar (.clz o) 1 o.d fun s v => ∃ n ≤ 64, v = BitVec.ofNat 64 n
      ∧ (∀ j < n, (s.me.readS o.a).getLsbD (63 - j) = false) ∧ (n < 64 → (s.me.readS o.a).getLsbD (63 - n) = true))
    ∧ (∀ o : SUnary, GivesScalar (.ctz o) 1 o.d fun s v => ∃ n ≤ 64, v = BitVec.ofNat 64 n
      ∧ (∀ j < n, (s.me.readS o.a).getLsbD j = false) ∧ (n < 64 → (s.me.readS o.a).getLsbD n = true))
    ∧ (∀ o : SUnary, GivesScalar (.popc o) 1 o.d fun s v =>
      v = BitVec.ofNat 64 ((List.range 64).countP fun j => (s.me.readS o.a).getLsbD j))
    ∧ (∀ o : SField, GivesScalar (.bfx o) 1 o.d fun s v => ∀ j < 64,
      v.getLsbD j = (decide (j < o.l.toNat) && (s.me.readS o.a).getLsbD (o.p.toNat + j)))
    ∧ (∀ o : SField, GivesScalar (.bfxs o) 1 o.d fun s v => ∀ j < 64,
      v.getLsbD j = (decide (o.l.toNat ≠ 0) && (s.me.readS o.a).getLsbD (o.p.toNat + min j (o.l.toNat - 1))))
    ∧ (∀ o : SField, GivesScalar (.bfi o) 1 o.d fun s v => ∀ j < 64,
      v.getLsbD j = if o.p.toNat ≤ j ∧ j < o.p.toNat + o.l.toNat then (s.me.readS o.a).getLsbD (j - o.p.toNat)
        else (s.me.readS o.d).getLsbD j)
    ∧ (∀ bt d a b x, GivesScalar (.bfxv bt d a b x) 1 d fun s v =>
      let p := (s.me.readS b).toNat % 64
      let l := min ((s.me.readS b).toNat / 256 % 128) 64
      ∀ j < 64, v.getLsbD j = if x = 1 then (decide (l ≠ 0) && (s.me.readS a).getLsbD (p + min j (l - 1)))
        else (decide (j < l) && (s.me.readS a).getLsbD (p + j)))

/-- What the control registers read as (R6, R9, R61, R64, R146, R206, R216, R248, R271, R289, R297 to R299): every one that the table of R61
gives but the three that speak of specialised code (BADDR, SPEC and ORIGADDR), and 0 at a number that is unassigned. -/
def controlValue (s : State) (n : Nat) : Option DWord :=
  let k := s.me
  let l := k.theLaunch
  let y := s.cluster s.myCluster
  let z := s.die s.myDie
  let num := fun (x : Nat) => some (BitVec.ofNat 64 x)
  let bit := fun (b : Bool) (j : Nat) => if b then 2 ^ j else 0
  match n with
  | 0x00 => some k.ctl.cycle
  | 0x02 => num (l.rank * 8 + s.cur.toNat % 8)
  | 0x03 => num l.rank
  | 0x04 => num (l.sy.toNat * 2 ^ 16 + l.sx.toNat * 2 ^ 8 + l.size)
  | 0x05 => num l.errand.toNat
  | 0x06 => num k.ctl.mode.toNat
  | 0x07 => some k.ctl.trapvec
  | 0x08 => some l.trapring
  | 0x09 => some k.ctl.statcfg
  | 0x0A => some k.ctl.statwin
  | 0x0B => some k.ctl.statthr[0] | 0x0C => some k.ctl.statthr[1] | 0x0D => some k.ctl.statthr[2] | 0x0E => some k.ctl.statthr[3]
  | 0x0F => some k.ctl.statthr[4]
  | 0x10 => num k.ctl.fb.toNat
  | 0x11 => num k.ctl.flev.toNat
  | 0x12 => num k.ctl.rowp.toNat
  | 0x13 => num (k.ctl.hlw.toNat * 2 ^ 44 + k.ctl.hle.toNat * 2 ^ 40 + k.ctl.hls.toNat * 2 ^ 36 + k.ctl.hln.toNat * 2 ^ 32 + k.ctl.genCount.toNat)
  | 0x14 => num (bit z.refreeze 15 + bit (decide (850 ≤ z.melt.toNat) || z.refreeze) 14 + s.myDie.toNat * 2 ^ 12 + z.melt.toNat)
  | 0x15 => num (bit k.ctl.rev 25 + k.ctl.xcnt.toNat * 2 ^ 16 + match y.lease with
      | some x => if s.now < x.ends then x.level.toNat * 2 ^ 12 + (x.ends - s.now + 999) / 1000 else 0
      | none => 0)
  | 0x16 => num ((y.pressure.toNat - (s.now - y.pressureAt) / 10000) * 2 ^ 14 + bit y.throttled 13 + y.mhz)
  | 0x17 => num k.ctl.rnd.toNat
  | 0x18 => num (y.committed % 2 ^ 32 * 2 ^ 32 + k.ctl.quantEnd.toNat)
  | 0x19 => num (s.loftPhase s.myDie / 1000 * 2 ^ 16 + s.loftPhase s.myDie)
  | 0x1A => num (((List.range 8).countP fun j => k.matrix.live.getLsbD j) * 2 ^ 8 + k.matrix.live.toNat)
  | 0x1B => num k.ctl.bound.toNat
  | 0x1C =>
    let waiting := (List.range 64).filter fun j => (k.handle (BitVec.ofNat 6 j)).arrival
    num (bit k.arrCtx.isSome 15 + bit (!waiting.isEmpty) 14
      + (if k.arrCtx.isSome then k.ctl.arrHnd.toNat else waiting.head?.getD 0) * 2 ^ 8 + k.ctl.arrCnt.toNat)
  | 0x1D => num k.ctl.flags.toNat
  | 0x01 | 0x1E | 0x1F => none
  | _ => some 0

/-- R75, R76, R77, R80: SEL, LIH, ADDR, GETG, and GETR of each control register: the value `controlValue` gives, as it stands at the issue, and
BADDR, SPEC and ORIGADDR as the state holds them. R80: SETN, SETB and SETQ write the one register they name. -/
def Obligations.ScalarMovesAndSets : Prop :=
  ((∀ bt d a b q, GivesAtOnce (.sel bt d a b q) 1 1 fun s =>
       s.scalar d (if s.me.q[q.toNat] = 1 then s.me.readS a else s.me.readS b))
     ∧ (∀ bt d a x, GivesAtOnce (.lih bt d a x) 1 2 fun s =>
       s.scalar d (BitVec.ofNat 64 (x.toNat * 2 ^ 32 + (s.me.readS a).toNat % 2 ^ 32)))
     ∧ (∀ bt d a b k r, GivesAtOnce (.addr bt d a b k r) 1 1 fun s =>
       s.scalar d (BitVec.ofNat 64 ((s.me.b[r.toNat]).toNat + (s.me.readS a).toNat + (s.me.readS b).toNat * 2 ^ k.toNat)))
     ∧ (∀ bt d n, GivesAtOnce (.getg bt d n) 1 1 fun s => s.scalar d (BitVec.ofNat 64 (s.me.g[n.toNat]).toNat))
     ∧ (∀ bt d n, GivesAtOnce (.getr bt d n) 1 1 fun s => s.scalar d ((s.beginSolo 1 1).readCtl n.toNat))
     ∧ (∀ bt d (n : BitVec 6) (s : State) (v : DWord), controlValue s n.toNat = some v → s.roomFor 1 →
       exec (.getr bt d n) s = .next ((s.issued 1 1).arrive (s.scalar d v)))
     ∧ (∀ bt d (s : State), s.me.pc.toNat < 2 ^ 57 → s.roomFor 1 →
       exec (.getr bt d 0x01) s = .next ((s.issued 1 1).arrive (s.scalar d s.me.pc))
         ∧ exec (.getr bt d 0x1F) s = .next ((s.issued 1 1).arrive (s.scalar d s.me.pc))))
  ∧ ((∀ bt n a, GivesAtOnce (.setn bt n a) 1 1 fun s => [.n (n.setWidth 3) ((s.me.readS a).setWidth 32)])
       ∧ (∀ bt n a, GivesAtOnce (.setb bt n a) 1 1 fun s => [.b (n.setWidth 3) ((s.me.readS a).setWidth 32)])
       ∧ (∀ bt n a, GivesAtOnce (.setq bt n a) 1 1 fun s => [.q (n.setWidth 3) ((s.me.readS a).setWidth 1)]))

/-- R65, R78: LDS and LDSX from the own bench, zero- or sign-extended, where the core owns the bytes and none is poisoned; from the yard, with
the wait at a bank that serves other accesses (R214); and from a held bay of the loft, with the wait for a refresh (R215, R216). R78, R183: STS
and STSX to the own bench, and the frame of each: every other byte of the bench and everything else is as after an issue that does
nothing. Who is served first of those that ask a yard bank in one cycle is the model's choice (log 53): here, those that have asked already. -/
def Obligations.ScalarBenchAccesses : Prop :=
  ((∀ o : SImm, let ea := fun (s : State) => s.me.readS o.a + BitVec.ofInt 64 o.i.toInt
       LoadsBench (.lds o) o.d 8 false ea ∧ LoadsYard (.lds o) o.d 8 false ea ∧ LoadsLoft (.lds o) o.d 8 false ea)
     ∧ (∀ bt d a b k x z, let ea := fun (s : State) => s.me.readS a + s.me.readS b <<< k.toNat
       LoadsBench (.ldsx bt d a b k x z) d (2 ^ z.toNat) (x == 1) ea ∧ LoadsYard (.ldsx bt d a b k x z) d (2 ^ z.toNat) (x == 1) ea
         ∧ LoadsLoft (.ldsx bt d a b k x z) d (2 ^ z.toNat) (x == 1) ea))
  ∧ ((∀ o : SImm, StoresBench (.sts o) o.d 8 fun s => s.me.readS o.a + BitVec.ofInt 64 o.i.toInt)
       ∧ (∀ bt d a b k z, StoresBench (.stsx bt d a b k z) d (2 ^ z.toNat) fun s => s.me.readS a + s.me.readS b <<< k.toNat))

/-- The effective address and size of a scalar memory operation, and whether it stores (R78). -/
def scalarAccess (s : State) : Instr → Option (DWord × Nat × Bool)
  | .lds o => some (s.me.readS o.a + BitVec.ofInt 64 o.i.toInt, 8, false)
  | .sts o => some (s.me.readS o.a + BitVec.ofInt 64 o.i.toInt, 8, true)
  | .ldsx _ _ a b k _ z => some (s.me.readS a + s.me.readS b <<< k.toNat, 2 ^ z.toNat, false)
  | .stsx _ _ a b k z => some (s.me.readS a + s.me.readS b <<< k.toNat, 2 ^ z.toNat, true)
  | _ => none

/-- R79, R213, R215: a scalar access that is misaligned, outside the local map, to a bench region the core does not own, or a store to
the loft takes a precise trap, and its issue has no other effect. -/
def Obligations.ScalarAccessTraps : Prop :=
  ∀ (i : Instr) (s : State) (ea : DWord) (n : Nat) (store : Bool), scalarAccess s i = some (ea, n, store) →
    let a := ea.toNat
    let trapsWith := fun (cause : BitVec 5) => ∃ t : TrapRecord, t.cause = cause ∧ t.cls = 0 ∧ t.unit = s.cur ∧ t.av = true ∧ t.loc = true
      ∧ t.faddr = ea.setWidth 57 ∧ Traps i s 1 1 t
    (a % n ≠ 0 → trapsWith 0x07)
      ∧ (a % n = 0 → ¬(a + n ≤ 0x80000) → ¬(0x10000000 ≤ a ∧ a + n ≤ 0x10400000) → ¬(0x20000000 ≤ a ∧ a + n ≤ 0x38000000) → trapsWith 0x05)
      ∧ (a % n = 0 → a + n ≤ 0x80000 → ¬s.me.mayUse a n → trapsWith 0x06)
      ∧ (a % n = 0 → 0x20000000 ≤ a → a + n ≤ 0x38000000 → store = true → trapsWith 0x11)

/-- R228, R233: a yard store of at most one entry, where the quantum and the buffer have room, enters the store buffer at the end of
program order, and the yard itself does not change. -/
def Obligations.ScalarYardStores : Prop :=
  ∀ (i : Instr) (s : State) (ea : DWord) (n : Nat) (d : BitVec 5),
    scalarAccess s i = some (ea, n, true) →
    (match i with | .sts o => o.d = d | .stsx _ e _ _ _ _ => e = d | _ => False) →
    ea.toNat % n = 0 → 0x10000000 ≤ ea.toNat → ea.toNat + n ≤ 0x10400000 →
    s.me.quantumEntries + 1 ≤ 256 → s.me.usedEntries + 1 ≤ 256 →
    Changes i s 1 1 fun k => { k with buffer := k.buffer ++ [{
      quantum := k.ctl.quantEnd.toNat + 1, entries := 1
      bytes := (List.range n).map fun j => (ea.toNat - 0x10000000 + j, BitVec.ofNat 8 ((s.me.readS d).toNat / 256 ^ j)) }] }

/-- R80, R185: GETH reads the status word of a handle that was declared, field by field and whole, with latency 1, and traps at one that was
not. -/
def Obligations.HandleStatusReads : Prop :=
  ∀ (bt : BitVec 2) (d : BitVec 5) (n : BitVec 6),
    (∀ s : State, (s.me.handle n).size ≠ 0 → s.roomFor 1 → ∃ v : DWord,
      exec (.geth bt d n) s = .next ((s.issued 1 1).arrive (s.scalar d v))
        ∧ v.toNat / 2 ^ 44 % 2 ^ 20 = (s.me.handle n).landed.toNat ∧ v.toNat / 2 ^ 24 % 2 ^ 20 = (s.me.handle n).rd.toNat
        ∧ v.toNat / 2 ^ 20 % 2 ^ 4 = (s.me.handle n).err.toNat ∧ v.getLsbD 19 = (s.me.handle n).arm
        ∧ v.getLsbD 18 = ((s.me.handle n).psn == 1) ∧ v.getLsbD 17 = ((s.me.handle n).o == 1)
        ∧ v.toNat / 2 ^ 15 % 4 = (s.me.handle n).st.toNat ∧ v.getLsbD 14 = (s.me.handle n).ring.isSome)
      ∧ (∀ s : State, (s.me.handle n).size ≠ 0 →
        let h := s.me.handle n
        let bit := fun (b : Bool) (j : Nat) => if b then 2 ^ j else 0
        let word := BitVec.ofNat 64 (h.landed.toNat * 2 ^ 44 + h.rd.toNat * 2 ^ 24 + h.err.toNat * 2 ^ 20 + bit h.arm 19 + bit (h.psn == 1) 18
          + bit (h.o == 1) 17 + h.st.toNat * 2 ^ 15 + bit h.ring.isSome 14 + (match h.ring with | some r => r.toNat | none => 0) * 2 ^ 11)
        Changes (.geth bt d n) s 1 1 fun k => { k with pend := k.pend ++ [s.due 1 (s.scalar d word)] })
      ∧ (∀ s : State, (s.me.handle n).size = 0 → ∃ t : TrapRecord, t.cause = 0x05 ∧ t.hv = true ∧ t.hnd = n ∧ Traps (.geth bt d n) s 1 1 t)

/-- R61, R80, R289: SETR's write is on its way with latency 1. With nothing else on its way, it writes the control register it names, in the
bits that the program writes, and no other: the next issue reads its new value, and it acts from the next bundle on (R290: a write of STATWIN
starts a window). A write of a register that the program does not write changes none; one of TRAPVEC with a value that is not a multiple of 16
traps (R47), and one of GEN while a rule operation is queued or runs is held (R248). -/
def Obligations.ControlRegisterWrites : Prop :=
  (∀ (bt : BitVec 2) (a : BitVec 5) (n : BitVec 6) (s : State), ¬(n = 0x07 ∧ (s.me.readS a).toNat % 16 ≠ 0) →
    ¬(n = 0x13 ∧ s.me.matrix.ruleBusy = true) →
    Changes (.setr bt a n) s 1 1 fun k => { k with pend := k.pend ++ [s.due 1 [.ctl n (s.me.readS a)]] }) ∧
  ∀ (bt : BitVec 2) (a : BitVec 5) (n : BitVec 6) (s : State), s.roomFor 1 → s.me.pend = [] →
    let v := s.me.readS a
    (n = 0x07 → v.toNat % 16 ≠ 0 → ∃ t : TrapRecord, t.cause = 0x07 ∧ t.av = true ∧ t.faddr = v.setWidth 57 ∧ Traps (.setr bt a n) s 1 1 t)
      ∧ (n = 0x13 → s.me.matrix.ruleBusy = true → Holds (.setr bt a n) s 1 1 .accept)
      ∧ (¬(n = 0x07 ∧ v.toNat % 16 ≠ 0) → ¬(n = 0x13 ∧ s.me.matrix.ruleBusy = true) →
        let old := s.me.ctl
        let field := fun (r f : Nat) => n.toNat = r ∧ v.getLsbD f = true
        ∃ c : Ctl,
          exec (.setr bt a n) s = .next ((s.issued 1 1).updMe fun k =>
            let k : Core := { k with
              ctl := c, inForce := { mode := c.mode, fb := c.fb, flev := c.flev, bound := c.bound, statcfg := c.statcfg, statwin := c.statwin
                                     statthr := c.statthr } }
            if n = 0x0A then { k with statSums := Vector.replicate 5 0, statFired := 0, statStart := c.cycle.toNat } else k)
          ∧ c.cycle = old.cycle + 1
          ∧ c.mode = (if n = 0x06 then v.setWidth 5 else old.mode)
          ∧ c.trapvec = (if n = 0x07 then v else old.trapvec)
          ∧ (∀ j < 64, c.statcfg.getLsbD j = if n ≠ 0x09 then old.statcfg.getLsbD j
              else if j ≤ 10 ∨ j = 16 then v.getLsbD j else if j = 17 then old.statcfg.getLsbD 17 && !v.getLsbD 17 else false)
          ∧ (∀ j < 64, c.statwin.getLsbD j = if n ≠ 0x0A then old.statwin.getLsbD j else decide (j < 32) && v.getLsbD j)
          ∧ (∀ (i : Fin 5), ∀ j < 64, c.statthr[i].getLsbD j = if n.toNat ≠ 0x0B + i.val then old.statthr[i].getLsbD j
              else decide (32 ≤ j ∨ j = 7 ∨ j = 6 ∨ j < 4) && v.getLsbD j)
          ∧ c.fb = (if n = 0x10 then v.setWidth 6 else old.fb)
          ∧ c.flev = (if n = 0x11 then v.setWidth 3 else old.flev)
          ∧ c.genCount = (if n = 0x13 then v.setWidth 32 else old.genCount)
          ∧ c.rnd = (if n = 0x17 then v.setWidth 2 else old.rnd)
          ∧ c.bound = (if n = 0x1B then v.setWidth 4 else old.bound)
          ∧ (∀ j < 4, c.flags.getLsbD j = (old.flags.getLsbD j && !decide (field 0x1D j)))
          ∧ c.rowp = old.rowp ∧ c.hln = old.hln ∧ c.hls = old.hls ∧ c.hle = old.hle ∧ c.hlw = old.hlw ∧ c.quantEnd = old.quantEnd
          ∧ c.xcnt = old.xcnt ∧ c.rev = old.rev ∧ c.arrCnt = old.arrCnt ∧ c.arrHnd = old.arrHnd)

/-- R238, R276, R291, R300: DRAIN ends the quantum, and a scope or WAIT other than 0 leaves the hold that the rule names; STATPOP takes the
oldest record, or zeros, with latency 2; SPRINT and SPRINTX send their request and hold what follows; TRAP makes a SOFTWARE trap pending. -/
def Obligations.SystemOperations : Prop :=
  (∀ bt w sc s, Changes (.drain bt w sc) s 1 1 fun k =>
      let e := { k with ctl := { k.ctl with quantEnd := k.ctl.quantEnd + 1 } }
      if sc = 0 ∧ w = 0 then e
      else { e with
        hold := .drain sc (k.ctl.quantEnd + 1).toNat k.c0.accepted k.c1.accepted k.matrix.accepted, holdSince := k.cycleNat, holdAt := s.now })
    ∧ (∀ bt d e s r rs, s.me.statRing = r :: rs → Changes (.statpop bt d e) s 1 1 fun k =>
      { k with statRing := rs, pend := k.pend ++ [s.due 2 (s.scalar d r.1 ++ s.scalar e r.2)] })
    ∧ (∀ bt d e s, s.me.statRing = [] → Changes (.statpop bt d e) s 1 1 fun k =>
      { k with pend := k.pend ++ [s.due 2 (s.scalar d 0 ++ s.scalar e 0)] })
    ∧ (∀ bt d a l s, Changes (.sprint bt d a l) s 1 1 fun k =>
      { k with
        request := some (d, s.me.readS a, l), answer := none, answerArr := k.arrCtx.isSome && decide (24 ≤ d.toNat)
        hold := .sprint, holdSince := k.cycleNat, holdAt := s.now })
    ∧ (∀ bt d s, Changes (.sprintx bt d) s 1 1 fun k =>
      { k with
        request := some (d, 0, 0), answer := none, answerArr := k.arrCtx.isSome && decide (24 ≤ d.toNat)
        hold := .sprint, holdSince := k.cycleNat, holdAt := s.now })
    ∧ (∀ bt a n s, ∃ t : TrapRecord, t.cause = 0x0B ∧ t.aux = n ∧ t.av = decide (a ≠ 0) ∧ t.cls = 0 ∧ t.unit = s.cur ∧ t.op = 0x40
      ∧ t.slots = 0b0000010 ∧ (a ≠ 0 → t.faddr = (s.me.readS a).setWidth 57)
      ∧ Changes (.trap bt a n) s 1 1 fun k => { k with pendingA := k.pendingA ++ [{ source := 5, record := t }] })

/-- R361, R363: an INVOKE whose block and reply handle are as the rule asks, of a granted capability, with room in the journal and at the
wicket, enters the wicket's queue, and its reply handle is FILLING. -/
def Obligations.InvokeEntersTheWicket : Prop :=
  ∀ (bt : BitVec 2) (a : BitVec 5) (c : BitVec 3) (h : BitVec 6) (s : State),
    (s.me.readS a).toNat % 64 = 0 → s.me.mayUse (s.me.readS a).toNat 64 → 64 ≤ (s.me.handle h).size.toNat → (s.me.handle h).ring = none →
    (s.me.handle h).st = 0 → (s.me.handle h).o = 1 → s.granted s.me.theLaunch.errand c = true →
    (s.errand s.me.theLaunch.errand).journal.length < 2 ^ 20 → s.hub.wicket.length < 256 →
    ∃ k : Call, k.errand = s.me.theLaunch.errand ∧ k.core = s.cur ∧ k.cap = c ∧ k.reply = h
      ∧ k.block = BitVec.ofNat 512 (s.me.bench.num (s.me.readS a).toNat 64)
      ∧ exec (.invoke bt a c h) s = .next (((((s.beginSolo 1 1).updMe fun x => x.updHandle h fun y =>
          { y with st := 1, o := 1, landed := 0, rd := 0, err := 0 })).updHub fun b => { b with wicket := b.wicket ++ [k] }).commitIssue true 0)

/-- R115, R116: FMTSET of well-formed images in own bench bytes writes the table entries it names, and holds the bundle after it. -/
def Obligations.FormatTableWrites : Prop :=
  ∀ (bt : BitVec 2) (a : BitVec 5) (c f : BitVec 6) (s : State),
    (s.me.readS a).toNat % 32 = 0 → s.me.mayUse (s.me.readS a).toNat (32 * (c.toNat + 1)) →
    (∀ j ≤ c.toNat, fmtImageOk (s.me.bench.num ((s.me.readS a).toNat + 32 * j) 32) = true) →
    ∃ tb : Vector (BitVec 256) 64,
      (∀ e : Fin 64, tb[e] = if f.toNat ≤ e.val ∧ e.val ≤ f.toNat + c.toNat
        then BitVec.ofNat 256 (s.me.bench.num ((s.me.readS a).toNat + 32 * (e.val - f.toNat)) 32) else s.me.matrix.fmtTable[e])
      ∧ Changes (.fmtset bt a c f) s 1 1 fun k => { k with
        matrix := { k.matrix with fmtTable := tb }, notBefore := max k.notBefore (k.cycleNat + (c.toNat + 1 + 3) / 4 + 2) }

/-! ### The control slot -/

/-- A conditional branch is taken (R82). -/
def branchTaken (s : State) : Instr → Option (Bool × BitVec 18)
  | .br _ o => some (true, o)
  | .brz _ a o => some (s.me.readS a == 0, o)
  | .brnz _ a o => some (s.me.readS a != 0, o)
  | .brlt _ a o => some (decide ((s.me.readS a).toInt < 0), o)
  | .brge _ a o => some (decide (0 ≤ (s.me.readS a).toInt), o)
  | .brq _ q n o => some (if n = 0 then s.me.q[q.toNat] == 1 else s.me.q[q.toNat] == 0, o)
  | _ => none

/-- R47, R81, R82: a direct branch in original code that is taken goes to its bundle's header plus four times its offset, and traps where
that is not a multiple of 16; one that is not taken goes on behind its bundle. -/
def Obligations.DirectBranches : Prop :=
  ∀ (i : Instr) (s : State) (taken : Bool) (o : BitVec 18), branchTaken s i = some (taken, o) → s.original →
    (taken = false → GoesTo i s s.afterOne id)
      ∧ (taken = true → (s.branchTo o).toNat % 16 = 0 → GoesTo i s (s.branchTo o) id)
      ∧ (taken = true → (s.branchTo o).toNat % 16 ≠ 0 → ∃ t : TrapRecord, t.cause = 0x07 ∧ t.av = true ∧ t.loc = false
        ∧ t.faddr = (s.branchTo o).setWidth 57 ∧ Traps i s 0 1 t)

/-- R83: in a launch without a residual, BRI and RET go to the address in their register, CALL to its target with the word after the
bundle as its link of latency 1; an address off its alignment traps. -/
def Obligations.IndirectTransfers : Prop :=
  ∀ (s : State), s.me.theLaunch.residual = none →
    (∀ bt a, (s.me.readS a).toNat % 16 = 0 → GoesTo (.bri bt a) s (s.me.readS a) id)
      ∧ (∀ bt a, (s.me.readS a).toNat % 4 = 0 → GoesTo (.ret bt a) s (s.me.readS a) id)
      ∧ (∀ bt d o, (s.branchTo o).toNat % 16 = 0 →
        GoesTo (.call bt d o) s (s.branchTo o) fun k => { k with pend := k.pend ++ [s.due 1 (s.scalar d s.afterOne)] })
      ∧ (∀ bt a, (s.me.readS a).toNat % 16 ≠ 0 → ∃ t : TrapRecord, t.cause = 0x07 ∧ t.faddr = (s.me.readS a).setWidth 57 ∧ Traps (.bri bt a) s 0 1 t)
      ∧ (∀ bt a, (s.me.readS a).toNat % 4 ≠ 0 → ∃ t : TrapRecord, t.cause = 0x07 ∧ t.faddr = (s.me.readS a).setWidth 57 ∧ Traps (.ret bt a) s 0 1 t)

/-- The rotation of LOOPR (R84). -/
def rotated (s : State) : List RegWrite :=
  (List.range 8).flatMap fun i =>
    [.b (BitVec.ofNat 3 i) (s.me.b[(i + 7) % 8]), .q (BitVec.ofNat 3 i) (s.me.q[(i + 7) % 8])]

/-- R84: LOOP and LOOPR in original code, of a counter that exists: a counter of 0 stays 0 and falls through; another is one less, and
the branch is taken while it is not 0. LOOPR rotates b and q either way. -/
def Obligations.CountedLoops : Prop :=
  ∀ (bt : BitVec 2) (c : BitVec 3) (o : BitVec 18) (s : State) (hc : c.toNat < 6), s.original →
    let n := s.me.n[c.toNat]
    (n = 0 → GoesTo (.loop bt c o) s s.afterOne fun k => { k with pend := k.pend ++ [s.due 1 [.n c 0]] })
      ∧ (n = 1 → GoesTo (.loop bt c o) s s.afterOne fun k => { k with pend := k.pend ++ [s.due 1 [.n c 0]] })
      ∧ (2 ≤ n.toNat → (s.branchTo o).toNat % 16 = 0 →
        GoesTo (.loop bt c o) s (s.branchTo o) fun k => { k with pend := k.pend ++ [s.due 1 [.n c (n - 1)]] })
      ∧ (n.toNat ≤ 1 → GoesTo (.loopr bt c o) s s.afterOne fun k => { k with pend := k.pend ++ [s.due 1 (.n c 0 :: rotated s)] })
      ∧ (2 ≤ n.toNat → (s.branchTo o).toNat % 16 = 0 →
        GoesTo (.loopr bt c o) s (s.branchTo o) fun k => { k with pend := k.pend ++ [s.due 1 (.n c (n - 1) :: rotated s)] })

/-- R85 to R87: a wait whose condition holds lets its bundle issue; one that does not holds the core. HWAIT of a handle by number; BAR
arrives and ends the quantum at its first attempt, and issues once it is released; WAITV ends the quantum at each poll. -/
def Obligations.ControlWaits : Prop :=
  (∀ bt h s, (s.me.handle h).size ≠ 0 → (s.me.handle h).st = 2 → (s.me.handle h).o = 0 → exec (.hwait bt 0 0 h) s = .next (s.issued 0 1))
    ∧ (∀ bt h s, (s.me.handle h).size ≠ 0 → (s.me.handle h).st = 0 → exec (.hwait bt 0 1 h) s = .next (s.issued 0 1))
    ∧ (∀ bt h s, (s.me.handle h).size ≠ 0 → (s.me.handle h).st = 1 → Holds (.hwait bt 0 0 h) s 0 1 .hwait)
    ∧ (∀ bt b s, s.me.released = true → Changes (.bar bt b) s 0 1 fun k => { k with released := false, arrived := none })
    ∧ (∀ bt b s, s.me.released = false → s.me.arrived ≠ some b → Waits (.bar bt b) s 0 1
      (fun k => { k with
        ctl := { k.ctl with quantEnd := k.ctl.quantEnd + 1 }, arrived := some b
        arrivals := k.arrivals.set b.toNat (k.arrivals[b.toNat] ++ [(k.cycleNat, (k.ctl.quantEnd + 1).toNat)]) }) (.bar b))
    ∧ (∀ bt b s, s.me.released = false → s.me.arrived = some b → Holds (.bar bt b) s 0 1 (.bar b))
    ∧ (∀ bt a b s (z : BitVec 2), 2 ≤ z.toNat → (s.me.readS a).toNat % 2 ^ z.toNat = 0 → 0x10000000 ≤ (s.me.readS a).toNat →
      (s.me.readS a).toNat + 2 ^ z.toNat ≤ 0x10400000 →
      leNat (s.yardBytes s.cur ((s.me.readS a).toNat - 0x10000000) (2 ^ z.toNat)) = (s.me.readS b).toNat % 2 ^ (8 * 2 ^ z.toNat) →
      Changes (.waitv bt a b 0 z) s 0 1 fun k => { k with ctl := { k.ctl with quantEnd := k.ctl.quantEnd + 1 } })

/-- R88, R89, R275: HALT ends issue after its bundle and discards a diversion's saved state; ARET and TRET outside their handlers are
illegal slots, and inside them restore the sticky records and the snapshot and go on at the saved address, TRET with SKIP after a precise trap
at the bundle after. A hold that a DRAIN or a SPRINT beside the TRET leaves stays. -/
def Obligations.HaltAndReturns : Prop :=
  (∀ bt s, Changes (.halt bt) s 0 1 fun k => { k with status := .halted, sticky := {}, trapCtx := none, arrCtx := none })
    ∧ (∀ bt s x, s.me.arrCtx = some x → GoesTo (.aret bt) s x.ret fun k => { k with
      arrCtx := none, sticky := x.stickies, snapshot := x.snapshot, stop := x.stop, pc := x.ret, issue := 0, nextIssue := 0 })
    ∧ (∀ bt skip s x, s.me.trapCtx = some x → skip = 0 ∨ x.precise = false → GoesTo (.tret bt skip) s x.ret fun k => { k with
      trapCtx := none, sticky := x.stickies, snapshot := x.snapshot, stop := x.stop, hold := if k.hold.after then k.hold else .none
      arrived := x.arrived, released := x.released, restarted := x.restarted, returned := true
      pc := x.ret, issue := x.retIssue, nextIssue := x.retIssue })
    ∧ (∀ bt s x, s.me.trapCtx = some x → x.precise = true → GoesTo (.tret bt 1) s x.next fun k => { k with
      trapCtx := none, sticky := x.stickies, snapshot := x.snapshot, stop := x.stop, hold := if k.hold.after then k.hold else .none
      arrived := none, released := false, restarted := false, returned := true, pc := x.next, issue := 0, nextIssue := 0 })
    ∧ (∀ bt s, s.me.arrCtx = none → ∃ t : TrapRecord, t.cause = 0x02 ∧ t.slots = 0b0000001 ∧ Traps (.aret bt) s 0 1 t)
    ∧ (∀ bt k s, s.me.trapCtx = none → ∃ t : TrapRecord, t.cause = 0x02 ∧ t.slots = 0b0000001 ∧ Traps (.tret bt k) s 0 1 t)

/-! ### The vector slots -/

/-- R122, R124: every instruction of the lane arithmetic on integer types, without SAT and with it. -/
def Obligations.VectorIntegerArithmetic : Prop :=
  IntLanes .vadd 1 false 2 (fun a b _ => a + b) ∧ (∀ x : ArithX, IntLanes (.vaddArith · x) 2 (x.sat == 1) 2 fun a b _ => a + b)
    ∧ IntLanes .vsub 1 false 2 (fun a b _ => a - b) ∧ (∀ x : ArithX, IntLanes (.vsubArith · x) 2 (x.sat == 1) 2 fun a b _ => a - b)
    ∧ IntLanes .vmul 1 false 3 (fun a b _ => a * b) ∧ (∀ x : ArithX, IntLanes (.vmulArith · x) 2 (x.sat == 1) 3 fun a b _ => a * b)
    ∧ IntLanes .vfma 1 false 3 (fun a b d => a * b + d) ∧ (∀ x : ArithX, IntLanes (.vfmaArith · x) 2 (x.sat == 1) 3 fun a b d => a * b + d)
    ∧ IntLanes .vfms 1 false 3 (fun a b d => d - a * b) ∧ (∀ x : ArithX, IntLanes (.vfmsArith · x) 2 (x.sat == 1) 3 fun a b d => d - a * b)
    ∧ IntLanes .vmin 1 false 2 (fun a b _ => min a b) ∧ IntLanes .vmax 1 false 2 (fun a b _ => max a b)
    ∧ IntLanes .vclamp 1 false 2 (fun a b d => min (max d a) b)
    ∧ (∀ o : VUnary, 3 ≤ o.y.toNat → LaneResult (.vabs o) 1 o.d o.k (laneCount o.w o.y.toNat) (elemBits o.y.toNat) 2 fun s j =>
      intResult o.y false (s.vInt o.y o.a j).natAbs)
    ∧ (∀ o : VUnary, 3 ≤ o.y.toNat → LaneResult (.vneg o) 1 o.d o.k (laneCount o.w o.y.toNat) (elemBits o.y.toNat) 2 fun s j =>
      intResult o.y false (-s.vInt o.y o.a j))
    ∧ (∀ (o : VUnary) (sat : BitVec 1), 3 ≤ o.y.toNat →
      LaneResult (.vabsArith o sat) 2 o.d o.k (laneCount o.w o.y.toNat) (elemBits o.y.toNat) 2 fun s j =>
        intResult o.y (sat == 1) (s.vInt o.y o.a j).natAbs)
    ∧ (∀ (o : VUnary) (sat : BitVec 1), 3 ≤ o.y.toNat →
      LaneResult (.vnegArith o sat) 2 o.d o.k (laneCount o.w o.y.toNat) (elemBits o.y.toNat) 2 fun s j =>
        intResult o.y (sat == 1) (-s.vInt o.y o.a j))

/-- The rounding mode of RND, and the one that an ARITH or CVT word names (R104, R123). -/
def modeOf (rmo : BitVec 3) (s : State) : Nat := if rmo = 0 then s.me.ctl.rnd.toNat else rmo.toNat - 1

/-- R122, R124, R125: every instruction of the lane arithmetic on floating-point types: the exact result on the values that the lanes
stand for, rounded once; an infinite result stays infinite with SAT too. VMIN, VMAX, VCLAMP, VABS and VNEG choose or negate, and SAT has no
effect on them. -/
def Obligations.VectorFloatArithmetic : Prop :=
  (∀ (w : Bool) (x : ArithX), FloatLanes (fun o => if w then .vaddArith o x else .vadd o) (if w then 2 else 1) (w && x.sat == 1)
      (modeOf (if w then x.rmo else 0)) 4 fun m a b _ => FNum.add m a b)
    ∧ (∀ (w : Bool) (x : ArithX), FloatLanes (fun o => if w then .vsubArith o x else .vsub o) (if w then 2 else 1) (w && x.sat == 1)
      (modeOf (if w then x.rmo else 0)) 4 fun m a b _ => FNum.add m a b.neg)
    ∧ (∀ (w : Bool) (x : ArithX), FloatLanes (fun o => if w then .vmulArith o x else .vmul o) (if w then 2 else 1) (w && x.sat == 1)
      (modeOf (if w then x.rmo else 0)) 4 fun _ a b _ => FNum.mul a b)
    ∧ (∀ (w : Bool) (x : ArithX), FloatLanes (fun o => if w then .vfmaArith o x else .vfma o) (if w then 2 else 1) (w && x.sat == 1)
      (modeOf (if w then x.rmo else 0)) 4 fun m a b d =>
        if (FNum.mul a b).2 = Fl.none then FNum.add m d (FNum.mul a b).1 else (.nan, Fl.nv))
    ∧ (∀ (w : Bool) (x : ArithX), FloatLanes (fun o => if w then .vfmsArith o x else .vfms o) (if w then 2 else 1) (w && x.sat == 1)
      (modeOf (if w then x.rmo else 0)) 4 fun m a b d =>
        if (FNum.mul a b).2 = Fl.none then FNum.add m d (FNum.mul a b).1.neg else (.nan, Fl.nv))
    ∧ FloatLanes .vmin 1 false (modeOf 0) 2 (fun _ a b _ => (FNum.extreme false a b, Fl.none))
    ∧ FloatLanes .vmax 1 false (modeOf 0) 2 (fun _ a b _ => (FNum.extreme true a b, Fl.none))
    ∧ FloatLanes .vclamp 1 false (modeOf 0) 2 (fun _ a b d => (FNum.extreme false (FNum.extreme true d a) b, Fl.none))
    ∧ (∀ (w : Bool) (sat : BitVec 1), FloatLanes (fun o => if w then .vabsArith ⟨o.bt, o.y, o.d, o.a, o.w, o.k⟩ sat
        else .vabs ⟨o.bt, o.y, o.d, o.a, o.w, o.k⟩) (if w then 2 else 1) false (modeOf 0) 2 fun _ a _ _ =>
          (if a.isNeg then a.neg else a, Fl.none))
    ∧ (∀ (w : Bool) (sat : BitVec 1), FloatLanes (fun o => if w then .vnegArith ⟨o.bt, o.y, o.d, o.a, o.w, o.k⟩ sat
        else .vneg ⟨o.bt, o.y, o.d, o.a, o.w, o.k⟩) (if w then 2 else 1) false (modeOf 0) 2 fun _ a _ _ => (a.neg, Fl.none))

/-- R122, R126: bitwise operations and shifts, the count unsigned; a count past the lane gives zeros, or the sign in every bit. -/
def Obligations.VectorBitwiseAndShifts : Prop :=
  BitLanes .vand (fun _ a b => a &&& b) ∧ BitLanes .vor (fun _ a b => a ||| b) ∧ BitLanes .vxor (fun _ a b => a ^^^ b)
    ∧ BitLanes .vshl (fun eb a c => if c < eb then a * 2 ^ c else 0) ∧ BitLanes .vshr (fun _ a c => a / 2 ^ c)
    ∧ BitLanes .vsar (fun eb a c => (toSigned eb a / 2 ^ c % 2 ^ eb).toNat)

/-- R122, R127: the compares on every type. A NaN operand is unordered, and zeros are equal. -/
def Obligations.VectorCompares : Prop :=
  Compares .vceq (fun r => r == some .eq) ∧ Compares .vclt (fun r => r == some .lt)
    ∧ Compares .vcle (fun r => r == some .lt || r == some .eq) ∧ Compares .vcun (fun r => r == none)

/-- R122, R128, R129, R137: VSEL, whose k selects and governs no lane, VMOV, VBCAST, VIDX, VEXT and VSHUF. -/
def Obligations.VectorMoves : Prop :=
  (∀ o : VBin, LaneResult (.vsel o) 1 o.d 0 (laneCount o.w o.y.toNat) (elemBits o.y.toNat) 2 fun s j =>
      (s.vLane (if s.active o.k j then o.a else o.b) (elemBits o.y.toNat) j, Fl.none))
    ∧ (∀ o : VUnary, LaneResult (.vmov o) 1 o.d o.k (laneCount o.w o.y.toNat) (elemBits o.y.toNat) 2 fun s j =>
      (s.vLane o.a (elemBits o.y.toNat) j, Fl.none))
    ∧ (∀ (o : VUnary) (l : BitVec 7), LaneResult (.vbcast o 0 l) 2 o.d o.k (laneCount o.w o.y.toNat) (elemBits o.y.toNat) 2 fun s _ =>
      (s.vLane o.a (elemBits o.y.toNat) l.toNat, Fl.none))
    ∧ (∀ (o : VUnary) (l : BitVec 7), LaneResult (.vbcast o 1 l) 2 o.d o.k (laneCount o.w o.y.toNat) (elemBits o.y.toNat) 2 fun s _ =>
      ((s.me.readS o.a).toNat, Fl.none))
    ∧ (∀ bt y d w k, w.toNat ≤ 2 → LaneResult (.vidx bt y d w k) 1 d k (laneCount w y.toNat) (elemBits y.toNat) 2 fun _ j =>
      (match floatType y with
        | some f => (f.encode 0 false false (.fin false j 0)).1
        | none => j, Fl.none))
    ∧ (∀ bt y d a w l, GivesLater (.vext bt y d a w l) 2 2 3 fun s => s.due 3 (s.scalar d (BitVec.ofInt 64
        (if 3 ≤ y.toNat ∧ y.toNat ≤ 5 then toSigned (elemBits y.toNat) (s.vLane a (elemBits y.toNat) l.toNat)
          else s.vLane a (elemBits y.toNat) l.toNat))))
    ∧ (∀ (o : VBin) (e : BitVec 6), LaneResult (.vshuf o e) 2 o.d o.k (laneCount o.w o.y.toNat) (elemBits o.y.toNat) 3 fun s j =>
      let n := laneCount o.w o.y.toNat
      let c := lane s.me.patFront[e.toNat] 8 j
      (if 128 ≤ c then 0 else if c < n then s.vLane o.a (elemBits o.y.toNat) c
        else if c < 2 * n then s.vLane o.b (elemBits o.y.toNat) (c - n) else 0, Fl.none))

/-- R102, R104, R105, R111: VCVT, VPACK and VUNPK. A value that an integer type cannot hold gives the nearest it can and SAT; a NaN gives
0 and NV. R106 to R110: VCVTB. Encoding into MX writes the scale bytes to vb; where vd is vb, R106 gives the same bytes to scales and
elements, and they are free values (log entry 50); that decoding an MX block neither flushes under MODE.SUB nor raises a flag, and how many
lanes the NV event of a spoiled block counts, is log entry 50 too, and for a spoiled GQ4 superblock log entry 76. GQ4 takes c and S from vb;
bits outside the named parts stay. -/
def Obligations.VectorConversions : Prop :=
  (let toInt := fun (t : Nat) (x : Int) =>
     ((max (intMin t) (min (intMax t) x) % 2 ^ elemBits t).toNat, if intMin t ≤ x ∧ x ≤ intMax t then Fl.none else Fl.sat)
   (∀ (o : VUnary0) (x : CvtX), x.src.toNat ≤ 9 → x.dst.toNat ≤ 9 →
     LaneResult (.vcvt o x) 2 o.d o.k (Machine.widthBits o.w / max (elemBits x.src.toNat) (elemBits x.dst.toNat)) (elemBits x.dst.toNat) 3 fun s j =>
       let v := laneNum x.src.toNat s.me.sub (s.vLane o.a (elemBits x.src.toNat) j)
       match floatFmt x.dst.toNat with
       | some f => f.encode (modeOf x.rmo s) (x.sat == 1) s.me.sub v
       | none =>
         match v with
         | .nan => (0, Fl.nv)
         | .inf neg => (((if neg then intMin x.dst.toNat else intMax x.dst.toNat) % 2 ^ elemBits x.dst.toNat).toNat, Fl.sat)
         | .fin neg m e =>
           let n := (roundTo (modeOf x.rmo s) neg m e 0).1
           toInt x.dst.toNat (if neg then -(n : Int) else n))
     ∧ (∀ (o : VUnary) (dst sh : BitVec 5),
       LaneResult (.vpack o dst sh) 2 o.d o.k (Machine.widthBits o.w / elemBits o.y.toNat) (elemBits dst.toNat) 2 fun s j =>
         let x := intValue o.y.toNat (s.vLane o.a (elemBits o.y.toNat) j)
         toInt dst.toNat (if sh = 0 then x else (x + 2 ^ (sh.toNat - 1)) / 2 ^ sh.toNat))
     ∧ (∀ (o : VUnary) (src : BitVec 5),
       LaneResult (.vunpk o src) 2 o.d o.k (Machine.widthBits o.w / elemBits o.y.toNat) (elemBits o.y.toNat) 2 fun s j =>
         toInt o.y.toNat (intValue src.toNat (s.vLane o.a (elemBits src.toNat) j))))
  ∧ (∀ (o : VBlock) (x : CvtBX) (s : State) (f : FloatFmt), s.roomFor 6 →
       let vb := s.me.v[o.b.toNat]
       let elems := fun (fs : FloatFmt) => 1024 / (fs.eb + fs.mb + 1)
       (∀ fs, floatFmt x.src.toNat = some fs → x.src.toNat < 2 → floatFmt x.dst.toNat = some f → 10 ≤ x.dst.toNat → o.d ≠ o.b →
         let db := elemBits x.dst.toNat
         let r := fun (j : Nat) => mxEncode f (modeOf x.rmo s) ((List.range 32).map fun l => s.vNum fs o.a (32 * j + l))
         ∃ d b : VReg, (∀ j < 1024 / db, lane d db j = if j < elems fs then (r (j / 32)).2.1.getD (j % 32) 0 else s.vLane o.d db j)
           ∧ (∀ j < 128, lane b 8 j = if j < elems fs / 32 then (r j).1 else s.vLane o.b 8 j)
           ∧ ∃ p : Pending, p.due = s.me.cycleNat + 6 ∧ p.writes = [.v o.d d, .v o.b b] ∧ p.load = false
             ∧ (p.flags = if (List.range (elems fs)).all fun j => (s.vNum fs o.a j).isFinite then Fl.none else Fl.nv)
             ∧ exec (.vcvtb o x) s = .next ((s.issued 2 2).awaits p))
         ∧ (∀ fs, floatFmt x.src.toNat = some fs → x.src.toNat < 2 → floatFmt x.dst.toNat = some f → 10 ≤ x.dst.toNat → o.d = o.b →
           let db := elemBits x.dst.toNat
           let r := fun (j : Nat) => mxEncode f (modeOf x.rmo s) ((List.range 32).map fun l => s.vNum fs o.a (32 * j + l))
           ∃ (d : VReg) (p : Pending), (∀ j < 1024 / db, elems fs / 32 * 8 ≤ j * db →
               lane d db j = if j < elems fs then (r (j / 32)).2.1.getD (j % 32) 0 else s.vLane o.d db j)
             ∧ p.due = s.me.cycleNat + 6 ∧ p.writes = [.v o.d d] ∧ p.load = false
             ∧ (p.flags = if (List.range (elems fs)).all fun j => (s.vNum fs o.a j).isFinite then Fl.none else Fl.nv)
             ∧ exec (.vcvtb o x) s = .next ((s.issued 2 2).awaits p).takeFree)
         ∧ (∀ fd, floatFmt x.src.toNat = some f → 10 ≤ x.src.toNat → floatFmt x.dst.toNat = some fd → x.dst.toNat < 2 →
           ∃ d : VReg, (∀ j < elems fd, lane d (fd.eb + fd.mb + 1) j = (fd.encode (modeOf x.rmo s) false false
               (mxValue f (lane vb 8 (j / 32)) (s.vLane o.a (elemBits x.src.toNat) j))).1)
             ∧ exec (.vcvtb o x) s = .next ((s.issued 2 2).awaits (s.due 6 [.v o.d d])))
         ∧ (floatFmt x.src.toNat = some f → x.src.toNat < 2 → x.dst = 13 →
           let r := fun (j : Nat) => gqEncode (lane vb 32 1) (lane vb 8 0) (s.vNum f o.a j)
           ∃ (d : VReg) (fl : Fl), (∀ j < 256, lane d 4 j =
               if 32 * x.h.toNat ≤ j ∧ j < 32 * x.h.toNat + elems f then (r (j - 32 * x.h.toNat)).1 else s.vLane o.d 4 j)
             ∧ (∀ b < 4, fl.getLsbD b = (List.range (elems f)).any fun j => (r j).2.getLsbD b)
             ∧ exec (.vcvtb o x) s = .next ((s.issued 2 2).awaits { s.due 6 [.v o.d d] with
               flags := fl, events := (s.beginSolo 2 2).flagEvents 1 ((List.range (elems f)).map fun j => (r j).2) }))
         ∧ (floatFmt x.dst.toNat = some f → x.dst.toNat < 2 → x.src = 13 →
           let r := fun (j : Nat) => f.encode (modeOf x.rmo s) false s.me.sub
             (gqValue (Fmt.f32.read s.me.sub (lane vb 32 1)) (lane vb 8 0) (s.vLane o.a 4 (32 * x.h.toNat + j)))
           ∃ (d : VReg) (fl : Fl), (∀ j < elems f, lane d (f.eb + f.mb + 1) j = (r j).1)
             ∧ (∀ b < 4, fl.getLsbD b = (List.range (elems f)).any fun j => (r j).2.getLsbD b)
             ∧ exec (.vcvtb o x) s = .next ((s.issued 2 2).awaits { s.due 6 [.v o.d d] with
               flags := fl, events := (s.beginSolo 2 2).flagEvents 1 ((List.range (elems f)).map fun j => (r j).2) })))

/-- R142: the predicate instructions, each a whole 128-bit result of latency 1; k0 reads as all ones (R120). -/
def Obligations.PredicateResults : Prop :=
  (∀ bt d a b, GivesAtOnce (.kand bt d a b) 2 1 fun s => [.k d (s.me.readK a &&& s.me.readK b)])
    ∧ (∀ bt d a b, GivesAtOnce (.kor bt d a b) 2 1 fun s => [.k d (s.me.readK a ||| s.me.readK b)])
    ∧ (∀ bt d a b, GivesAtOnce (.kxor bt d a b) 2 1 fun s => [.k d (s.me.readK a ^^^ s.me.readK b)])
    ∧ (∀ bt d a, GivesAtOnce (.knot bt d a) 2 1 fun s => [.k d (~~~s.me.readK a)])
    ∧ (∀ bt d a (s : State), s.roomFor 1 → ∃ p : Pred, (∀ j < 128, p.getLsbD j = decide (j < (s.me.readS a).toNat))
      ∧ exec (.kset bt d a) s = .next ((s.issued 2 1).arrive [.k d p]))

/-- The pairwise tree over lanes `x` to `x + 2^n − 1`, absent lanes left out (R131). -/
def laneTree (node : Nat → Nat → Nat × Fl) (leaf : Nat → Option Nat) : Nat → Nat → Option Nat × Fl
  | 0, x => (leaf x, Fl.none)
  | n + 1, x =>
    let p := laneTree node leaf n x
    let q := laneTree node leaf n (x + 2 ^ n)
    match p.1, q.1 with
    | some a, some b => (some (node a b).1, p.2 ||| q.2 ||| (node a b).2)
    | some a, none => (some a, p.2 ||| q.2)
    | none, r => (r, p.2 ||| q.2)

/-- A floating-point reduction: the tree in FP32 over the active lanes, its root rounded once to the type; `none_` where no lane is active. -/
def Reduces (i : Instr) (words : Nat) (o : VUnary) (f : FloatFmt) (sat : Bool) (mode : State → Nat) (node : Nat → FNum → FNum → FNum × Fl)
    (none_ : FNum) : Prop :=
  ∀ (s : State) (n : Nat), laneCount o.w o.y.toNat = 2 ^ n → s.roomFor (4 + n) → ∃ (v : VReg) (fl : Fl),
    (let t := laneTree (fun a b =>
        let x := node (mode s) (Fmt.f32.read s.me.sub a) (Fmt.f32.read s.me.sub b)
        let c := Fmt.f32.round (mode s) sat s.me.sub x.1
        (c.1, x.2 ||| c.2))
      (fun j => if s.active o.k j then some (Fmt.f32.encode (mode s) false false (s.vNum f o.a j)).1 else none) n 0
     let r := match t.1 with
      | none => ((f.encode (mode s) false false none_).1, Fl.none)
      | some x => f.round (mode s) sat s.me.sub (Fmt.f32.read s.me.sub x)
     (∀ j < 1024 / elemBits o.y.toNat, lane v (elemBits o.y.toNat) j = if j = 0 then r.1 else s.vLane o.d (elemBits o.y.toNat) j)
      ∧ fl = t.2 ||| r.2)
      ∧ exec i s = .next ((s.issued 2 words).awaits { s.due (4 + n) [.v o.d v] with
          flags := fl, events := (s.beginSolo 2 words).flagEvents 1 [fl] })

/-- An integer reduction of the active lanes. -/
def ReducesInt (i : Instr) (words : Nat) (o : VUnary) (sat : Bool) (r : List Int → Int) : Prop :=
  3 ≤ o.y.toNat → ∀ (s : State) (n : Nat), laneCount o.w o.y.toNat = 2 ^ n → s.roomFor (4 + n) → ∃ v : VReg,
    let x := intResult o.y sat (r ((s.actives o.k (2 ^ n)).map (s.vInt o.y o.a)))
    (∀ j < 1024 / elemBits o.y.toNat, lane v (elemBits o.y.toNat) j = if j = 0 then x.1 else s.vLane o.d (elemBits o.y.toNat) j)
      ∧ exec i s = .next ((s.issued 2 words).awaits { s.due (4 + n) [.v o.d v] with
          flags := x.2, events := (s.beginSolo 2 words).flagEvents 1 [x.2] })

/-- R122, R130, R131: the reductions. Lane 0 of vd takes the result, every other lane stays. That a flag which the tree raises at several nodes
is counted once is log entry 78. -/
def Obligations.VectorReductions : Prop :=
  ∀ o : VUnary,
    (∀ f, floatType o.y = some f →
      Reduces (.vradd o) 1 o f false (modeOf 0) (fun m a b => FNum.add m a b) (.fin false 0 0)
        ∧ (∀ x : ArithX, Reduces (.vraddArith o x) 2 o f (x.sat == 1) (modeOf x.rmo) (fun m a b => FNum.add m a b) (.fin false 0 0))
        ∧ Reduces (.vrmax o) 1 o f false (modeOf 0) (fun _ a b => (FNum.extreme true a b, Fl.none)) (.inf true)
        ∧ Reduces (.vrmin o) 1 o f false (modeOf 0) (fun _ a b => (FNum.extreme false a b, Fl.none)) (.inf false))
      ∧ ReducesInt (.vradd o) 1 o false List.sum ∧ (∀ x : ArithX, ReducesInt (.vraddArith o x) 2 o (x.sat == 1) List.sum)
      ∧ ReducesInt (.vrmax o) 1 o false (fun xs => xs.foldl max (intMin o.y.toNat))
      ∧ ReducesInt (.vrmin o) 1 o false (fun xs => xs.foldl min (intMax o.y.toNat))

/-- A special function in both grades (R122, R140): its results at NaN, the infinities, the zeros and outside its domain; `negative` is
the result at a finite negative operand where the table gives one. The result of any other operand is held only by R141's bound. -/
def SpecialFunction (fast : VSpecial → Instr) (accurate : VSpecial → BitVec 6 → Instr) (atPlusInf atMinusInf : FNum × Fl)
    (atZero : Bool → FNum × Fl) (negative : Option (FNum × Fl)) : Prop :=
  ∀ (o : VSpecial) (f : FloatFmt) (grade : Option (BitVec 6)), o.y ≠ 3 → floatFmt o.y.toNat = some f →
    (∀ n, grade = some n → 8 ≤ n.toNat ∧ n.toNat ≤ 32) →
    ∃ g : State → Nat → Nat × Fl,
      LaneResult (match grade with | none => fast o | some n => accurate o n) (if grade = none then 1 else 2) o.d o.k
        (laneCount o.w o.y.toNat) (elemBits o.y.toNat) (match grade with | none => 4 | some n => 3 + (n.toNat + 1) / 2) g
      ∧ ∀ s j,
        let v := f.read (grade == none || s.me.sub) (s.vLane o.a (elemBits o.y.toNat) j)
        let r := fun (x : FNum × Fl) => ((f.encode 0 false false x.1).1, x.2)
        (v = .nan → g s j = (f.nan, Fl.none)) ∧ (v = .inf false → g s j = r atPlusInf) ∧ (v = .inf true → g s j = r atMinusInf)
          ∧ (∀ neg e, v = .fin neg 0 e → g s j = r (atZero neg))
          ∧ (∀ x m e, negative = some x → v = .fin true m e → m ≠ 0 → g s j = r x)

/-- R140: the table of the special functions. -/
def Obligations.SpecialFunctionResults : Prop :=
  let zero := fun (neg : Bool) => (FNum.fin neg 0 0, Fl.none)
  let one := (FNum.fin false 1 0, Fl.none)
  let invalid := (FNum.nan, Fl.nv)
  SpecialFunction .vexp .vexpAccurate (.inf false, Fl.none) (zero false) (fun _ => one) none
    ∧ SpecialFunction .vlog .vlogAccurate (.inf false, Fl.none) invalid (fun _ => (.inf true, Fl.none)) (some invalid)
    ∧ SpecialFunction .vrcp .vrcpAccurate (zero false) (zero true) (fun neg => (.inf neg, Fl.none)) none
    ∧ SpecialFunction .vrsq .vrsqAccurate (zero false) invalid (fun neg => (.inf neg, Fl.none)) (some invalid)
    ∧ SpecialFunction .vsin .vsinAccurate invalid invalid zero none ∧ SpecialFunction .vcos .vcosAccurate invalid invalid (fun _ => one) none
    ∧ SpecialFunction .vtanh .vtanhAccurate one (.fin true 1 0, Fl.none) zero none
    ∧ SpecialFunction .vlgst .vlgstAccurate one (zero false) (fun _ => (.fin false 1 (-1), Fl.none)) none

/-- The base address of a vector access issued by itself (R132). -/
def vecBase (s : State) (a : BitVec 5) (x : MemX) : DWord := s.me.readS a + BitVec.ofInt 64 x.off.toInt

/-- A vector access: its predicate, its lanes and the bytes of each, the address of a lane, whether a lane is misaligned, whether it
stores, and whether it reaches the bench only (R132, R133). -/
structure VecAccess where
  data : BitVec 5
  pred : BitVec 3
  lanes : Nat
  bytes : Nat
  at_ : Nat → DWord
  misaligned : Nat → Bool
  store : Bool
  benchOnly : Bool
  latency : Nat

def vecAccess (s : State) : Instr → Option VecAccess
  | .vld o x => some ⟨o.d, o.k, laneCount o.w o.y.toNat, elemBits o.y.toNat / 8,
      fun j => vecBase s o.a x + BitVec.ofNat 64 (j * (elemBits o.y.toNat / 8)),
      fun _ => decide ((vecBase s o.a x).toNat % 32 ≠ 0), false, false, 4⟩
  | .vst o x => some ⟨o.d, o.k, laneCount o.w o.y.toNat, elemBits o.y.toNat / 8,
      fun j => vecBase s o.a x + BitVec.ofNat 64 (j * (elemBits o.y.toNat / 8)),
      fun _ => decide ((vecBase s o.a x).toNat % 32 ≠ 0), true, false, 0⟩
  | .vlds o x => some ⟨o.d, o.k, laneCount o.w o.y.toNat, elemBits o.y.toNat / 8,
      fun j => vecBase s o.a x + BitVec.ofNat 64 j * s.me.readS o.b,
      fun j => decide ((vecBase s o.a x + BitVec.ofNat 64 j * s.me.readS o.b).toNat % (elemBits o.y.toNat / 8) ≠ 0), false, false, 4⟩
  | .vsts o x => some ⟨o.d, o.k, laneCount o.w o.y.toNat, elemBits o.y.toNat / 8,
      fun j => vecBase s o.a x + BitVec.ofNat 64 j * s.me.readS o.b,
      fun j => decide ((vecBase s o.a x + BitVec.ofNat 64 j * s.me.readS o.b).toNat % (elemBits o.y.toNat / 8) ≠ 0), true, false, 0⟩
  | .vgath o x => if elemBits o.y.toNat ≠ 32 then none else some ⟨o.d, o.k, laneCount o.w o.y.toNat, 4,
      fun j => vecBase s o.a x + BitVec.ofNat 64 (4 * s.vLane o.b 32 j), fun _ => decide ((vecBase s o.a x).toNat % 4 ≠ 0), false, true, 6⟩
  | .vscat o x => if elemBits o.y.toNat ≠ 32 then none else some ⟨o.d, o.k, laneCount o.w o.y.toNat, 4,
      fun j => vecBase s o.a x + BitVec.ofNat 64 (4 * s.vLane o.b 32 j), fun _ => decide ((vecBase s o.a x).toNat % 4 ≠ 0), true, true, 0⟩
  | _ => none

/-- R122, R132: a vector load whose active lanes lie aligned in the bench, where the core owns them and none is poisoned. R132, R134: a
vector store whose active lanes lie aligned in the bench, where the core owns them. R65, R132, R214 to R216, R228: loads of such lanes from the
yard and from held bays of the loft, and stores to the yard through the store buffer. Who is served first of those that ask a yard bank in one
cycle is the model's choice (log 53). -/
def Obligations.VectorBenchAccesses : Prop :=
  (∀ (i : Instr) (s : State) (v : VecAccess), vecAccess s i = some v → v.benchOnly = false →
     (∀ j < v.lanes, s.active v.pred j = true → v.misaligned j = false) →
     (v.store = false → s.lanesWithin v.pred v.lanes v.bytes 0x10000000 0x10400000 v.at_ → Mem.wf (s.cluster s.myCluster).yard = true →
         s.roomFor (12 + (s.cluster s.myCluster).bankUses.length) → LoadsYardLanes i s v.data v.pred v.lanes (8 * v.bytes) v.at_)
       ∧ (v.store = false → s.lanesWithin v.pred v.lanes v.bytes 0x20000000 0x38000000 v.at_ → Mem.wf (s.die s.myDie).loft = true →
         (∀ j < v.lanes, s.active v.pred j = true → s.holdsBay ((v.at_ j).toNat - 0x20000000)) →
         LoadsLoftLanes i s v.data v.pred v.lanes (8 * v.bytes) v.at_)
       ∧ (v.store = true → s.lanesWithin v.pred v.lanes v.bytes 0x10000000 0x10400000 v.at_ →
         StoresYardLanes i s v.data v.pred v.lanes (8 * v.bytes) v.at_)) ∧
  (∀ (i : Instr) (s : State) (v : VecAccess), vecAccess s i = some v → v.store = false → s.roomFor v.latency → Mem.wf s.me.bench = true →
     (∀ j < v.lanes, s.active v.pred j = true → v.misaligned j = false ∧ s.me.clean (v.at_ j).toNat v.bytes) →
     s.lanesUsable v.pred v.lanes v.bytes v.at_ → LoadsLanes i s v.data v.pred v.lanes (8 * v.bytes) v.latency v.at_)
  ∧ (∀ (i : Instr) (s : State) (v : VecAccess), vecAccess s i = some v → v.store = true → Mem.wf s.me.bench = true →
       (∀ j < v.lanes, s.active v.pred j = true → v.misaligned j = false) →
       s.lanesUsable v.pred v.lanes v.bytes v.at_ → StoresLanes i s v.data v.pred v.lanes (8 * v.bytes) v.at_)

/-- The lowest active lane for which `bad` holds. -/
def lowestLane (s : State) (v : VecAccess) (bad : Nat → Bool) : Option Nat := (s.actives v.pred v.lanes).find? bad

/-- R133: the checks of a vector access, in their order; the first that fails traps at the lowest active lane that fails it. That of
active lanes in different memories the lowest one in another memory than the first's is charged is log entry 51. -/
def Obligations.VectorAccessTraps : Prop :=
  ∀ (i : Instr) (s : State) (v : VecAccess), vecAccess s i = some v →
    let place := fun (j : Nat) => localOf (v.at_ j).toNat v.bytes
    let first := (s.actives v.pred v.lanes).head?.bind place
    let outside := fun (j : Nat) => place j == none || place j != first || (v.benchOnly && place j != some .bench)
      || (place j == some .loft && !v.store && !s.holdsBays s.cur (v.at_ j).toNat v.bytes)
    let foreign := fun (j : Nat) => place j == some .bench && !decide (∀ h ∈ s.me.handles.toList, h.size ≠ 0 →
      (v.at_ j).toNat < h.base.toNat + h.size.toNat → h.base.toNat < (v.at_ j).toNat + v.bytes → h.o = 0)
    let trapsWith := fun (cause : BitVec 5) (j : Nat) => ∃ t : TrapRecord, t.cause = cause ∧ t.cls = 0 ∧ t.av = true ∧ t.loc = true
      ∧ t.slots = 0b0000100 ∧ t.faddr = (v.at_ j).setWidth 57 ∧ Traps i s 2 2 t
    match lowestLane s v v.misaligned, lowestLane s v outside, lowestLane s v foreign with
    | some j, _, _ => trapsWith 0x07 j
    | none, some j, _ => trapsWith 0x05 j
    | none, none, some j => trapsWith 0x06 j
    | none, none, none => v.store = true → ∀ j, lowestLane s v (fun _ => true) = some j → place j = some .loft → trapsWith 0x11 j

/-- R138, R139: VPATLD of an aligned, owned, unpoisoned bench range loads a back bank with latency 4, and traps otherwise; VPATSW exchanges
the banks of every entry, and waits for the loads of earlier issues. -/
def Obligations.PatternMemory : Prop :=
  (∀ bt a (e : BitVec 6) (s : State),
      let ad := (s.me.readS a).toNat
      let trapsWith := fun (cause : BitVec 5) => ∃ t : TrapRecord, t.cause = cause ∧ t.av = true ∧ t.loc = true
        ∧ t.faddr = (s.me.readS a).setWidth 57 ∧ Traps (.vpatld bt a e) s 2 2 t
      (ad % 128 = 0 → s.me.mayUse ad 128 → s.me.clean ad 128 → Mem.wf s.me.bench = true → s.roomFor 4 →
        exec (.vpatld bt a e) s = .next ((s.issued 2 2).awaits (s.due 4 [.pat e (BitVec.ofNat 1024 (s.benchNat ad 128))])))
      ∧ (ad % 128 ≠ 0 → trapsWith 0x07) ∧ (ad % 128 = 0 → 0x80000 < ad + 128 → trapsWith 0x05)
      ∧ (ad % 128 = 0 → ad + 128 ≤ 0x80000 → ¬s.me.mayUse ad 128 → trapsWith 0x06))
    ∧ (∀ bt (s : State), (∀ p ∈ s.me.pend, ∀ w ∈ p.writes, ∀ e v, w ≠ .pat e v) → Changes (.vpatsw bt) s 2 1 fun k =>
      { k with patFront := k.patBack, patBack := k.patFront })
    ∧ (∀ bt (s : State) (p : Pending) (e : BitVec 6) (v : VReg), p ∈ s.me.pend → .pat e v ∈ p.writes → p.due < s.me.cycleNat + 4 →
      ∃ d, p.due ≤ d ∧ d < s.me.cycleNat + 4 ∧ Holds (.vpatsw bt) s 2 1 (.until d))

/-! ### The matrix slot and its engine -/

/-- An operation that the M slot queues: its opcode, the scalar register it copies, and its words (R153, R249). -/
def queuedOp : Instr → Option (Nat × BitVec 5 × Nat)
  | .mcall .. => some (0x01, 0, 1)
  | .mlatch .. => some (0x03, 0, 1)
  | .maccz .. => some (0x04, 0, 1)
  | .mretire _ _ a .. => some (0x05, a, 1)
  | .mupld _ _ a .. => some (0x06, a, 2)
  | .rtload _ a .. => some (0x10, a, 1)
  | .rgrid .. => some (0x11, 0, 1)
  | .rgridOff .. => some (0x11, 0, 1)
  | .rmode .. => some (0x12, 0, 1)
  | .rstep _ a => some (0x13, a, 1)
  | .rload .. => some (0x14, 0, 1)
  | .rstore .. => some (0x15, 0, 1)
  | .rhalox _ _ a => some (0x16, a, 1)
  | .rhaloi _ _ a => some (0x17, a, 1)
  | .rcensus _ a => some (0x18, a, 1)
  | _ => none

/-- R172 to R174: MSETP sets a parameter register or adds to it; MFMT writes the explicit record with cursors from m5 to m7; MWAIT issues
where the engine is idle and holds its bundle where it is not. R38, R153, R249: a matrix or rule operation enters the engine's queue of
four with copies of the registers it uses, and nothing else happens; where the queue is full, closed or reloading, its bundle is held. -/
def Obligations.MatrixParametersAndQueue : Prop :=
  ((∀ bt m a, GivesAtOnce (.msetp bt m a 0) 4 1 fun s => [.m m (s.me.readS a)])
     ∧ (∀ bt m a, GivesAtOnce (.msetp bt m a 1) 4 1 fun s => [.m m (s.me.m[m.toNat] + s.me.readS a)])
     ∧ (∀ bt a b c r t s, Changes (.mfmt bt a b c r t) s 4 1 fun k => { k with matrix := { k.matrix with
         expl := ⟨a, b, c, r, t, k.m[5], k.m[6], k.m[7]⟩ } })
     ∧ (∀ bt s, let m := s.me.matrix
         let idle := m.queue = [] ∧ m.running = none ∧ m.fault = none ∧ m.fetches = [] ∧ (∀ e : Fin 4, m.latches[e].loading = false)
           ∧ ∀ w ∈ s.hub.egress, w.core = s.cur → w.eng ≠ 2
         (idle → exec (.mwait bt) s = .next (s.issued 4 1)) ∧ (¬idle → Holds (.mwait bt) s 4 1 .mwait)))
  ∧ (∀ (i : Instr) (op : Nat) (a : BitVec 5) (words : Nat) (s : State), queuedOp i = some (op, a, words) →
       let m := s.me.matrix
       (m.closed = true ∨ m.reloading = true ∨ 4 ≤ m.queue.length → Holds i s 4 words .accept)
         ∧ (m.closed = false → m.reloading = false → m.queue.length < 4 → ∃ o : MatOp,
           o.instr = i ∧ o.j = 0 ∧ o.m = s.me.m ∧ o.a = s.me.readS a ∧ o.expl = m.expl ∧ o.cur = s.me.currentFmt
             ∧ o.bound = s.me.inForce.bound ∧ o.psnTrap = s.me.inForce.mode.getLsbD 3 ∧ o.charge.op = op ∧ o.charge.slot = 4 ∧ o.rows = 0
             ∧ Changes i s 4 words fun k => { k with
               matrix := { k.matrix with
                 queue := k.matrix.queue ++ [o], accepted := k.matrix.accepted + 1
                 retiredAt := if k.matrix.queue.isEmpty && k.matrix.running.isNone then k.cycleNat else k.matrix.retiredAt } }))

/-- The operations whose start changes nothing but the queue. -/
def startsPlainly : Instr → Bool
  | .mupld .. | .rtload .. | .rmode .. | .rstep .. | .rload .. | .rstore .. | .rhalox .. | .rhaloi .. | .rcensus .. => true
  | _ => false

/-- R240, R251, R258: a running RLOAD or RSTORE on a grid that its band lies in, where its local operand or destination is the core's own bench,
or where the virtual bytes of its next row can be read or written: that row moves and is counted; with the last one ROWP is 0 again. -/
def bandEffects (s : State) (c : CoreNo) (o : MatOp) (g : Grid) (m y : BitVec 3) (r : BitVec 11) : Prop :=
  let k := s.core c
  let rows := r.toNat + 1
  let rb := g.width * g.cw / 8
  let a := o.m[m.toNat] + BitVec.ofNat 64 (o.j * (rows * rb))
  let at_ := a + BitVec.ofNat 64 (o.rows * rb)
  let y0 := (o.m[y.toNat]).toNat + o.j * rows
  let cell := g.base + (y0 + o.rows) * rb
  let done := fun (t : State) (f : Core → Core) => exec (.matrixOperationComplete c) s = .next (
    if o.rows + 1 < rows then t.updCore c fun k => { f k with
      matrix := { (f k).matrix with running := some { o with rows := o.rows + 1 } }
      ctl := { k.ctl with rowp := BitVec.ofNat 7 (o.rows + 1) } }
    else (t.updCore c fun k => { f k with ctl := { k.ctl with rowp := 0 } }).matrixDone c true)
  let loads := fun (t : State) (f : Nat → Byte) => ∃ acc : Mem,
    (∀ x, acc.read x = if cell ≤ x ∧ x < cell + rb then f (x - cell) else k.matrix.acc.read x)
      ∧ done t fun k => { k with matrix := { k.matrix with acc := acc } }
  k.matrix.grid = some g → o.rows < rows → 0 < rb → Mem.wf k.matrix.acc = true → (o.m[y.toNat]).toNat < 2048 → y0 + rows ≤ g.height →
    a.toNat % 32 = 0 →
    (∀ bt, o.instr = .rload bt m y 0 r → k.mayUse a.toNat (rows * rb) → (o.rows = 0 → k.clean a.toNat (rows * rb)) →
        loads s fun x => s.benchByte c (at_.toNat + x))
      ∧ (∀ bt (bs : List Byte), o.instr = .rload bt m y 1 r → (s.engineReach c true at_ rb).engineVread c at_ rb = .ok bs →
        loads (s.engineReach c true at_ rb) fun x => bs.getD x 0)
      ∧ (∀ bt, o.instr = .rstore bt m y 0 r → k.mayUse a.toNat (rows * rb) → ∃ b : Mem,
        (∀ x, b.read x = if at_.toNat ≤ x ∧ x < at_.toNat + rb then k.matrix.acc.read (cell + (x - at_.toNat)) else s.benchByte c x)
          ∧ done s fun k => { k with bench := b })
      ∧ (∀ bt u, o.instr = .rstore bt m y 1 r → s.engineVwrite c 2 at_ (k.matrix.acc.bytes cell rb) = (u, .ok ()) → done u id)

/-- R259: how many cells a side's strip has, and the place of cell `i` of it, in the grid (`out`) or beside it: whole frame rows to the north (0)
and south (2), the interior's rows to the east (1) and west (3). -/
def stripCount (g : Grid) (side : BitVec 2) : Nat := if side = 0 ∨ side = 2 then g.halo * g.frameWidth else g.height * g.halo

def stripPlace (g : Grid) (side : BitVec 2) (out : Bool) (i : Nat) : Int × Int :=
  let h : Int := g.halo
  let row : Int := (i / g.frameWidth : Nat)
  let x : Int := (i % g.frameWidth : Nat) - h
  let col : Int := (i % g.halo : Nat)
  let y : Int := (i / g.halo : Nat)
  if side = 0 then (x, if out then row else row - h)
  else if side = 1 then (if out then g.width - h + col else g.width + col, y)
  else if side = 2 then (x, if out then g.height - h + row else g.height + row)
  else (if out then col else col - h, y)

/-- R240, R251, R259: a running RHALOX writes the packed codes of the strip beside a side, the bits after them 0; a running RHALOI puts the
codes of a strip into the halo of a side, whose count becomes the grid's halo. -/
def stripEffects (s : State) (c : CoreNo) (o : MatOp) (g : Grid) (side : BitVec 2) : Prop :=
  let k := s.core c
  let m := k.matrix
  let n := (stripCount g side * g.cw + 127) / 128 * 16
  let index := fun (out : Bool) (i : Nat) => g.frameIndex (stripPlace g side out i).1 (stripPlace g side out i).2
  let code := fun (f : Nat → Byte) (i : Nat) => (f (i * g.cw / 8)).toNat / 2 ^ (i * g.cw % 8) % 2 ^ g.cw
  let cell := fun (i : Nat) =>
    let (x, y) := stripPlace g side true i
    if 0 ≤ x ∧ x < g.width ∧ 0 ≤ y ∧ y < g.height then (m.cells g).getD (y * g.width + x).toNat 0 else (m.halo.read (index true i)).toNat
  m.grid = some g → (g.cw = 2 ∨ g.cw = 4) → 0 < g.halo → Mem.wf m.halo = true → ¬((side = 0 ∨ side = 2) ∧ g.height < g.halo) →
    o.a.toNat % 16 = 0 → k.mayUse o.a.toNat n →
    (∀ bt a, o.instr = .rhalox bt side a → ∃ b : Mem,
        (∀ i, i * g.cw < 8 * n → code (fun x => b.read (o.a.toNat + x)) i = if i < stripCount g side then cell i % 2 ^ g.cw else 0)
          ∧ (∀ x, ¬(o.a.toNat ≤ x ∧ x < o.a.toNat + n) → b.read x = s.benchByte c x)
          ∧ exec (.matrixOperationComplete c) s = .next ((s.updCore c fun k => { k with bench := b }).matrixDone c true))
      ∧ (∀ bt a, o.instr = .rhaloi bt side a → k.clean o.a.toNat n → ∃ halo : Mem,
        (∀ i < stripCount g side, halo.read (index false i) = BitVec.ofNat 8 (code (fun x => s.benchByte c (o.a.toNat + x)) i))
          ∧ (∀ x, (∀ i < stripCount g side, index false i ≠ x) → halo.read x = m.halo.read x)
          ∧ exec (.matrixOperationComplete c) s = .next ((s.updCore c fun k =>
            let full := BitVec.ofNat 4 g.halo
            { k with
              matrix := { k.matrix with halo := halo }
              ctl := if side = 0 then { k.ctl with hln := full } else if side = 1 then { k.ctl with hle := full }
                else if side = 2 then { k.ctl with hls := full } else { k.ctl with hlw := full } }).matrixDone c true))

/-- R146, R152, R153, R155, R175 to R178, R255: what a queued operation does where it starts. R153, R161, R178, R179, R254, R256 to R259,
R261: what a running operation does where it completes. -/
def Obligations.MatrixOperationEvents : Prop :=
  (∀ (s : State) (c : CoreNo) (o : MatOp) (rest : List MatOp), s.MayStart c o rest →
     let k := s.core c
     let starts := fun (f : Matrix → Matrix) =>
       exec (.matrixOperationStart c) s = .next (s.onMatrix c fun m => f { m with queue := rest, running := some o })
     (∀ bt n, o.instr = .mcall bt n → (k.matrix.udir[n.toNat]).2 ≠ 0 → starts fun m => { m with
         routine := some { rout := n, first := (k.matrix.udir[n.toNat]).1.toNat, len := (k.matrix.udir[n.toNat]).2.toNat, w := o.m
                           active := o.expl, asc := o.expl.asb, bsc := o.expl.bsb, bssc := o.expl.bssb } })
       ∧ (∀ bt n, o.instr = .mcall bt n → (k.matrix.udir[n.toNat]).2 = 0 → exec (.matrixOperationStart c) s
         = .next ((s.onMatrix c fun m => { m with queue := rest }).matrixFault c o (some (n, 0)) { cause := 0x0D }))
       ∧ (∀ bt e b kk f, o.instr = .mlatch bt e b 1 kk f → ∀ mode, arrayMode (o.record f).af.toNat (o.record f).bf.toNat = some mode →
         mode.kOk (kk.toNat + 1) = true → (kk.toNat + 1) * 128 * elemBits (o.record f).bf.toNat / 8 ≤ 32768 →
         starts fun m => { m with latches := m.latches.set e.toNat { loading := true, fmt := (o.record f).bf, k := kk.toNat + 1, source :=
           { addr := o.m[b.toNat] + BitVec.ofNat 64 (o.j * ((kk.toNat + 1) * 128 * elemBits (o.record f).bf.toNat / 8)), virt := true
             bsc := (o.record f).bsb, bssc := (o.record f).bssb, charge := o.charge, psnTrap := o.psnTrap } } })
       ∧ (∀ bt m t, o.instr = .maccz bt m → k.matrix.names (o.tileAddr o.m[m.toNat]) t → ∃ acc : Mem,
         (∀ a, acc.read a = if t * 0x10000 ≤ a ∧ a < (t + 1) * 0x10000 then 0 else k.matrix.acc.read a)
           ∧ starts fun m => { m with acc := acc, live := m.live ||| (1#8 <<< t) })
       ∧ (∀ bt m t, o.instr = .maccz bt m → (o.tileAddr o.m[m.toNat]).toNat = t * 0x10000 → t < 8 → k.matrix.gridTiles.getLsbD t = true →
         exec (.matrixOperationStart c) s = .next ((s.onMatrix c fun m => { m with queue := rest }).matrixFault c o none { cause := 0x0D }))
       ∧ (∀ bt x w h cw g, o.instr = .rgrid bt x w h cw g → k.matrix.grid = none →
         let grid : Grid := { tile := x.toNat, width := 128 * (w.toNat + 1), height := h.toNat + 1, cw := if cw = 1 then 4 else 2
                              halo := g.toNat + 1 }
         k.matrix.live &&& grid.tiles = 0 → exec (.matrixOperationStart c) s = .next (s.updCore c fun k => { k with
           matrix := { k.matrix with queue := rest, running := some o, grid := some grid, halo := [], live := k.matrix.live ||| grid.tiles
                                     gridTiles := grid.tiles }
           ctl := { k.ctl with hln := BitVec.ofNat 4 (g.toNat + 1), hls := BitVec.ofNat 4 (g.toNat + 1), hle := BitVec.ofNat 4 (g.toNat + 1)
                               hlw := BitVec.ofNat 4 (g.toNat + 1) } }))
       ∧ (∀ bt m a f keep t, o.instr = .mretire bt m a 0 f keep → k.matrix.names (o.tileAddr o.m[m.toNat]) t → o.j = 0 →
         (o.record f).cf.toNat ≤ 9 → arrayMode (o.record f).af.toNat (o.record f).bf.toNat ≠ none → o.a.toNat % 64 = 0 →
         k.mayUse o.a.toNat (16384 * (elemBits (o.record f).cf.toNat / 8)) →
         starts fun m => if keep = 0 then { m with live := m.live &&& ~~~(1#8 <<< t) } else m)
       ∧ (∀ bt m a v f keep t, o.instr = .mretire bt m a v f keep → k.matrix.names (o.tileAddr o.m[m.toNat]) t →
         9 < (o.record f).cf.toNat ∨ arrayMode (o.record f).af.toNat (o.record f).bf.toNat = none →
         exec (.matrixOperationStart c) s = .next ((s.onMatrix c fun m => { m with queue := rest }).matrixFault c o none { cause := 0x0D }))
       ∧ (startsPlainly o.instr = true → starts id))
  ∧ (∀ (s : State) (c : CoreNo) (o : MatOp) (g : Grid), s.Runs c o none → Mem.wf (s.core c).bench = true →
       (∀ m y r, bandEffects s c o g m y r) ∧ ∀ side, stripEffects s c o g side)
  ∧ (∀ (s : State) (c : CoreNo) (o : MatOp), s.Runs c o none → Mem.wf (s.core c).bench = true →
       let k := s.core c
       let completes := fun (t : State) (point : Bool) => exec (.matrixOperationComplete c) s = .next (t.matrixDone c point)
       ((match o.instr with | .mlatch .. | .maccz .. => True | _ => False) → completes s false)
         ∧ ((match o.instr with | .rgrid .. | .rgridOff .. => True | _ => False) → completes s true)
         ∧ (∀ bt n a word cnt, o.instr = .mupld bt n a word cnt → o.a.toNat % 8 = 0 → k.mayUse o.a.toNat (8 * (cnt.toNat + 1)) →
           k.clean o.a.toNat (8 * (cnt.toNat + 1)) → ∃ m : Mem,
           (∀ b, m.read b = if 8 * word.toNat ≤ b ∧ b < 8 * (word.toNat + cnt.toNat + 1) then s.benchByte c (o.a.toNat + b - 8 * word.toNat)
             else k.matrix.ustore.read b)
             ∧ completes (s.onMatrix c fun x => { x with ustore := m, udir := x.udir.set n.toNat (word, BitVec.ofNat 12 (cnt.toNat + 1)) }) false)
         ∧ (∀ bt n i u x y t p, o.instr = .rmode bt n i u x y t p → completes (s.onMatrix c fun m => { m with mode := ⟨n, i, u, x, y, t, p⟩ }) true)
         ∧ (∀ bt a, o.instr = .rstep bt a → k.matrix.grid = none →
           exec (.matrixOperationComplete c) s = .next (s.matrixFault c o none { cause := 0x0E }))
         ∧ (∀ bt a g, o.instr = .rstep bt a → k.matrix.grid = some g → ¬(k.matrix.mode.ix = 0 ∧ g.cw = 4) →
           o.a.toNat % 2 ^ 32 ≤ k.ctl.genCount.toNat → completes s true)
         ∧ (∀ bt a f n, o.instr = .rtload bt a f n → o.a.toNat % 32 = 0 → k.mayUse o.a.toNat (32 * (n.toNat + 1)) → k.clean o.a.toNat (32 * (n.toNat + 1)) → ∃ m : Mem,
           (∀ e, m.read e = if 64 * f.toNat ≤ e ∧ e < 64 * (f.toNat + n.toNat + 1)
             then BitVec.ofNat 8 ((s.benchByte c (o.a.toNat + (e - 64 * f.toNat) / 2)).toNat / 16 ^ ((e - 64 * f.toNat) % 2) % 16)
             else k.matrix.rules.read e) ∧ completes (s.onMatrix c fun x => { x with rules := m }) true)
         ∧ (∀ bt a g, o.instr = .rcensus bt a → k.matrix.grid = some g → o.a.toNat % 64 = 0 → k.mayUse o.a.toNat 64 → ∃ m : Mem,
           (∀ b, m.read b = if o.a.toNat ≤ b ∧ b < o.a.toNat + 64
             then BitVec.ofNat 8 (((k.matrix.cells g).count ((b - o.a.toNat) / 4)) / 256 ^ ((b - o.a.toNat) % 4)) else s.benchByte c b)
             ∧ completes (s.updCore c fun x => { x with bench := m }) true)
         ∧ (∀ bt m a f keep t, o.instr = .mretire bt m a 0 f keep → k.matrix.names (o.tileAddr o.m[m.toNat]) t → o.j = 0 → o.rows < 128 →
           let rec_ := if f = 1 then o.cur else o.expl
           let n := elemBits rec_.cf.toNat / 8
           let at_ := o.a.toNat + o.rows * 128 * n
           rec_.cf.toNat ≤ 9 → arrayMode rec_.af.toNat rec_.bf.toNat ≠ none → o.a.toNat % 64 = 0 → k.mayUse o.a.toNat (16384 * n) → ∃ b acc : Mem, ∃ fl : List Fl,
             (∀ col < 128, b.num (at_ + col * n) n
               = (convert rec_.cf.toNat rec_.rm.toNat (rec_.sat == 1) false (Fmt.f32.decode (k.matrix.elem t o.rows col))).1 % 2 ^ (8 * n))
             ∧ (∀ x, ¬(at_ ≤ x ∧ x < at_ + 128 * n) → b.read x = s.benchByte c x)
             ∧ (∀ x, acc.read x = if keep = 0 ∧ t * 0x10000 ≤ x ∧ x < (t + 1) * 0x10000 then 0 else k.matrix.acc.read x)
             ∧ fl = ((List.range 16384).map fun e =>
               (convert rec_.cf.toNat rec_.rm.toNat (rec_.sat == 1) false (Fmt.f32.decode (k.matrix.elem t (e / 128) (e % 128)))).2)
             ∧ (o.rows < 127 → exec (.matrixOperationComplete c) s = .next (s.updCore c fun x => { x with
               bench := b, matrix := { x.matrix with running := some { o with rows := o.rows + 1 } } }))
             ∧ (o.rows = 127 → completes (((s.updCore c fun x => { x with bench := b }).raiseFlags c o.charge fl).onMatrix c fun x =>
               { x with acc := acc, live := if keep = 0 then x.live &&& ~~~(1#8 <<< t) else x.live }) true)))

/-- R157, R161 to R163: the micro-ops that touch no operand, in a routine that runs on the current core. R158 to R160, R162: the micro-ops
on operands: UACC of live tiles, ULATCH from a FULL handle and from far memory, UFETCH into a FREE handle. -/
def Obligations.RoutineMicroOps : Prop :=
  (∀ (s : State) (o : MatOp) (r : Routine), s.Runs s.cur o (some r) →
     let formats := fun (f : FmtRec) => { r with idx := r.idx + 1, active := f, asc := f.asb, bsc := f.bsb, bssc := f.bssb, bc := 0 }
     (∀ n, MicroGoes (.upass n) s s { r with idx := r.idx + 1 }) ∧ exec .uend s = .next (s.matrixDone s.cur false)
       ∧ (∀ af bf, MicroGoes (.ufmt 0 af bf) s s (formats o.expl) ∧ MicroGoes (.ufmt 1 af bf) s s (formats o.cur)
         ∧ MicroGoes (.ufmt 2 af bf) s s (formats { o.expl with af := af, bf := bf }))
       ∧ (∀ (l : BitVec 2) (count : BitVec 8) (target : BitVec 11), target.toNat ≤ r.idx →
         let left := match r.lc[l.toNat] with | none => count.toNat | some n => n - 1
         (left ≠ 0 → MicroGoes (.uloop l count target) s s { r with idx := target.toNat, lc := r.lc.set l.toNat (some left) })
           ∧ (left = 0 → MicroGoes (.uloop l count target) s s { r with idx := r.idx + 1, lc := r.lc.set l.toNat none }))
       ∧ (∀ l count (target : BitVec 11), r.idx < target.toNat → MicroFaults (.uloop l count target) s o r)
       ∧ (∀ mr : BitVec 3, (r.w[mr.toNat]).toNat ≤ 127 → MicroGoes (.urowp mr) s (s.updCore s.cur fun k =>
           { k with ctl := { k.ctl with rowp := (r.w[mr.toNat]).setWidth 7 } }) { r with idx := r.idx + 1 })
       ∧ (∀ mr : BitVec 3, 127 < (r.w[mr.toNat]).toNat → MicroFaults (.urowp mr) s o r)
       ∧ (∀ h, ((s.me).handle h).st = 2 → MicroGoes (.uwait h) s s { r with idx := r.idx + 1 })
       ∧ (∀ h, ((s.me).handle h).st ≠ 2 → exec (.uwait h) s = .next s))
  ∧ (∀ (s : State) (o : MatOp) (r : Routine), s.Runs s.cur o (some r) →
       let k := s.me
       (∀ (ms md : BitVec 3) (a b : Nat), k.matrix.names r.w[ms.toNat] a → k.matrix.names r.w[md.toNat] b → k.matrix.live.getLsbD a = true →
           k.matrix.live.getLsbD b = true → Mem.wf k.matrix.acc = true → ∃ m : Matrix,
           (∀ row < 128, ∀ col < 128, m.elem b row col = fp32Add (k.matrix.elem b row col) (k.matrix.elem a row col) % 2 ^ 32)
             ∧ (∀ x, ¬(b * 0x10000 ≤ x ∧ x < (b + 1) * 0x10000) → m.acc.read x = k.matrix.acc.read x)
             ∧ MicroGoes (.uacc ms md) s (s.onMatrix s.cur fun x => { x with acc := m.acc }) { r with idx := r.idx + 1 })
         ∧ (∀ (ms md : BitVec 3) (a b : Nat), k.matrix.names r.w[ms.toNat] a → k.matrix.names r.w[md.toNat] b →
           ¬(k.matrix.live.getLsbD a = true ∧ k.matrix.live.getLsbD b = true) → MicroFaults (.uacc ms md) s o r)
         ∧ (∀ (u : LatchU) (mode : ArrayMode), arrayMode r.active.af.toNat r.active.bf.toNat = some mode → mode.kOk (u.k.toNat + 1) = true →
           let f := r.active.bf
           let n := (u.k.toNat + 1) * 128 * elemBits f.toNat / 8
           let blocks := panelBlocks f.toNat (u.k.toNat + 1)
           let src : LatchSource := { bsc := r.bsc, bssc := r.bssc, bc := r.bc, charge := o.charge, psnTrap := o.psnTrap
                                      micro := some (r.rout, BitVec.ofNat 11 r.idx) }
           let r' := { r with
             idx := r.idx + 1, bsc := r.bsc + BitVec.ofNat 64 blocks, bc := if f = 13 then r.bc + blocks else r.bc
             w := if u.pi = 1 then r.w.set u.mb.toNat (r.w[u.mb.toNat] + BitVec.ofNat 64 n) else r.w }
           n ≤ 32768 → (k.matrix.latches[u.e.toNat]).loading = false →
           (u.tb = 1 → (k.handle u.h).st = 2 → n ≤ (k.handle u.h).size.toNat → (k.handle u.h).psn = 0 →
             MicroGoes (.ulatch u) s ((s.updCore s.cur fun k => k.updHandle u.h fun x =>
                 if u.rel = 1 ∧ x.st = 2 ∧ x.o = 1 then { x with st := 0 } else x).onMatrix s.cur fun m =>
               { m with latches := m.latches.set u.e.toNat { loading := true, fmt := f, k := u.k.toNat + 1
                                                             panel := k.bench.bytes (k.handle u.h).base.toNat n
                                                             source := { src with handle := some u.h } } }) r')
             ∧ (u.tb = 1 → (k.handle u.h).st ≠ 2 → exec (.ulatch u) s = .next s)
             ∧ (u.tb = 0 → u.v = 1 → MicroGoes (.ulatch u) s (s.onMatrix s.cur fun m =>
               { m with latches := m.latches.set u.e.toNat { loading := true, fmt := f, k := u.k.toNat + 1
                                                             source := { src with addr := r.w[u.mb.toNat], virt := true } } }) r'))
         ∧ (∀ (h : BitVec 6) (md : BitVec 3), let a := r.w[md.toNat]
           let d := BitVec.ofNat 512 (k.bench.num a.toNat 64)
           a.toNat % 64 = 0 → k.mayUse a.toNat 64 → k.clean a.toNat 64 → Desc.valid d = true → Desc.aligned d = true →
           (Desc.base d).toNat < 2 ^ 57 → (k.handle h).ring = none → Desc.tileBytes d ≤ (k.handle h).size.toNat →
           ((k.handle h).st = 0 ∧ (k.handle h).o = 1 → ∃ m : CopyCmd, m.h = h ∧ m.desc = d ∧ m.base = (Desc.base d).toNat ∧ m.virt = true
             ∧ m.inbound = true ∧ m.pos = 0 ∧ m.extent = (Desc.dims d).map (fun i => ((Desc.extent d i : Nat) : Int))
             ∧ MicroGoes (.ufetch h md 1) s ((s.updCore s.cur fun k => k.updHandle h fun x =>
               { x with st := 1, o := 1, landed := 0, rd := 0, err := 0, fetch := true }).onMatrix s.cur fun x =>
                 { x with fetches := x.fetches ++ [m] }) { r with idx := r.idx + 1 })
             ∧ ((k.handle h).st ≠ 0 → exec (.ufetch h md 1) s = .next s)
             ∧ ((k.handle h).st = 0 → (k.handle h).o = 0 → exec (.ufetch h md 1) s = .next ((s.onMatrix s.cur fun m =>
               { m with routine := some r }).matrixFault s.cur o (some (r.rout, BitVec.ofNat 11 r.idx)) { cause := 0x05, hnd := some h }))))

/-- R159, R160, R163 to R166: USTEP does its row at ROWP: the row of A meets the panel of the latch, the tile row takes the sums, and the tile is
live. ROWP counts the row; after the last one it is 0 again and the routine goes on, with the early promotions of all rows in one event. `s0` is the state
in which the engine has come to its far operands: their translations cached, its die's earlier writes accepted (R223, R232). -/
def Obligations.UstepFinishesItsRow : Prop :=
  ∀ (s : State) (o : MatOp) (r : Routine) (u : StepU) (mode : ArrayMode) (t : Nat) (bs sc : List Byte), s.Runs s.cur o (some r) →
    let k := s.me
    let l := k.matrix.latches[u.e.toNat]
    let hd := k.handle u.h
    let kk := u.k.toNat + 1
    let rowBytes := kk * elemBits r.active.af.toNat / 8
    let pitch := if u.pe = 1 then (r.w[u.mp.toNat]).toNat % 2 ^ 32 else rowBytes
    let blocks := if 10 ≤ r.active.af.toNat ∧ r.active.af.toNat ≤ 12 then kk / 32 else 0
    let row := k.ctl.rowp.toNat
    let last := u.rows.toNat
    let s0 := s.reachRow s.cur r u pitch rowBytes
    arrayMode r.active.af.toNat r.active.bf.toNat = some mode → mode.kOk kk = true → l.valid = true → l.loading = false → l.fmt = r.active.bf → l.k = kk →
    k.matrix.names r.w[u.mc.toNat] t → row ≤ last → Mem.wf k.matrix.acc = true →
    (u.ta = 1 → hd.st = 2 ∧ last * pitch + rowBytes ≤ hd.size.toNat) →
    ((u.ta = 1 ∧ hd.psn = 0) ∨ (u.ta = 0 ∧ u.v = 1) ∨ (u.ta = 0 ∧ u.v = 0
      ∧ (r.begun = true ∨ ∀ i, row ≤ i → i ≤ last → (r.w[u.ma.toNat] + BitVec.ofNat 64 (i * pitch)).toNat < 0x20000000)
      ∧ k.clean (r.w[u.ma.toNat] + BitVec.ofNat 64 (row * pitch)).toNat rowBytes)
      ∨ (r.poisoned = true ∧ o.psnTrap = false ∧ (u.ta = 1 ∨ r.begun = true))) →
    (if u.ta = 1 then bs = k.bench.bytes (hd.base.toNat + row * pitch) rowBytes
      else s0.operand s.cur (u.v == 1) (r.w[u.ma.toNat] + BitVec.ofNat 64 (row * pitch)) rowBytes = .ok bs) →
    (if blocks = 0 then sc = [] else s0.engineVread s.cur r.asc blocks = .ok sc) →
    ∃ m : Matrix,
      let out := stepRow mode r.active.af.toNat r.active.bf.toNat kk (rowNums r.active.af.toNat kk bs) sc.toArray (l.asPanel mode)
        ((List.range 128).map (k.matrix.elem t row))
      let early := r.early + out.2
      let s1 := s0.updCore s.cur fun x => { x with
        matrix := { x.matrix with acc := m.acc, live := x.matrix.live ||| (1#8 <<< t) }
        ctl := { x.ctl with rowp := if row < last then BitVec.ofNat 7 (row + 1) else 0 } }
      let s2 := if early = 0 then s1 else s1.postEvent s.cur (o.charge.event 4 early (r.rout.toNat + r.idx % 2048 * 2 ^ 8))
      let r' := { r with
        idx := r.idx + 1, asc := r.asc + BitVec.ofNat 64 blocks, early := 0, poisoned := false, begun := false
        w := if u.pi = 1 then r.w.set u.ma.toNat (r.w[u.ma.toNat] + BitVec.ofNat 64 rowBytes) else r.w }
      (∀ col < 128, m.elem t row col = out.1.getD col 0 % 2 ^ 32)
        ∧ (∀ x, ¬(t * 0x10000 + row * 512 ≤ x ∧ x < t * 0x10000 + (row + 1) * 512) → m.acc.read x = k.matrix.acc.read x)
        ∧ (row < last → MicroGoes (.ustep u) s s1 { r with asc := r.asc + BitVec.ofNat 64 blocks, early := early, begun := true })
        ∧ (row = last → MicroGoes (.ustep u) s (if u.ta = 1 then s2.updCore s.cur fun k => k.updHandle u.h fun x =>
            if u.rel = 1 ∧ x.st = 2 ∧ x.o = 1 then { x with st := 0 } else x else s2) r')

/-- Cell (x, y) of the grid as the tiles hold it (R240, R241). -/
def gridCell (m : Matrix) (g : Grid) (x y : Nat) : Nat := (m.cells g).getD (y * g.width + x) 0

/-- The cell that a read of (x, y) meets where no side has the HALO boundary: BOUND outside, or the cell at the other side (R242). -/
def boundCell (m : Matrix) (g : Grid) (bound : Nat) (x y : Int) : Nat :=
  if ((x < 0 ∨ g.width ≤ x) ∧ m.mode.bx = 1) ∨ ((y < 0 ∨ g.height ≤ y) ∧ m.mode.by_ = 1) then bound % 2 ^ g.cw
  else gridCell m g (x % g.width).toNat (y % g.height).toNat

/-- R240 to R245, R257: RSTEP of a grid in SYNC mode whose sides have the BOUND or the WRAP boundary makes one generation: every cell takes
the table's code for its own and its neighbours' codes before, the generation count rises by one, and the operation ends with its target. -/
def Obligations.LoomGeneration : Prop :=
  ∀ (s : State) (c : CoreNo) (o : MatOp) (bt : BitVec 2) (a : BitVec 5) (g : Grid), s.Runs c o none → o.instr = .rstep bt a →
    let k := s.core c
    let m := k.matrix
    m.grid = some g → (g.cw = 2 ∨ (g.cw = 4 ∧ m.mode.ix = 1)) → 0 < g.width → g.width % 128 = 0 → 0 < g.height → g.base + g.bytes ≤ 0x80000 →
    m.mode.up = 0 → (m.mode.bx = 1 ∨ m.mode.bx = 2) → (m.mode.by_ = 1 ∨ m.mode.by_ = 2) → Mem.wf m.acc = true → Mem.wf m.rules = true →
    Mem.wf m.halo = true → k.ctl.genCount.toNat < o.a.toNat % 2 ^ 32 →
    ∃ t : State, exec (.matrixOperationComplete c) s = .next t
      ∧ (∀ x < g.width, ∀ y < g.height,
        let at_ := fun (dx dy : Int) => boundCell m g o.bound.toNat (x + dx) (y + dy)
        let own := at_ 0 0
        let edges := at_ 0 (-1) + at_ 1 0 + at_ 0 1 + at_ (-1) 0
        let corners := at_ (-1) (-1) + at_ 1 (-1) + at_ (-1) 1 + at_ 1 1
        let index := if m.mode.ix = 0 then own * 256 + at_ 0 (-1) * 64 + at_ 1 0 * 16 + at_ 0 1 * 4 + at_ (-1) 0
          else own * 128 + edges + if m.mode.nb = 1 then corners else 0
        gridCell (t.core c).matrix g x y = (m.rules.read ((m.mode.toff.toNat * 1024 + index) % 4096)).toNat % 2 ^ g.cw)
      ∧ (t.core c).ctl.genCount = k.ctl.genCount + 1
      ∧ (t.core c).matrix.running = (if o.a.toNat % 2 ^ 32 ≤ k.ctl.genCount.toNat + 1 then none else some o)
      ∧ (t.core c).bench = k.bench ∧ (t.core c).s = k.s ∧ (t.core c).handles = k.handles ∧ t.hbm = s.hbm

/-! ### The copy slots and their engines -/

/-- The 64-byte descriptor at a bench address (R190). -/
def descriptorAt (k : Core) (a : DWord) : BitVec 512 := BitVec.ofNat 512 (k.bench.num a.toNat 64)

/-- A tile command: whether it copies into a handle, its g and h fields, the scalar register of its descriptor, its address space, what
its descriptor must satisfy beside R192's general checks, and its base, extents and index array (R191, R197, R198). -/
structure TileOp where
  inbound : Bool
  g : BitVec 1
  h : BitVec 6
  a : BitVec 5
  virt : Bool
  more : BitVec 512 → Prop
  base : BitVec 512 → Int
  extent : BitVec 512 → List Int
  index : BitVec 512 → List Word

def tileOp (s : State) : Instr → Option TileOp
  | .copy _ g h a v sd => some ⟨true, g, h, a, v == 1, fun d => sd.toNat < Desc.ndim d, fun d => (Desc.base d).toNat,
      fun d => (Desc.dims d).map fun i => (Desc.extent d i : Int), fun _ => []⟩
  | .copyo _ g h a v sd => some ⟨false, g, h, a, v == 1, fun d => sd.toNat < Desc.ndim d, fun d => (Desc.base d).toNat,
      fun d => (Desc.dims d).map fun i => (Desc.extent d i : Int), fun _ => []⟩
  | .tilef _ g h a b v _ =>
    let x := (s.me.readS b).toNat % 2 ^ 32
    let y := (s.me.readS b).toNat / 2 ^ 32
    some ⟨true, g, h, a, v == 1, fun d => 2 ≤ Desc.ndim d,
      fun d => (Desc.base d).toNat + (x * Desc.count d 0 : Nat) * Desc.stride d 0 + (y * Desc.count d 1 : Nat) * Desc.stride d 1,
      fun d => (Desc.dims d).map fun i => (Desc.extent d i : Int) - if i = 0 then (x * Desc.count d 0 : Nat)
        else if i = 1 then (y * Desc.count d 1 : Nat) else 0, fun _ => []⟩
  | .gather _ g h a b v => some ⟨true, g, h, a, v == 1, fun d => Desc.ndim d = 2 ∧ (s.me.readS b).toNat % 4 = 0
        ∧ s.me.mayUse (s.me.readS b).toNat (4 * Desc.count d 1), fun d => (Desc.base d).toNat,
      fun d => (Desc.dims d).map fun i => (Desc.extent d i : Int),
      fun d => (List.range (Desc.count d 1)).map fun i => BitVec.ofNat 32 (s.me.bench.num ((s.me.readS b).toNat + 4 * i) 4)⟩
  | .scattr _ g h a b v => some ⟨false, g, h, a, v == 1, fun d => Desc.ndim d = 2 ∧ (s.me.readS b).toNat % 4 = 0
        ∧ s.me.mayUse (s.me.readS b).toNat (4 * Desc.count d 1), fun d => (Desc.base d).toNat,
      fun d => (Desc.dims d).map fun i => (Desc.extent d i : Int),
      fun d => (List.range (Desc.count d 1)).map fun i => BitVec.ofNat 32 (s.me.bench.num ((s.me.readS b).toNat + 4 * i) 4)⟩
  | _ => none

/-- Tile command `c` of state `s` passes every check of R192, may take handle `x`, an outbound one not poisoned (R184, R186, R188), and finds
room in C0's queue of eight (R189). -/
structure TileReady (i : Instr) (s : State) (c : TileOp) (x : BitVec 6) : Prop where
  align : (s.me.readS c.a).toNat % 64 = 0
  owned : s.me.mayUse (s.me.readS c.a).toNat 64
  valid : Desc.valid (descriptorAt s.me (s.me.readS c.a)) = true
  more : c.more (descriptorAt s.me (s.me.readS c.a))
  strides : Desc.aligned (descriptorAt s.me (s.me.readS c.a)) = true
  handle : if c.inbound then s.me.mayFill c.g c.h x else s.me.mayDrain c.g c.h x ∧ (s.me.handle x).psn = 0
  far : let d := descriptorAt s.me (s.me.readS c.a)
    if c.virt then (Desc.base d).toNat < 2 ^ 57
    else ({ instr := i, desc := d, base := c.base d, extent := c.extent d, index := c.index d, inbound := c.inbound } : CopyCmd).farOk = true
  size : Desc.tileBytes (descriptorAt s.me (s.me.readS c.a)) ≤ (s.me.handle x).size.toNat
  room : s.me.c0.queue.length < 8

/-- R182, R184, R188 to R192, R197, R198: COPY, COPYO, TILEF, GATHER and SCATTR in slot C0. Where every check of R192 passes, the handle can
be taken, an outbound one is not poisoned and the queue of eight has room, the command enters the queue. A descriptor that is misaligned,
outside the bench, or in a region that the core does not own traps. -/
def Obligations.TileCommandsAccepted : Prop :=
  (∀ bt g h a v sd s c x, tileOp s (.copy bt g h a v sd) = some c → TileReady (.copy bt g h a v sd) s c x → ∃ (t : State) (m : CopyCmd),
      exec (.copy bt g h a v sd) s = .next t ∧ t.me.c0.queue = s.me.c0.queue ++ [m] ∧ m.h = x ∧ (t.me.handle x).st = 1)
  ∧ (∀ bt g h a v sd s c x, tileOp s (.copyo bt g h a v sd) = some c → TileReady (.copyo bt g h a v sd) s c x → ∃ (t : State) (m : CopyCmd),
      exec (.copyo bt g h a v sd) s = .next t ∧ t.me.c0.queue = s.me.c0.queue ++ [m] ∧ m.h = x ∧ (t.me.handle x).st = 3)
  ∧ (∀ bt g h a b v sd s c x, tileOp s (.tilef bt g h a b v sd) = some c → TileReady (.tilef bt g h a b v sd) s c x → ∃ (t : State) (m : CopyCmd),
      exec (.tilef bt g h a b v sd) s = .next t ∧ t.me.c0.queue = s.me.c0.queue ++ [m] ∧ m.h = x ∧ (t.me.handle x).st = 1)
  ∧ (∀ bt g h a b v s c x, tileOp s (.gather bt g h a b v) = some c → TileReady (.gather bt g h a b v) s c x → ∃ (t : State) (m : CopyCmd),
      exec (.gather bt g h a b v) s = .next t ∧ t.me.c0.queue = s.me.c0.queue ++ [m] ∧ m.h = x ∧ (t.me.handle x).st = 1)
  ∧ (∀ bt g h a b v s c x, tileOp s (.scattr bt g h a b v) = some c → TileReady (.scattr bt g h a b v) s c x → ∃ (t : State) (m : CopyCmd),
      exec (.scattr bt g h a b v) s = .next t ∧ t.me.c0.queue = s.me.c0.queue ++ [m] ∧ m.h = x ∧ (t.me.handle x).st = 3)
  ∧ ∀ (i : Instr) (s : State) (c : TileOp) (x : BitVec 6), tileOp s i = some c →
    let ad := s.me.readS c.a
    let d := descriptorAt s.me ad
    let trapsWith := fun (cause : BitVec 5) => ∃ t : TrapRecord, t.cause = cause ∧ t.hv = true ∧ t.hnd = c.h ∧ t.av = true ∧ t.loc = true
      ∧ t.faddr = ad.setWidth 57 ∧ Traps i s 5 1 t
    (TileReady i s c x → ∃ m : CopyCmd,
          m.instr = i ∧ m.h = x ∧ m.desc = d ∧ m.base = c.base d ∧ m.extent = c.extent d ∧ m.index = c.index d ∧ m.virt = c.virt
            ∧ m.inbound = c.inbound ∧ m.pos = 0 ∧ m.landed = 0 ∧ m.rd = 0 ∧ m.started = false ∧ m.moved = false ∧ m.poison = false
            ∧ m.fault = none ∧ m.charge.slot = 5 ∧ m.no = s.me.c0.accepted + s.me.c1.accepted ∧ Changes i s 5 1 fun k => k.takes m c.g c.h x)
      ∧ (ad.toNat % 64 ≠ 0 → trapsWith 0x07) ∧ (ad.toNat % 64 = 0 → 0x80000 < ad.toNat + 64 → trapsWith 0x05)
      ∧ (ad.toNat % 64 = 0 → ad.toNat + 64 ≤ 0x80000 → ¬s.me.mayUse ad.toNat 64 → trapsWith 0x06)

/-- R184, R189, R192: a tile command whose destination, named by number, cannot be taken yet, or whose queue is full, holds its bundle where
every check passes; a destination that the core side holds traps. -/
def Obligations.TileCommandsHeld : Prop :=
  ∀ (bt : BitVec 2) (h : BitVec 6) (a : BitVec 5) (sd : BitVec 3) (s : State),
    let ad := s.me.readS a
    let d := descriptorAt s.me ad
    let hd := s.me.handle h
    ad.toNat % 64 = 0 → s.me.mayUse ad.toNat 64 → Desc.valid d = true → sd.toNat < Desc.ndim d → Desc.aligned d = true →
    (Desc.base d).toNat < 2 ^ 57 → hd.ring = none → hd.size ≠ 0 → Desc.tileBytes d ≤ hd.size.toNat →
    ((hd.st = 1 ∨ hd.st = 3 ∨ (hd.st = 2 ∧ hd.o = 1) ∨ (hd.st = 0 ∧ hd.o = 1 ∧ 8 ≤ s.me.c0.queue.length) →
        Holds (.copy bt 0 h a 1 sd) s 5 1 .accept)
      ∧ ((hd.st = 2 ∧ hd.o = 0) ∨ (hd.st = 0 ∧ hd.o = 0) → ∃ t : TrapRecord, t.cause = 0x05 ∧ t.hv = true ∧ t.hnd = h
        ∧ Traps (.copy bt 0 h a 1 sd) s 5 1 t)
      ∧ (hd.st = 1 ∨ hd.st = 3 → Holds (.copyo bt 0 h a 1 sd) s 5 1 .accept)
      ∧ (hd.st = 0 ∧ hd.o = 1 → ∃ t : TrapRecord, t.cause = 0x05 ∧ t.hv = true ∧ t.hnd = h ∧ Traps (.copyo bt 0 h a 1 sd) s 5 1 t))

/-- R182, R200, R202, R204: FLIP by the row that matches, and a trap on FILLING, DRAINING and ring members; HARM, HARM off and HPOIS, each
with its trap. -/
def Obligations.HandleOperations : Prop :=
  ∀ (bt : BitVec 2) (h : BitVec 6) (s : State),
    let hd := s.me.handle h
    let trapsWith := fun (i : Instr) (cause : BitVec 5) => ∃ t : TrapRecord, t.cause = cause ∧ t.hv = true ∧ t.hnd = h ∧ Traps i s 5 1 t
    let becomes := fun (i : Instr) (x : Handle) => Changes i s 5 1 fun k => { k with handles := k.handles.set h.toNat x }
    (hd.size ≠ 0 → hd.ring = none →
        (hd.st = 2 → hd.o = 0 → becomes (.flip bt h) { hd with st := 0, o := 1 })
          ∧ (hd.st = 0 → hd.o = 1 → becomes (.flip bt h) { hd with o := 0 })
          ∧ (hd.st = 0 → hd.o = 0 → becomes (.flip bt h) { hd with st := 2, o := 1 })
          ∧ (hd.st = 2 → hd.o = 1 → becomes (.flip bt h) { hd with o := 0 })
          ∧ (hd.st = 1 ∨ hd.st = 3 → trapsWith (.flip bt h) 0x05))
      ∧ (hd.ring ≠ none → trapsWith (.flip bt h) 0x05)
      ∧ (hd.size = 0 → trapsWith (.flip bt h) 0x05 ∧ trapsWith (.harmOff bt h) 0x05 ∧ (∀ a, trapsWith (.harm bt h a) 0x05)
        ∧ ∀ c, trapsWith (.hpois bt h c) 0x05)
      ∧ (hd.size ≠ 0 → becomes (.harmOff bt h) { hd with arm := false })
      ∧ (∀ a, hd.size ≠ 0 → (s.me.readS a).toNat % 16 = 0 → becomes (.harm bt h a) { hd with arm := true, entry := s.me.readS a })
      ∧ (∀ a, hd.size ≠ 0 → (s.me.readS a).toNat % 16 ≠ 0 → trapsWith (.harm bt h a) 0x07)
      ∧ (∀ c, hd.size ≠ 0 → hd.o = 0 → becomes (.hpois bt h c) { hd with psn := if c = 0 then 1 else 0, abort := false })
      ∧ (∀ c, hd.size ≠ 0 → hd.o = 1 → trapsWith (.hpois bt h c) 0x06)

/-- R187, R188, R200, R201: ADVP publishes the producer slot of an outbound ring, ADVC releases the consumer slot of an inbound one, each
waiting for its slot; RINGDEF of FREE handles defines a ring; a ring that is not defined, or of the wrong direction, traps. -/
def Obligations.RingOperations : Prop :=
  ∀ (bt : BitVec 2) (n : BitVec 3) (s : State),
    let trapsWith := fun (i : Instr) => ∃ t : TrapRecord, t.cause = 0x05 ∧ t.aux.toNat = n.toNat ∧ t.hv = false ∧ Traps i s 5 1 t
    (s.me.ring n.toNat = none → trapsWith (.advp bt n) ∧ trapsWith (.advc bt n))
      ∧ (∀ r, s.me.ring n.toNat = some r →
        let p := BitVec.ofNat 6 (r.f.toNat + r.p.toNat)
        let c := BitVec.ofNat 6 (r.f.toNat + r.c.toNat)
        (r.out = false → trapsWith (.advp bt n)) ∧ (r.out = true → trapsWith (.advc bt n))
          ∧ (r.out = true → (s.me.handle p).st = 0 → (s.me.handle p).o = 0 → Changes (.advp bt n) s 5 1 fun k =>
            (k.updHandle p fun x => { x with st := 2, o := 1 }).bumpRing n.toNat true)
          ∧ (r.out = true → ¬((s.me.handle p).st = 0 ∧ (s.me.handle p).o = 0) → Holds (.advp bt n) s 5 1 .accept)
          ∧ (r.out = false → (s.me.handle c).st = 2 → (s.me.handle c).o = 0 → Changes (.advc bt n) s 5 1 fun k =>
            (k.updHandle c fun x => { x with st := 0, o := 1 }).bumpRing n.toNat false)
          ∧ (r.out = false → ¬((s.me.handle c).st = 2 ∧ (s.me.handle c).o = 0) → Holds (.advc bt n) s 5 1 .accept))
      ∧ (∀ (f l : BitVec 6) (o : BitVec 1), s.me.ring n.toNat = none → f.toNat + l.toNat < 64 →
        (∀ i ≤ l.toNat, (s.me.handle (BitVec.ofNat 6 (f.toNat + i))).size ≠ 0 ∧ (s.me.handle (BitVec.ofNat 6 (f.toNat + i))).st = 0
          ∧ (s.me.handle (BitVec.ofNat 6 (f.toNat + i))).ring = none) →
        ∃ hs : Vector Handle 64,
          (∀ i : Fin 64, hs[i] = if f.toNat ≤ i.val ∧ i.val ≤ f.toNat + l.toNat then { s.me.handles[i] with ring := some n, o := ~~~o }
            else s.me.handles[i])
          ∧ Changes (.ringdef bt f l n o) s 5 1 fun k => { k with
            handles := hs, rings := k.rings.set n.toNat (some { f := f, l := BitVec.ofNat 7 (l.toNat + 1), out := o == 1 }) })

/-- R199, R203, R207, R209: FILLH, SEND, SACC and COLL in slot C0 take their handles and enter the queue; SACC joins the round of the
quantum under way (R208), COLL marks its crew's clusters for the slack window (R310). -/
def Obligations.EngineCommandsAccepted : Prop :=
  ∀ (bt : BitVec 2) (s : State), s.me.c0.queue.length < 8 →
    let taken := fun (i : Instr) (m : CopyCmd) (inbound : Bool) => m.instr = i ∧ m.inbound = inbound ∧ m.pos = 0 ∧ m.landed = 0 ∧ m.rd = 0
      ∧ m.started = false ∧ m.moved = false ∧ m.poison = false ∧ m.fault = none ∧ m.charge.slot = 5
    (∀ g h a x, s.me.mayFill g h x → ∃ m : CopyCmd, taken (.fillh bt g h a) m true ∧ m.h = x ∧ m.fill = (s.me.readS a).setWidth 8
        ∧ Changes (.fillh bt g h a) s 5 1 fun k => k.takes m g h x)
      ∧ (∀ g d h b, s.me.mayDrain 0 h h → (s.me.handle h).psn = 0 → s.coreOfRank s.cur (s.me.readS b).toNat ≠ none → ∃ m : CopyCmd,
        taken (.send bt g d h b) m false ∧ m.h = h ∧ m.rank = (s.me.readS b).toNat ∧ m.toRing = (g == 1) ∧ m.dest = d
          ∧ Changes (.send bt g d h b) s 5 1 fun k => k.takes m 0 h h)
      ∧ (∀ g d h b, s.me.mayDrain 0 h h → s.coreOfRank s.cur (s.me.readS b).toNat = none → ∃ t : TrapRecord, t.cause = 0x05 ∧ t.hv = true
        ∧ t.hnd = h ∧ Traps (.send bt g d h b) s 5 1 t)
      ∧ (∀ i v a o, s.me.mayDrain 0 i i → s.me.mayDrain 0 v v → (s.me.handle i).size = (s.me.handle v).size →
        (s.me.handle i).psn = 0 → (s.me.handle v).psn = 0 → (s.me.readS a).toNat % 4 = 0 → 0x10000000 ≤ (s.me.readS a).toNat →
        (s.me.readS a).toNat + 4 ≤ 0x10400000 → ∃ (m : CopyCmd) (q : SaccCmd), taken (.sacc bt i v a o) m false ∧ m.h = i ∧ m.dest = v
          ∧ q.core = s.cur ∧ q.hi = i ∧ q.hv = v ∧ q.base = s.me.readS a ∧ q.opc = o ∧ q.round = s.me.ctl.quantEnd.toNat + 1 ∧ q.pos = 0
          ∧ exec (.sacc bt i v a o) s = .next ((((s.beginSolo 5 1).updMe fun k =>
              (k.takes m 0 i i).updHandle v fun x => { x with st := 3, o := 1, landed := 0, rd := 0, err := 0 }).updCluster s.myCluster
                fun y => { y with sacc := y.sacc ++ [q] }).commitIssue true 0))
      ∧ (∀ h d a, s.me.mayDrain 0 h h → s.me.mayFill 0 d d → h ≠ d → (s.me.handle h).size.toNat ≤ (s.me.handle d).size.toNat →
        (s.me.handle h).psn = 0 → (s.me.readS a).toNat % 32 = 0 → s.me.mayUse (s.me.readS a).toNat 32 →
        CollDesc.valid (BitVec.ofNat 256 (s.me.bench.num (s.me.readS a).toNat 32)) = true → ∃ m : CopyCmd,
          taken (.coll bt h d a) m false ∧ m.h = h ∧ m.dest = d
          ∧ m.desc = (BitVec.ofNat 256 (s.me.bench.num (s.me.readS a).toNat 32)).setWidth 512
          ∧ exec (.coll bt h d a) s = .next ((((s.beginSolo 5 1).updMe fun k =>
              (k.takes m 0 h h).updHandle d fun x => { x with st := 1, o := 1, landed := 0, rd := 0, err := 0 }).markColl).commitIssue true 0))

/-- R182, R185, R191, R193, R199, R233: what a copy engine does with the command at the head of its queue: FILLH writes its region; a tile
command moves the element it has reached, at a moment of its own. An inbound element lands at its place in the handle's region, its far bytes
where it is inside and the pad element where it is not; an outbound one is written to its far place where it is inside: the own bench or yard, or
virtual memory, toward a stack of its own die at once, toward another die's through the egress (R232). The counts follow, and the command has
moved with its last element. `s0` is the state in which the engine has come to its far bytes (R214, R223, R232); a loft refresh that holds the
read posts its event once (R216). -/
def Obligations.CopyCommandsMove : Prop :=
  ∀ (s : State) (c : CoreNo) (eng : BitVec 1) (m : CopyCmd) (rest : List CopyCmd),
    (s.engine c eng.toNat).queue = m :: rest → m.moved = false → m.fault = none → (s.core c).ringClear (2 + eng.toNat) →
    Mem.wf (s.core c).bench = true →
    let k := s.core c
    let hd := k.handle m.h
    let b := hd.base.toNat
    let e := Desc.esize m.desc
    let n := Desc.elements m.desc
    let tile := match m.instr with | .copy .. | .copyo .. | .tilef .. | .gather .. | .scattr .. => True | _ => False
    ((∃ bt g h a, m.instr = .fillh bt g h a) → ∃ (m' : CopyCmd) (bench : Mem),
        (∀ x, bench.read x = if b ≤ x ∧ x < b + hd.size.toNat then m.fill else s.benchByte c x) ∧ m' = { m with landed := hd.size.toNat, rd := 0, moved := true }
          ∧ exec (.copyCommandStart c eng) s = .next ((s.updCore c fun k => { k with bench := bench }).setHead c eng.toNat m'))
      ∧ (tile → 0 < e →
        let s0 := (s.updCore c fun k => k.updHandle m.h fun x => { x with err := 0 }).reachElement c eng.toNat m
        let inside := (m.element m.pos).2
        let far : DWord := BitVec.ofInt 64 (m.element m.pos).1
        let at_ := b + m.pos * e
        let bytes := k.bench.bytes at_ e
        let moves := fun (t : State) (m' : CopyCmd) => exec (.copyCommandStart c eng) s = .next (t.setHead c eng.toNat
          { m' with started := true, pos := m.pos + 1, moved := decide (n ≤ m.pos + 1) })
        let counted := { m with landed := m.landed + e, rd := m.rd + e }
        let lands := fun (f : Nat → Byte) (t : State) (m' : CopyCmd) => ∃ bench : Mem,
          (∀ x, bench.read x = if at_ ≤ x ∧ x < at_ + e then f (x - at_) else s.benchByte c x) ∧ moves (t.updCore c fun k => { k with bench := bench }) m'
        (m.inbound = true → inside = false → lands (fun j => (Desc.pad m.desc).getD j 0) s0 { m with landed := m.landed + e })
          ∧ (∀ bs, m.inbound = true → inside = true → s0.farRead c m.virt far e = .ok bs → bs.length = e →
            let w := s0.operandLate c m.virt far e
            (w = 0 ∨ s.now < m.lateUntil → lands (fun j => bs.getD j 0) s0 counted)
              ∧ (w ≠ 0 → m.lateUntil ≤ s.now → lands (fun j => bs.getD j 0) (s0.postEvent c (m.charge.event 7 1 w))
                { counted with lateUntil := s.now + s.loftWait (dieOf (clusterOf c)) (far.toNat - 0x20000000) e }))
          ∧ (m.inbound = false → inside = false → moves s0 m)
          ∧ (m.inbound = false → inside = true → m.virt = false → 0x10000000 ≤ far.toNat → far.toNat + e ≤ 0x10400000 →
            moves (s0.updCluster (clusterOf c) fun y => { y with yard := y.yard.write (far.toNat - 0x10000000) bytes }) counted)
          ∧ (m.inbound = false → inside = true → m.virt = false → far.toNat + e ≤ 0x80000 → k.engineOwns far.toNat e = true →
            moves (s0.updCore c fun k => { k with bench := k.bench.write far.toNat bytes }) counted)
          ∧ (∀ pa, m.inbound = false → inside = true → m.virt = true → far.toNat < 2 ^ 57 → far.toNat % 4096 + e ≤ 4096 →
            let s1 := s0.engineReach c false far e
            s1.place k.theLaunch.asid far.toNat true false (some (clusterOf c)) = .ok (.hbm pa) →
            (dieOfStack (pa / (64 * 10 ^ 9)) = dieOf (clusterOf c) → moves { s1 with hbm := s1.hbm.write pa bytes } counted)
              ∧ (dieOfStack (pa / (64 * 10 ^ 9)) ≠ dieOf (clusterOf c) → moves (s1.updHub fun h =>
                { h with egress := h.egress ++ [{ core := c, eng := eng.toNat, pa := pa, bytes := bytes }] }) counted)))

/-- R182, R193, R203: a fill whose bytes have landed flips its handle to FULL with O = 0, and an armed one makes an arrival pending (R204); a
drain whose writes have all been performed, none left in its die's egress (R232), leaves its source FREE with O = 0; a SEND, no earlier one of
its core to the receiver being left, whose receiver's handle is FREE with O = 1 and large enough fills it. -/
def Obligations.CopyCommandsComplete : Prop :=
  ∀ (s : State) (c : CoreNo) (eng : BitVec 1) (m : CopyCmd) (rest : List CopyCmd),
    (s.engine c eng.toNat).queue = m :: rest → (eng = 1 → ∀ q ∈ (s.core c).c0.queue.head?, q.h ≠ m.h) →
    let performed := ∀ w ∈ s.hub.egress, w.core = c → w.eng ≠ eng.toNat
    let hd := (s.core c).handle m.h
    (m.inbound = true → m.moved = true → (s.core c).matrix.fetches = [] → hd.fetch = false →
        exec (.fillComplete c m.h) s = .next ((s.updCore c fun k => k.updHandle m.h fun x =>
          { x with st := 2, o := 0, psn := 0, abort := false, arm := false, arrival := x.arm || x.arrival }).popHead c eng.toNat))
      ∧ (performed → m.inbound = false → m.moved = true → (∀ bt i v a o, m.instr ≠ .sacc bt i v a o) →
        exec (.handleDrainComplete c m.h) s = .next ((s.updCore c fun k => k.updHandle m.h fun x => { x with st := 0, o := 0 }).popHead c eng.toNat))
      ∧ (∀ bt i v a o, performed → m.instr = .sacc bt i v a o → m.inbound = false → m.moved = true →
        exec (.handleDrainComplete c m.h) s = .next ((s.updCore c fun k => (k.updHandle m.h fun x => { x with st := 0, o := 0 }).updHandle m.dest
          fun x => { x with st := 0, o := 0 }).popHead c eng.toNat))
      ∧ (∀ bt g d h b peer, m.instr = .send bt g d h b → m.toRing = false → (s.core c).ringClear (2 + eng.toNat) →
        (∀ q ∈ (s.engine c (1 - eng.toNat)).queue, isSend q.instr = true → q.rank = m.rank → m.no ≤ q.no) → s.coreOfRank c m.rank = some peer → (s.core peer).status ≠ .contained →
        let dd := (s.core peer).handle m.dest
        hd.size.toNat ≤ dd.size.toNat → dd.st = 0 → dd.o = 1 →
        exec (.sendDelivery c eng) s = .next ((((s.updCore peer fun k =>
          ({ k with bench := k.bench.write dd.base.toNat ((s.core c).region m.h) } : Core).updHandle m.dest fun x =>
            { x with st := 2, o := 0, landed := hd.size.setWidth 20, rd := hd.size.setWidth 20, err := 0, fetch := false
                     psn := if m.poison then 1 else 0, abort := false, arm := false, arrival := x.arm || x.arrival }).updCore c fun k =>
          k.updHandle m.h fun x => { x with st := 0, o := 0, landed := hd.size.setWidth 20, rd := hd.size.setWidth 20 })).popHead c eng.toNat))

/-! ### Idle slots -/

/-- R28, R32: the idle operation of each slot issues, and does nothing; what an issue with no result on its way changes. -/
def Obligations.IdleOperations : Prop :=
  ∀ (bt : BitVec 2) (s : State),
    exec (.lnop bt) s = .next (s.issued 0 1) ∧ exec (.snop bt) s = .next (s.issued 1 1) ∧ exec (.vnop bt) s = .next (s.issued 2 1)
      ∧ exec (.mnop bt) s = .next (s.issued 4 1) ∧ exec (.cnop bt) s = .next (s.issued 5 1)
      ∧ ∀ slot words, s.me.pend = [] →
        let t := s.issued slot words
        t.me.pc = s.me.pc + BitVec.ofNat 64 (4 + 4 * words) ∧ t.me.ctl.cycle = s.me.ctl.cycle + 1
          ∧ t.me.s = s.me.s ∧ t.me.b = s.me.b ∧ t.me.q = s.me.q ∧ t.me.n = s.me.n ∧ t.me.g = s.me.g ∧ t.me.arr = s.me.arr
          ∧ t.me.v = s.me.v ∧ t.me.k = s.me.k ∧ t.me.m = s.me.m ∧ t.me.patFront = s.me.patFront ∧ t.me.patBack = s.me.patBack
          ∧ t.me.bench = s.me.bench ∧ t.me.buffer = s.me.buffer ∧ t.me.handles = s.me.handles ∧ t.me.rings = s.me.rings
          ∧ t.me.matrix = s.me.matrix ∧ t.me.c0 = s.me.c0 ∧ t.me.c1 = s.me.c1 ∧ t.me.statRing = s.me.statRing
          ∧ { t.me.ctl with cycle := s.me.ctl.cycle } = s.me.ctl ∧ (∀ c ≠ s.cur, t.core c = s.core c)
          ∧ t.clusters = s.clusters ∧ t.dies = s.dies ∧ t.hub = s.hub ∧ t.hbm = s.hbm ∧ t.host = s.host

/-! ### Errands -/

/-- R324: whether a WAIT's masked word meets its condition. -/
def meets (cond : BitVec 3) (w v : Nat) : Prop :=
  if cond = 0 then w = v else if cond = 1 then w ≠ v else if cond = 2 then v ≤ w else w < v

def isJoinpt : Instr → Bool
  | .joinpt _ => true
  | _ => false

/-- R322, R324 to R328: each step as the sequencer starts it where no barrier holds it. NOP, GOTO, LOFT with REL and a met WAIT complete at
once; an unmet WAIT holds fetch, and with nothing in flight the errand is WAITING; SIGNAL writes its eight bytes before its notice; XFER and
LOFT move their bytes (here within one page of each side); LAUNCH reads its kernel and goes to the Fitter, or ends in NO_SAVE or
BAD_KERNEL; JOINPT and END come to rest with their notices. -/
def Obligations.ErrandSteps : Prop :=
  ∀ (h : StepHead) (s : State),
    let r := h.errand
    let e := s.errand r
    let at_ := s.fetched r
    (s.AtStep h (.nop h) → exec (.nop h) s = .next at_)
      ∧ (∀ n, s.AtStep h (.goto h n) → exec (.goto h n) s = .next (s.updErrand r fun e => { e with next := n.toNat }))
      ∧ (∀ kind cond size st a v m,
        let i : Instr := .wait h kind cond size st a v m
        let n := if size = 1 then 8 else 4
        let held := fun (e : Errand) => { e with next := e.next + 1, waitStep := some (e.next, i) }
        s.AtStep h i →
        (kind = 1 → (∀ x ∈ e.inflight, x.index ≠ st.toNat) → exec i s = .next at_)
          ∧ (kind = 1 → (∃ x ∈ e.inflight, x.index = st.toNat) → exec i s = .next (s.updErrand r held))
          ∧ (∀ bs, kind = 0 → s.vread e.asid a.toNat n = .ok bs →
            let met := meets cond (leNat bs &&& (m.toNat % 2 ^ (8 * n))) ((v.toNat % 2 ^ (8 * n)) &&& (m.toNat % 2 ^ (8 * n)))
            (met → exec i s = .next at_)
              ∧ (¬met → e.inflight ≠ [] → exec i s = .next (s.updErrand r held))
              ∧ (¬met → e.inflight = [] → exec i s = .next (s.updErrand r fun e => { held e with state := .waiting, reason := .wait }))))
      ∧ (∀ q a v pa, s.AtStep h (.signal h q a v) → a.toNat % 8 = 0 → s.translate e.asid a.toNat true = .hbm pa →
        let t := { at_ with hbm := s.hbm.write pa (leBytes 8 v.toNat) }
        exec (.signal h q a v) s = .next (if q = 1 then t.notice r 1 e.next else t))
      ∧ (∀ src dst len pa pb, s.AtStep h (.xfer h src dst len) → 0 < len.toNat → src.toNat % 4096 + len.toNat ≤ 4096 →
        dst.toNat % 4096 + len.toNat ≤ 4096 → (src.toNat < dst.toNat → src.toNat + len.toNat ≤ dst.toNat) →
        s.translate e.asid src.toNat = .hbm pa → s.translate e.asid dst.toNat true = .hbm pb →
        let x := { s.inFlight r (.xfer h src dst len) with pos := len.toNat, finished := true }
        exec (.xfer h src dst len) s = .next { s.flying r x with hbm := s.hbm.write pb (s.hbm.bytes pa len.toNat) })
      ∧ (∀ die bay src off len pa, s.AtStep h (.loft h die bay src off len) → bay.toNat < 384 → 0 < len.toNat →
        src.toNat % 4096 + len.toNat ≤ 4096 → s.translate e.asid src.toNat = .hbm pa →
        ((s.die die).bays.toList.getD bay.toNat none = none ∨ (s.die die).bays.toList.getD bay.toNat none = some r →
          exec (.loft h die bay src off len) s = .next ((s.updDie die fun d => { d with
              bays := d.bays.setIfInBounds bay.toNat (some r)
              loft := d.loft.write (bay.toNat * 2 ^ 20 + off.toNat) (s.hbm.bytes pa len.toNat) }).flying r
            { s.inFlight r (.loft h die bay src off len) with pos := len.toNat, finished := true }))
          ∧ (∀ o, (s.die die).bays.toList.getD bay.toNat none = some o → o ≠ r →
            exec (.loft h die bay src off len) s = .next (at_.faultErrand r 7 e.next)))
      ∧ (∀ die bay, s.AtStep h (.loftRel h die bay) → bay.toNat < 384 →
        (s.die die).bays.toList.getD bay.toNat none = some r →
        exec (.loftRel h die bay) s = .next (at_.updDie die fun d => { d with bays := d.bays.setIfInBounds bay.toNat none }))
      ∧ (∀ gang prio desc ub, s.AtStep h (.launch h gang prio desc ub) →
        let i : Instr := .launch h gang prio desc ub
        (s.readKernel r desc ub = .ok none → exec i s = .next (at_.faultErrand r 2 e.next))
          ∧ ∀ k, s.readKernel r desc ub = .ok (some k) →
            (e.savecl.toNat < k.crew → exec i s = .next (at_.faultErrand r 4 e.next))
              ∧ (k.crew ≤ e.savecl.toNat → s.unfenced.length < k.crew → exec i s = .next (at_.faultErrand r 3 e.next))
              ∧ (k.crew ≤ e.savecl.toNat → k.crew ≤ s.unfenced.length →
                exec i s = .next ((s.flying r { s.inFlight r i with gang := gang == 1 && e.gang.isSome }).updHub fun b =>
                { b with fitQueue := b.fitQueue ++ [{ errand := r, prio := prio, gang := gang == 1 && e.gang.isSome, kernel := k }] })))
      ∧ (s.AtStep h (.joinpt h) → exec (.joinpt h) s = .next (((((s.flying r (s.inFlight r (.joinpt h))).updErrand r fun e =>
          { e with state := .waiting, reason := .joinpt })).fulfilJoin r).notice r 5 e.next))
      ∧ (s.AtStep h (.endStep h) →
        let freed := { at_ with dies := s.dies.map fun (d : Die) => { d with bays := d.bays.map fun b => if b = some r then none else b } }
        exec (.endStep h) s = .next (((freed.updErrand r fun e => { e with state := .done, reason := .none }).fulfilJoin r).notice r 6 e.next))

/-- R283, R325, R327, R332, R88, R328: the events of an errand: a moved XFER or LOFT completes; an unmet WAIT is met by a later read; a cut
whose cores are all past it is reached, and its time runs out; a save ends with the crew released and the errand parked; a finished launch
ends with its crew released and LAUNCHES one more. -/
def Obligations.ErrandEvents : Prop :=
  ∀ (r : RecNo) (s : State),
    let e := s.errand r
    (∀ (idx : BitVec 20) (x : StepInFlight), e.inflight.find? (fun x => x.index == idx.toNat && x.open) = some x → x.finished = true →
        ((∃ h a b c, x.instr = .xfer h a b c) ∨ ∃ h d b a o n, x.instr = .loft h d b a o n) → e.state = .running → e.reason = .none →
        e.waitStep = none → exec (.stepCompletion r idx) s = .next (s.updErrand r fun e =>
          { e with inflight := e.inflight.filter fun y => y.no ≠ x.no }))
      ∧ (∀ idx h cond size st a v m bs, h.errand = r → e.waitStep = some (idx, .wait h 0 cond size st a v m) → e.waitFault = none →
        e.state = .waiting → e.reason = .wait → e.saving = none → e.killPending = false → e.fetchFault = none → e.inflight = [] →
        let n := if size = 1 then 8 else 4
        s.vread e.asid a.toNat n = .ok bs →
        meets cond (leNat bs &&& (m.toNat % 2 ^ (8 * n))) ((v.toNat % 2 ^ (8 * n)) &&& (m.toNat % 2 ^ (8 * n))) →
        exec (.waitPoll r) s = .next (s.updErrand r fun e => { e with waitStep := none, state := .running, reason := .none }))
      ∧ (∀ w t park, s.hub.crews = [w] → w.errand = r → w.killed = false → e.cutAsked = some (t, park) → e.gang = none →
        (∀ c ∈ w.cores, (s.core c).cut.asked ≠ none ∧ (s.core c).cut.target ≠ none ∧ (s.core c).status = .running
          ∧ (s.core c).cut.stopped = true ∧ (s.core c).stopEnded = true ∧ s.enginesIdle c = true ∧ (s.core c).pend = []
          ∧ (s.core c).request = none ∧ (s.core c).buffer = [] ∧ (s.core c).ctl.quantEnd.toNat ≤ (s.cluster (clusterOf c)).committed) → w.cores ≠ [] →
        ∃ u : State, exec (.cutReached r) s = .next u ∧ (u.errand r).cutAsked = none
          ∧ (u.errand r).saving = some (if park then .host else .gang) ∧ u.hub.crews = [{ w with stopping := true }]
          ∧ (∀ c ∈ w.cores, (u.core c).stopEnded = true ∧ (u.core c).cut.asked = none) ∧ (∀ o, o ≠ r → u.errand o = s.errand o))
      ∧ (∀ w t park, s.hub.crews = [w] → w.errand = r → w.killed = false → e.cutAsked = some (t, park) → e.gang = none →
        t + 100000000 ≤ s.now → e.port = .a → ∃ u : State, exec (.cutTimeout r) s = .next u ∧ (u.errand r).cutAsked = none
          ∧ (u.errand r).pstatA = 6 ∧ (∀ c ∈ w.cores, (u.core c).cut.asked = none ∧ (u.core c).cut.target = none)
          ∧ (∀ o, o ≠ r → u.errand o = s.errand o) ∧ u.hbm = s.hbm)
      ∧ (∀ w, s.hub.crews = [w] → w.errand = r → w.stopping = true → w.killed = false → s.hub.waiting = [] → e.state = .running →
        e.saving = some .host → e.cutAsked = none → e.killPending = false → e.join = none → w.gang = false → w.cores ≠ [] →
        (∀ cl ∈ w.clusters, ∀ l, (s.cluster cl).lease = some l → s.now < l.ends) →
        (∀ c ∈ w.cores, s.saveStopped c = true ∧ s.quantaDone c = true ∧ (s.core c).stopEnded = true ∧ (s.core c).status = .running) →
        (∀ cl ∈ w.clusters, (s.cluster cl).sacc = []) → ∃ u : State, exec (.saveComplete r) s = .next u
          ∧ u.hub.crews = [] ∧ u.hub.waiting = [{
              errand := r, prio := w.prio, gang := false, kernel := w.kernel, spec := w.spec, residual := w.residual
              saved := some (s.saveOf w), parked := true, faulted := w.faulted, containedAt := w.containedAt }]
          ∧ (u.errand r).state = .parked ∧ (u.errand r).reason = .host ∧ (u.errand r).saving = none
          ∧ (∀ c ∈ w.cores, u.core c = (s.core c).vacate) ∧ (∀ o, o ≠ r → u.errand o = s.errand o) ∧ (∀ a,
            a < e.save.toNat ∨ e.save.toNat + w.clusters.length * 12845056 ≤ a → u.hbm.read a = s.hbm.read a))
      ∧ (∀ w, s.hub.crews = [w] → w.errand = r → w.killed = false → w.faulted = false → w.residual = none → s.hub.waiting = [] →
        s.hub.colls = [] → e.state = .running → e.reason = .none → e.saving = none → e.waitStep = none → e.cutAsked = none →
        e.killPending = false → (∀ cl ∈ w.clusters, ∀ l, (s.cluster cl).lease = some l → s.now < l.ends) → s.launchOver w = true →
        ∃ u : State, exec (.launchComplete r) s = .next u ∧ u.hub.crews = [] ∧ (u.errand r).launches = e.launches + 1
          ∧ (u.errand r).inflight = e.inflight.filter (fun x => !isLaunch x.instr) ∧ (u.errand r).state = .running
          ∧ (∀ c ∈ w.cores, u.core c = (s.core c).vacate) ∧ (∀ o, o ≠ r → u.errand o = s.errand o) ∧ u.hbm = s.hbm)

/-- R316, R318 to R321, R332 to R334, R338: the port operations on an errand, from its owner through the active port: START loads the
control block and clears the record; JOIN of an errand that runs is armed, and of one at rest fulfilled; PARK, RESUME, KILL and the gang
operations, a STOP of a gang that spans packages keeping the links' flits (R285); HOME; ADOPT after a failover. That KILL of a DONE or KILLED
errand ends it as KILLED is the model's reading (log 60). A port write through the other port, or with another token, changes only the port status. -/
def Obligations.ErrandPortOperations : Prop :=
  ∀ (p : PortWrite) (s : State),
    let r := p.errand
    let e := s.errand r
    let idle := fun (e : Errand) => e
    let park := fun (why : WaitReason) (e : Errand) => { e with before := e.state, beforeReason := e.reason, state := .parked, reason := why }
    (∀ ecb : DWord, s.Hears p.port → e.state = .idle ∨ e.state = .done ∨ e.state = .killed →
        let f := fun o n => s.hbm.num (ecb.toNat + o) n
        let ring := fun (w : Nat) => w < 2 ^ 57 ∧ w / 16 % 4 = 0
        ecb.toNat % 64 = 0 → ecb.toNat + 64 ≤ 768 * 10 ^ 9 → f 0 8 % 32 = 0 → f 0 8 < 2 ^ 57 → ring (f 8 8) → ring (f 16 8) →
        f 24 8 % 4096 = 0 → f 24 8 < 2 ^ 52 → 1 ≤ f 32 2 → f 32 2 ≤ 64 → f 34 2 < 4096 → f 36 28 = 0 →
        exec (.start p ecb) s = .next ((s.setErrand r {
          state := .running, token := p.token, home := p.cpu, port := p.port, noCrew := s.now
          prog := BitVec.ofNat 64 (f 0 8), trap := BitVec.ofNat 64 (f 8 8), stat := BitVec.ofNat 64 (f 16 8)
          save := BitVec.ofNat 64 (f 24 8), savecl := BitVec.ofNat 16 (f 32 2), asid := BitVec.ofNat 12 (f 34 2) }).updHub fun h =>
            { h with lostErrands := h.lostErrands.erase r }))
      ∧ (s.Obeys p → ∀ (a v : DWord), a.toNat % 8 = 0 → a.toNat < 2 ^ 57 →
        (e.state = .running → Port.Does (.join p a v) s p 0 (fun e => { e with join := some (a, v) }) id)
          ∧ (∀ pa, e.state = .done → s.translate e.asid a.toNat true = .hbm pa → Port.Does (.join p a v) s p 0 (fun e => { e with join := none })
            fun t => { t with hbm := t.hbm.write pa (leBytes 8 v.toNat) }.notice r 2 (e.next % 2 ^ 20)))
      ∧ (s.Obeys p → s.Quiet r → e.state = .running ∨ e.state = .waiting →
        Port.Does (.park p) s p 0 (park .host) (fun t => t.setParked r true)
          ∧ Port.Does (.parkCut p) s p 0 (park .host) (fun t => t.setParked r true))
      ∧ (s.Obeys p → s.Quiet r → e.state = .running ∨ e.state = .waiting ∨ (e.state = .parked ∧ e.reason = .preempt) →
        ∀ g, s.gangMembers g = [r] → Port.Does (.gangStop p) s p 0 (park .gang) fun t => (t.setParked r true).updHub fun h =>
          if h.spanning.contains g then { h with stopped := g :: h.stopped.erase g } else h)
      ∧ (s.Obeys p → ∀ w, s.hub.crews = [w] → w.errand = r → w.killed = false → w.stopping = false → e.cutAsked = none → e.saving = none →
        e.state = .running → w.cores.Nodup →
        (∃ t, exec (.park p) s = .next t ∧ t.hub.crews = [{ w with stopping := true }] ∧ (t.errand r).saving = some .host
            ∧ (t.errand r).state = .running ∧ t.hbm = s.hbm ∧ ∀ o, o ≠ r → t.errand o = s.errand o)
          ∧ (∃ t, exec (.parkCut p) s = .next t ∧ t.hub.crews = [w] ∧ (t.errand r).cutAsked = some (s.now, true)
            ∧ (∀ c ∈ w.cores, (t.core c).cut.asked = some (s.core c).cut.ahead) ∧ t.hbm = s.hbm ∧ ∀ o, o ≠ r → t.errand o = s.errand o))
      ∧ (s.Obeys p → s.Quiet r →
        (e.state = .parked → e.reason = .host →
            Port.Does (.resume p) s p 0 (fun e => { e with state := e.before, reason := e.beforeReason }) fun t => t.setParked r false)
          ∧ (e.state = .waiting → e.reason = .joinpt → Port.Does (.resume p) s p 0 (fun e => { e with
              state := .running, reason := .none, inflight := e.inflight.filter fun x => !isJoinpt x.instr }) id)
          ∧ (e.reap = false → ∃ t, exec (.kill p) s = .next t ∧ (t.errand r).state = .killed ∧ (t.errand r).reason = .none ∧ (t.errand r).inflight = []
            ∧ (t.errand r).home = p.cpu
            ∧ (t.errand r).pstatA = (if p.port = .a then 0 else e.pstatA) ∧ t.hbm = s.hbm ∧ (∀ o, o ≠ r → t.errand o = s.errand o)
            ∧ (∀ c ∈ t.hub.wicket, c.errand ≠ r) ∧ (∀ q ∈ t.hub.fitQueue, q.errand ≠ r)
            ∧ ∀ d : DieNo, ∀ b ∈ (t.die d).bays.toList, b ≠ some r)
          ∧ (∀ g, e.gang = none → (s.gangMembers g).length < 64 → Port.Does (.gangJoin p g) s p 0 (fun e => { e with gang := some g }) id)
          ∧ (∀ g, e.gang ≠ some g → 64 ≤ (s.gangMembers g).length → Port.Does (.gangJoin p g) s p 5 idle id)
          ∧ (e.inGangLaunch = false → Port.Does (.gangLeave p) s p 0 (fun e => { e with gang := none }) id)
          ∧ (∀ g, s.gangMembers g = [r] → e.state = .parked → e.reason = .gang → s.hub.stopped ≠ [g] →
            Port.Does (.gangGo p) s p 0 (fun e => { e with state := e.before, reason := e.beforeReason }) fun t =>
              (t.setParked r false).updHub fun h => { h with stopped := h.stopped.erase g }))
      ∧ (s.Obeys p → Port.Does (.home p) s p 0 idle id)
      ∧ (s.Hears p.port → s.Quiet r → e.waitStep = none → e.state = .parked → e.reason = .failover → e.adoptTo = (.running, .none) →
        Port.Does (.adopt p) s p 0 (fun e => { e with token := p.token, port := p.port, state := .running, reason := .none })
          fun t => t.setParked r false)
      ∧ (s.Hears p.port → e.waitStep = none → e.state ≠ .idle → e.token ≠ p.token → failedOver e = false →
        (exec (.park p) s = .next (s.setPstat p 2) ∧ exec (.kill p) s = .next (s.setPstat p 2) ∧ exec (.home p) s = .next (s.setPstat p 2)))
      ∧ (s.hub.ready = true → s.hub.active ≠ some p.port → s.now < s.hub.leaseEnd →
        exec (.kill p) s = .next (s.setPstat p 4) ∧ ∀ ecb, exec (.start p ecb) s = .next (s.setPstat p 4))

/-- R57, R225, R270, R318, R322, R331, R334, R335, R353, R368, R405: port operations and BAR 0 writes to the hub: stewards are registered
and gone, and an orphan passes to its steward; ACK releases the sequencer's hold it names; a QUERY answers by R322's table; RENEW, INVAL,
FITCTL, FITKID, ATCTL, CLERKSW and registers that keep what is written to them. That the whole head of a report is taken when GO is written
is log entry 36, and how long GO reads 1 log entry 55. -/
def Obligations.HubPortOperations : Prop :=
  (∀ (p : PortWrite) (s : State), s.Obeys p →
      let r := p.errand
      let e := s.errand r
      let same := fun (e : Errand) => e
      Port.Does (.stewardRegister p) s p 0 same (fun t => t.updHub fun h =>
          { h with stewards := (e.asid, p.token, p.cpu) :: h.stewards.filter fun x => x.1 ≠ e.asid })
        ∧ Port.Does (.stewardUnregister p) s p 0 same (fun t => t.updHub fun h =>
          { h with stewards := h.stewards.filter fun x => ¬(x.1 = e.asid ∧ x.2.1 = p.token) })
        ∧ (∀ token cpu, s.hub.stewards.find? (fun x => x.1 == e.asid) = some (e.asid, token, cpu) →
          ∃ t, exec (.orphan p) s = .next t ∧ (t.errand r).token = token ∧ (t.errand r).home = cpu ∧ (t.errand r).orph = true
            ∧ (t.errand r).state = e.state ∧ t.hbm = s.hbm ∧ ∀ o, o ≠ r → t.errand o = s.errand o)
        ∧ (∀ f seq, e.fetchFault = some f → f.file = none → f.cls = 6 → f.seq = seq → e.waitFault = none → e.inflight = [] →
          Port.Does (.ack p 6 0 seq) s p 0 (fun e => { e with fetchFault := none }) id)
        ∧ exec (.unassignedPortOperation p) s = .next (s.setPstat p 1))
    ∧ (∀ (p : Port) (r : RecNo) (s : State), ∃ w : BitVec 512,
      exec (.query p r) s = .next (s.updHub fun h => { h with queried := some (p, r, w) })
        ∧ let e := s.errand r
          let f := fun lo n => w.toNat / 2 ^ lo % 2 ^ n
          f 0 3 = Code.state e.state ∧ f 3 3 = Code.reason e.reason ∧ f 6 2 = 0 ∧ f 8 8 = (if p = .a then e.pstatA else e.pstatB).toNat
            ∧ f 16 16 = e.estat.toNat ∧ f 32 16 = e.home.toNat ∧ f 48 16 = r.toNat ∧ f 64 20 = e.next % 2 ^ 20 ∧ f 84 28 = 0
            ∧ f 112 1 = e.orph.toNat ∧ f 113 1 = e.join.isSome.toNat ∧ f 114 2 = (if e.port = .a then 0 else 1) ∧ f 116 4 = 0
            ∧ f 120 8 = e.inflight.length % 256 ∧ f 128 64 = e.fidx.toNat ∧ f 192 64 = e.launches.toNat ∧ f 256 64 = e.prodSeen.toNat
            ∧ f 320 32 = 0 ∧ f 352 32 = e.cutt.toNat ∧ f 384 128 = 0)
    ∧ (∀ p : Port, Bar0Does (.renew p) p (fun s => s.updHub fun h => { h with leaseEnd := s.now + 10000000 })
      ∧ (∀ s : State, s.hub.ready = true → s.hub.active = none →
        exec (.renew p) s = .next (s.updHub fun h => { h with active := some p, leaseEnd := s.now + 10000000 }))
      ∧ (∀ v, Bar0Does (.inval p v) p fun s => (s.putBar0 0x2008 (v &&& ~~~0x3000#64)).updHub fun h =>
        if v.toNat / 2 ^ 14 % 4 = 3 ∨ (v.toNat / 2 ^ 14 % 4 = 0 ∧ v.toNat / 2 ^ 16 % 8 = 7) ∨ 64 ≤ h.invals.length then { h with invDrop := true }
        else { h with invals := h.invals ++ [v &&& ~~~0x3000#64] })
      ∧ Bar0Does (.flush p) p (fun s => s.updHub fun h => { h with cache := (h.cache.map fun e =>
          if e.nocache then e else { e with dropped := true }).filter fun e => !e.dropped || e.pins ≠ 0 })
      ∧ (∀ kid, Bar0Does (.fitkid p kid) p fun s => (s.putBar0 0x3008 kid).updHub fun h => { h with
          cache := (h.cache.map fun e => if e.kid = kid ∧ e.nocache = false then { e with dropped := true } else e).filter fun e =>
            !e.dropped || e.pins ≠ 0 })
      ∧ Bar0Does (.attestGo p) p (fun s => if s.hub.attest then s else s.updHub fun h => { h with
          attest := true, attestHead := s.reportHead, attestAddr := (h.bar0.get 0x0208 0) &&& 0xFFFFFFFFFFFC0#64 })
      ∧ (∀ (cap : BitVec 3) (img : BitVec 40) (forced : Bool) (s : State), s.Hears p → s.led = true → cap ≠ 0 → s.hub.clerkOpen cap = true →
        s.hub.clerkAsk.getLsbD cap.toNat = false →
        let i : Instr := if forced then .clerkSwitchForced p cap img else .clerkSwitch p cap img
        let t := s.putBar0 (0x5100 + 8 * cap.toNat) (BitVec.ofNat 64 (img.toNat * 2 ^ 12 + (if forced then 2 else 0)))
        let hash := s.hbm.bytes (img.toNat * 4096 + 16) 48
        let begun := fun (st : BitVec 2) (h : Hub) => { h with
          clerkSt := h.clerkSt.set cap.toNat st, clerkAt := h.clerkAt.set cap.toNat s.now, clerkNew := h.clerkNew.set cap.toNat hash }
        (s.imageOk (img.toNat * 4096) = false → exec i s = .next (t.updHub fun h => { h with clerkSt := h.clerkSt.set cap.toNat 3 }))
          ∧ (s.imageOk (img.toNat * 4096) = true → s.hub.inFlight cap = true → forced = false → exec i s = .next (t.updHub (begun 1)))
          ∧ (s.imageOk (img.toNat * 4096) = true → s.hub.inFlight cap = false → s.hub.calls = [] → exec i s = .next (t.updHub fun h =>
            { begun 0 h with images := h.images.setIfInBounds (cap.toNat + 1) hash })))
      ∧ (∀ v, Bar0Does (.registerWrite p 0x1008 v) p (fun s => s.updHub fun h =>
          h.setNotices p { h.notices p with nrbase := v &&& 0xFFFFFFFFFF00F#64 })
        ∧ Bar0Does (.registerWrite p 0x1018 v) p (fun s => s.updHub fun h => h.setNotices p { h.notices p with cons := v.setWidth 32 })
        ∧ Bar0Does (.registerWrite p 0x1020 v) p (fun s =>
          if 1 ≤ v.toNat % 2 ^ 16 ∧ v.toNat % 2 ^ 16 ≤ 1000 then s.putBar0 0x1020 (v &&& 0xFFFF#64) else s)
        ∧ Bar0Does (.registerWrite p 0x2000 v) p (fun s => s.putBar0 0x2000 (v &&& 0xFFFFFFFFF8001#64))
        ∧ Bar0Does (.registerWrite p 0x2010 v) p (fun s => s.updHub fun h => { h with invDrop := h.invDrop && !v.getLsbD 1 })
        ∧ (∀ n < 4096, Bar0Does (.registerWrite p (BitVec.ofNat 20 (0x10000 + 16 * n)) v) p fun s => s.putBar0 (0x10000 + 16 * n) v)
        ∧ (∀ n < 2048, Bar0Does (.registerWrite p (BitVec.ofNat 20 (0x8000 + 8 * n)) v) p fun s => s.putBar0 (0x8000 + 8 * n) (v &&& 0xFE#64))
        ∧ Bar0Does (.registerWrite p 0x0100 v) p id))

/-! ### Calls -/

/-- R362, R365 to R368, R370: each clerk call, the first at its wicket with a new key, as its clerk handles it: the effect, the journal's
DONE entry and the reply that fills the reply handle. FILE moves whole pages of the page cache (here one page, at a page's start), and
BADARG answers other lengths; ALLOC gives the lowest range that fits; PRINT writes its record before PROD; NOTIFY its word before the
notice; STATUS answers from the journal; DECODE queues its job, that of a parked errand too, and its reply waits. -/
def Obligations.ClerkCalls : Prop :=
  ∀ (s : State) (c : Call) (rest : List Call) (k : CallRef),
    let e := s.errand c.errand
    let answer := fun (t : State) (choice : Option Nat) (status errc : Nat) (rs : List Nat) => t.replied c rest choice (replyOf c.callno status errc rs)
    (c.cap = 1 → ∀ (page a n : DWord), a.toNat % 4096 = 0 →
        (n.toNat % 4096 ≠ 0 → (s.Calls (some (.fileRead k page a n)) c rest → exec (.fileRead k page a n) s = .next (answer s (some 0) 2 1 []))
          ∧ (s.Calls (some (.fileWrite k page a n)) c rest → exec (.fileWrite k page a n) s = .next (answer s (some 0) 2 1 []))
          ∧ (s.Calls (some (.fileFlush k page n)) c rest → exec (.fileFlush k page n) s = .next (answer s (some 0) 2 1 [])))
        ∧ (∀ frame entry pa, n.toNat = 4096 → s.filePage page.toNat = .ok (frame, entry) →
          (s.Calls (some (.fileRead k page a n)) c rest → s.translate e.asid a.toNat true = .hbm pa →
              exec (.fileRead k page a n) s = .next (answer { s with hbm := s.hbm.write pa (s.hbm.bytes frame 4096) } (some 0) 0 0 [4096]))
            ∧ (s.Calls (some (.fileWrite k page a n)) c rest → s.translate e.asid a.toNat = .hbm pa →
              exec (.fileWrite k page a n) s = .next (answer { s with
                hbm := (s.hbm.write frame (s.hbm.bytes pa 4096)).write entry [s.hbm.read entry ||| 0x10#8] } (some 0) 0 0 [4096])))
        ∧ (∀ entry, n.toNat = 4096 → s.pageEntry page.toNat = some entry → s.Calls (some (.fileFlush k page n)) c rest →
          let w := s.hbm.num entry 16
          let wrote := { s with hbm := s.hbm.write entry [s.hbm.read entry &&& ~~~0x10#8] }.updHub fun h =>
            { h with flushed := h.flushed ++ [(w / 2 ^ 112 % 2 ^ 16, w / 2 ^ 64 % 2 ^ 48)] }
          exec (.fileFlush k page n) s = .next (answer (if w % 4 = 2 ∧ w / 16 % 2 = 1 then wrote else s) (some 0) 0 0 [4096])))
      ∧ (c.cap = 3 → ∀ (n al : DWord),
        let base := (s.hub.bar0.get (0x10000 + 16 * e.asid.toNat) 0).toNat
        let size := (s.hub.bar0.get (0x10008 + 16 * e.asid.toNat) 0).toNat
        let fits := fun a => size ≠ 0 ∧ a % al.toNat = 0 ∧ base ≤ a ∧ a + n.toNat ≤ base + size
          ∧ ∀ x ∈ s.hub.arenas, x.1 = e.asid → a + n.toNat ≤ x.2.1 ∨ x.2.1 + x.2.2 ≤ a
        (s.Calls (some (.allocCall k n al)) c rest →
          ((∃ p, 6 ≤ p ∧ p ≤ 21 ∧ al.toNat = 2 ^ p) → (∃ a, fits a) → ∃ x, fits x ∧ (∀ y, fits y → x ≤ y) ∧ exec (.allocCall k n al) s =
              .next (answer (s.updHub fun h => { h with arenas := h.arenas.filter (· ≠ (e.asid, x, n.toNat)) ++ [(e.asid, x, n.toNat)] })
                (some x) 0 0 [x]))
            ∧ ((∃ p, 6 ≤ p ∧ p ≤ 21 ∧ al.toNat = 2 ^ p) → (¬∃ a, fits a) → exec (.allocCall k n al) s = .next (answer s none 2 5 []))
            ∧ ((¬∃ p, 6 ≤ p ∧ p ≤ 21 ∧ al.toNat = 2 ^ p) → exec (.allocCall k n al) s = .next (answer s none 2 1 [])))
        ∧ (s.Calls (some (.allocFree k n)) c rest →
          ((∃ x ∈ s.hub.arenas, x.1 = e.asid ∧ x.2.1 = n.toNat) → exec (.allocFree k n) s = .next (answer (s.updHub fun h =>
              { h with arenas := h.arenas.filter fun x => ¬(x.1 = e.asid ∧ x.2.1 = n.toNat) }) (some 0) 0 0 []))
            ∧ ((∀ x ∈ s.hub.arenas, ¬(x.1 = e.asid ∧ x.2.1 = n.toNat)) → exec (.allocFree k n) s = .next (answer s none 2 1 []))))
      ∧ (c.cap = 4 → s.Calls (some (.timeCall k)) c rest → exec (.timeCall k) s = .next (answer s (some 0) 0 0 [s.now - s.hub.epoch0]))
      ∧ (c.cap = 5 → ∀ (ring n : DWord) (text : List Byte), s.Calls (some (.printCall k ring n text)) c rest →
        let b := ring.toNat / 2 ^ 6 % 2 ^ 51 * 64
        let size := 2 ^ (ring.toNat % 16 + 6)
        (¬(1 ≤ n.toNat ∧ n.toNat ≤ 40) → exec (.printCall k ring n text) s = .next (answer s none 2 1 []))
          ∧ (∀ pb, 1 ≤ n.toNat → n.toNat ≤ 40 → s.translate e.asid b = .hbm pb →
            let prod := s.hbm.num pb 8
            let used := (prod + 2 ^ 64 - s.hbm.num (pb + 8) 8) % 2 ^ 64
            (used = size → exec (.printCall k ring n text) s = .next (answer s none 2 5 []))
              ∧ (∀ pr, used ≠ size → s.translate e.asid (b + 64 + 64 * (prod % size)) true = .hbm pr →
                let m := s.hbm.write pr (leBytes 8 n.toNat ++ text ++ List.replicate 16 0)
                { s with hbm := m }.translate e.asid b true = .hbm pb →
                exec (.printCall k ring n text) s = .next (answer { s with hbm := m.write pb (leBytes 8 (prod + 1)) } (some prod) 0 0 [prod]))))
      ∧ (c.cap = 6 → ∀ (a v : DWord), s.Calls (some (.notifyCall k a v)) c rest →
        (a.toNat % 8 ≠ 0 → exec (.notifyCall k a v) s = .next (answer s (some 0) 2 1 []))
          ∧ (∀ pa, a.toNat % 8 = 0 → s.translate e.asid a.toNat true = .hbm pa → exec (.notifyCall k a v) s =
            .next (answer ({ s with hbm := s.hbm.write pa (leBytes 8 v.toNat) }.notice c.errand 1 0xFFFFFFFF) (some 0) 0 0 [])))
      ∧ (c.cap = 7 → ∀ (no cap : DWord), s.Calls (some (.statusCall k no cap)) c rest →
        let j := e.journal.find? fun j => j.cap.toNat == cap.toNat && j.callno == no
        ((∃ x w, j = some x ∧ x.state = .done w) → exec (.statusCall k no cap) s = .next (answer s (some 0) 0 0 [0]))
          ∧ ((∃ x, j = some x ∧ x.state = .refused) → exec (.statusCall k no cap) s = .next (answer s (some 0) 0 0 [2]))
          ∧ ((∃ x, j = some x ∧ x.state = .notDone) ∨ j = none → exec (.statusCall k no cap) s = .next (answer s (some 0) 0 0 [1])))
      ∧ (c.cap = 2 → ∀ (stream len dst tile limit : DWord), s.Asks (some (.decodeCall k stream len dst tile limit)) c rest →
        s.hub.decodeQueue.length < 1024 →
        let calls := s.Calls (some (.decodeCall k stream len dst tile limit)) c rest
        let i : Instr := .decodeCall k stream len dst tile limit
        let j : DecodeJob := {
          call := { c with running := true }, ring := BitVec.ofNat 3 (dst.toNat / 2 ^ 10 % 8), rank := dst.toNat % 2 ^ 10
          fmt := BitVec.ofNat 2 (dst.toNat / 2 ^ 13 % 4), planes := dst.toNat / 2 ^ 15 % 2 == 1, tw := tile.toNat % 2 ^ 16
          th := tile.toNat / 2 ^ 16 % 2 ^ 16, limit := limit.toNat }
        let legal := dst.toNat < 2 ^ 16 ∧ dst.toNat / 2 ^ 13 % 4 ≠ 3 ∧ tile.toNat < 2 ^ 32 ∧ 8 ≤ j.tw ∧ j.tw ≤ 1024 ∧ 8 ≤ j.th ∧ j.th ≤ 1024
        let queued := exec i s = .next ((s.updHub fun h => { h with
            wicket := rest, calls := [{ j.call with fault := some { cls := 4 } }], decodeQueue := h.decodeQueue ++ [j] }).updErrand c.errand
          fun e => { e with journal := { cap := 2, callno := c.callno, state := .notDone, choice := some 0 } :: e.journal })
        let room := fun (x : Core) => x.ringTakes j.ring.toNat (j.tw * j.th * if j.fmt = 0 then 2 else 1)
        let takes := fun (peer : CoreNo) => room (s.core peer)
        (calls → ¬legal → exec i s = .next (answer s (some 0) 2 1 []))
          ∧ (calls → legal → s.decodeCore j = none → s.decodeParked c.errand = false → exec i s = .next (answer s (some 0) 2 1 []))
          ∧ (∀ peer, calls → legal → s.decodeCore j = some peer → takes peer = false → exec i s = .next (answer s (some 0) 2 1 []))
          ∧ (∀ peer, legal → s.decodeCore j = some peer → takes peer = true → queued)
          ∧ (∀ q v, legal → s.crewOfErrand c.errand = none → s.hub.waiting = [q] → q.errand = c.errand → q.saved = some v →
            ((∃ x, v.cores[j.rank]? = some x ∧ room x = true) → queued)
              ∧ ((∀ x, v.cores[j.rank]? = some x → room x = false) → ∃ t, exec i s = .next t ∧ t.hub.decodeQueue = s.hub.decodeQueue
                ∧ ∃ x ∈ t.hub.calls, x.callno = c.callno ∧ x.answer = some (replyOf c.callno 2 1 []))))

/-- R362, R363, R368, R370 to R374: the events around calls: a call whose OP has no meaning is answered BADARG; an INVOKE held for
room enters the wicket; a clerk switch that has drained for 10 ms goes ahead; a page read ends, and what was held on the page goes on; a
decode job starts, takes the frame that comes next in its stream, delivers a tile to its ring's next handle, and ends with its counts. How the
decoder reads a stream where the rules leave it to the AV1 specification is log 33. -/
def Obligations.CallEvents : Prop :=
  ∀ s : State,
    (∀ c, s.Calls none c [] → (∀ k, (s.core k).hold ≠ .wicket) → exec .wicketAccept s = .next (s.replied c [] none (replyOf c.callno 2 1 [])))
      ∧ (∀ (c : CoreNo) (w : Nat) (bt : BitVec 2) (a : BitVec 5) (cap : BitVec 3) (h : BitVec 6), s.AtCached c .s w none .wicket →
        decodeSlot .s w none = .ok (.invoke bt a cap h) → (∀ d : CoreNo, d.toNat < c.toNat → (s.core d).hold ≠ .wicket) →
        (∀ x ∈ s.hub.wicket ++ s.hub.calls, x.asks.isSome = true) → s.hub.wicket.length < 256 →
        let k := s.core c
        let at_ := (k.readS a).toNat
        at_ % 64 = 0 → k.mayUse at_ 64 → 64 ≤ (k.handle h).size.toNat → (k.handle h).ring = none → (k.handle h).st = 0 → (k.handle h).o = 1 →
        s.granted k.theLaunch.errand cap = true → (s.errand k.theLaunch.errand).journal.length < 2 ^ 20 →
        ∃ (u : State) (x : Call), exec .wicketAccept s = .next u ∧ u.hub.wicket = s.hub.wicket ++ [x] ∧ x.errand = k.theLaunch.errand
          ∧ x.core = c ∧ x.cap = cap ∧ x.reply = h ∧ x.block = BitVec.ofNat 512 (k.bench.num at_ 64) ∧ (u.core c).hold = .none
          ∧ (u.core c).pc = k.pc + 8 ∧ ((u.core c).handle h).st = 1 ∧ ((u.core c).handle h).o = 1 ∧ (u.core c).s = k.s ∧ (u.core c).v = k.v
          ∧ (u.core c).bench = k.bench ∧ u.hbm = s.hbm ∧ ∀ d, d ≠ c → u.core d = s.core d)
      ∧ (∀ cap : BitVec 3, s.led = true → s.hub.clerk cap = 1 → s.hub.clerkAt[cap.toNat] + 10000000 ≤ s.now →
        ∃ cs : List Call, exec (.clerkSwitchTimeout cap) s = .next (s.updHub fun h => { h with
          calls := cs, images := h.images.setIfInBounds (cap.toNat + 1) (h.clerkNew[cap.toNat])
          clerkSt := h.clerkSt.set cap.toNat (if s.hub.inFlight cap then 2 else 0) })
        ∧ cs = s.hub.calls.map fun c => if c.cap = cap ∧ cap ≠ 2 then { c with fault := none } else c)
      ∧ (∀ (idx : BitVec 40) (data : Option (List Byte)) (en : Nat), s.pageEntry idx.toNat = some en → (s.hbm.read en).toNat % 4 = 1 →
        let x := s.readOf idx.toNat en
        ∃ t, exec (.pageCacheReadComplete idx data) s = .next t ∧ t.hub.reads = s.hub.reads.filter (fun y => y.index ≠ idx.toNat)
          ∧ (∀ bs, data = some bs → t.hbm = (s.hbm.write x.frame (fitBytes x.size bs)).write en [s.hbm.read en &&& ~~~3#8 ||| 2#8])
          ∧ (data = none → t.hbm = s.hbm.write en [s.hbm.read en ||| 3#8])
          ∧ (∀ r, (t.errand r).fetchFault = (s.errand r).fetchFault.filter fun f => f.file ≠ some idx)
          ∧ (∀ r, (t.errand r).waitFault = (s.errand r).waitFault.filter fun f => f.file ≠ some idx)
          ∧ (∀ c, (t.core c).fetchFault = (s.core c).fetchFault.filter fun f => f.file ≠ some idx)
          ∧ (∀ c f, (s.core c).fetchFault = some f → f.file = some idx → (s.core c).hold = .fetch → (t.core c).hold = .accept)
          ∧ (∀ c, (t.core c).bench = (s.core c).bench ∧ (t.core c).s = (s.core c).s ∧ (t.core c).pc = (s.core c).pc)
          ∧ t.host = s.host ∧ t.clusters = s.clusters ∧ t.dies = s.dies)
      ∧ (∀ (d : BitVec 4) (j : DecodeJob) (q : List DecodeJob), s.hub.decodeQueue = j :: q → s.hub.decoders[d.toNat] = none →
        (∀ x : BitVec 4, x.toNat < d.toNat → s.hub.decoders[x.toNat] ≠ none) → s.decodeParked j.call.errand = false →
        exec .decodeJobStart s = .next (s.updHub fun h => { h with decodeQueue := q, decoders := h.decoders.set d.toNat (some j) }))
      ∧ (∀ q : Av1Seq, Av1.supported q = true ↔ q.profile = 0 ∧ (q.depth = 8 ∨ q.depth = 10) ∧ (q.mono = true ∨ (q.subX = true ∧ q.subY = true))
        ∧ q.level ≤ 17)
      ∧ (∀ (d : BitVec 4) (j : DecodeJob) (x : CodedFrame), s.hub.decoders[d.toNat] = some j → j.call.fault = none → j.frame = none →
        s.upcoming j = .ok (.frame x) →
        let refs := x.stream.refs
        let missing := fun (i : Nat) => ∀ r, (refs[i]?).join = some r → r.corrupt = true
        let goesOn := fun (j' : DecodeJob) => exec (.decodeTile d j.tiles) s = .next (s.setDecoder d (some j'))
        let shows := fun (j' : DecodeJob) (r : Av1Ref) => exec (.decodeTile d j.tiles) s = exec (.decodeTile d j.tiles) (s.setDecoder d (some { j' with
          frame := some { frame := r.frame, corrupt := r.corrupt } }))
        let replaced := fun (into : Nat → Bool) (r : Av1Ref) => { x.stream with refs := refs.mapIdx fun i old => if into i then some r else old }
        (x.header = none → goesOn { j with
            poisoned := j.poisoned + 1, stream := { x.stream with refs := refs.map fun r => r.map fun r => { r with corrupt := true } } })
          ∧ (∀ h, x.header = some h → h.existing = none → ∃ r : Av1Ref, r.frame.width = h.width ∧ r.frame.height = h.height ∧ r.key = h.key
            ∧ (∀ q, x.stream.seq = some q → r.frame.depth = q.depth ∧ r.frame.mono = q.mono)
            ∧ (x.cut = true ∨ (∃ i ∈ h.uses, missing i ∨ h.missing.contains i = true) → r.corrupt = true)
            ∧ (x.cut = false → (∀ i ∈ h.uses, ¬missing i ∧ h.missing.contains i = false) → r.frame.flat.isSome = true → r.corrupt = false)
            ∧ (∀ v, r.frame.flat = some v ↔ h.plain = true ∧ Av1.flatBlock x.data = true ∧ ∃ q, x.stream.seq = some q ∧ v = 2 ^ (q.depth - 1))
            ∧ (h.shown = false → goesOn { j with stream := replaced h.refresh.testBit r })
            ∧ (h.shown = true → shows { j with stream := replaced h.refresh.testBit r } r))
          ∧ (∀ h i, x.header = some h → h.existing = some i →
            ((refs[i]?).join = none → goesOn { j with poisoned := j.poisoned + 1, stream := x.stream })
              ∧ (∀ r, (refs[i]?).join = some r → shows { j with stream := replaced (fun _ => r.key) r } r)))
      ∧ (∀ (d : BitVec 4) (j : DecodeJob) (x : FrameInHand) (t : Nat × Nat × Nat) (peer : CoreNo) (r : Ring),
        s.hub.decoders[d.toNat] = some j → j.call.fault = none → j.frame = some x → (j.cut x.frame)[x.done]? = some t →
        s.decodeCore j = some peer → (s.core peer).status ≠ .contained →
        let bytes := j.tw * j.th * if j.fmt = 0 then 2 else 1
        let h := BitVec.ofNat 6 (r.f.toNat + r.p.toNat)
        let hd := (s.core peer).handle h
        let last := (j.cut x.frame).length ≤ x.done + 1
        let frames := j.frames + if x.done = 0 then 1 else 0
        (s.core peer).ringTakes j.ring.toNat bytes = true → (s.core peer).ring j.ring.toNat = some r → hd.st = 0 → hd.o = 1 →
        ¬(last ∧ j.limit ≠ 0 ∧ j.limit ≤ frames) →
        exec (.decodeTile d j.tiles) s = .next ((((s.updCore peer fun k => (({ k with bench := k.bench.write hd.base.toNat (j.tileBytes x t) } : Core).updHandle
            h fun y => { y with st := 2, o := 0, landed := BitVec.ofNat 20 bytes, rd := 0, err := 0, fetch := false, abort := false
                                psn := if x.corrupt then 1 else 0, arm := false, arrival := y.arm || y.arrival }).bumpRing
            j.ring.toNat true).updErrand j.call.errand fun e => e.putEntry {
              cap := 2, callno := j.call.callno, state := .notDone, choice := some (j.tiles + 1) })).setDecoder d (some { j with
                tiles := j.tiles + 1, frames := frames, poisoned := j.poisoned + if x.done = 0 ∧ x.corrupt = true then 1 else 0
                frame := if last then none else some { x with done := x.done + 1 } })))
      ∧ (∀ (d : BitVec 4) (j : DecodeJob) (c : Call), s.hub.decoders[d.toNat] = some j → j.call.fault = none →
        j.frame = none → s.hub.calls = [c] → c.cap = 2 → c.errand = j.call.errand → c.core = j.call.core → c.reply = j.call.reply →
        c.answer = none → c.lost = false → (s.crewOfErrand c.errand).isSome = true → (s.core c.core).status ≠ .contained →
        s.hub.clerkOpen 2 = true →
        let ended := fun (status errc : Nat) => (s.updHub fun h => { h with calls := [], decoders := h.decoders.set d.toNat none }).replied c
          s.hub.wicket (((s.errand c.errand).entry 2 c.callno).bind (·.choice)) (replyOf c.callno status errc [j.frames, j.poisoned, j.tiles])
        (s.upcoming j = .ok .ended → exec (.decodeJobEnd d false) s = .next (ended 0 0))
          ∧ (s.upcoming j = .ok .unsupported → exec (.decodeJobEnd d true) s = .next (ended 2 2))
          ∧ (∀ x u, s.upcoming j = .ok (.frame x) → exec (.decodeJobEnd d u) s = .next s))

/-! ### The step -/

/-- R22, R32, R155, R324: a step runs what it fetches. A core whose bundle holds one slot word issues exactly as the decoded
instruction says by itself in that slot, once fetch has filled its caches and nothing stops it then, but for the sticky record of its engine
(R35); where the caches hold the bundle, on one page, fetch changes nothing (R11, R69); and `exec` is that for the slots L, S, V0, M and C0
(V1 and C1 differ from V0 and C0 by the slot alone); the array runs the micro-op its routine comes to; a sequencer runs the
step at PROG + 32 NEXT; an input whose time has come happens, a port write of 64 bytes at offset 0 as what it decodes to and any other not at
all (R317), and of two RENEWs at once the one through port A is the first (R334). -/
def Obligations.StepRunsTheDecodedInstruction : Prop :=
  (∀ (s : State) (c : CoreNo) (sl : Slot) (w : Nat) (x : Option Nat) (i : Instr), s.AtBundle c sl w x .none → decodeSlot sl w x = .ok i →
      (∀ bt, i = .aret bt → (s.core c).arrCtx ≠ none) → (∀ bt k, i = .tret bt k → (s.core c).trapCtx ≠ none) →
      let s0 := { s with cur := c }
      let t := s0.afterFetch s0.fetch
      t.mayIssue c = true → ∃ u v : State, exec (.bundleIssue c) s = .next u
        ∧ t.solo sl.index (if x = none then 1 else 2) (slotOp i) = .next v
        ∧ u = v.updMe fun k => { k with sticky := u.me.sticky, slot := u.me.slot, reissue := u.me.reissue, tileOk := u.me.tileOk })
    ∧ (∀ (s : State) (c : CoreNo) (sl : Slot) (w : Nat) (x : Option Nat), s.AtBundle c sl w x .none →
      let k := s.core c
      let n := if x = none then 2 else 3
      (∀ i < n, ∃ key, s.codeKey (some (clusterOf c)) k k.pc i = some key ∧ (cachedWord k.icache key).isSome = true) →
      k.pc.toNat / 4096 = (k.pc.toNat + 4 * n - 1) / 4096 →
      (∀ va, va = k.pc.toNat ∨ va = k.pc.toNat + 4 * n - 1 → (cachedPage (s.cluster (clusterOf c)).tlb k.theLaunch.asid va).isSome = true) →
      s.Resident c)
    ∧ (∀ (s : State) (c : CoreNo) (sl : Slot) (w : Nat) (x : Option Nat), s.AtCached c sl w x .none →
      let s0 := { s with cur := c }
      s0.afterFetch s0.fetch = s0 ∧ s0.mayIssue c = true)
    ∧ (∀ (s : State) (sl : Slot) (w : Nat) (x : Option Nat) (i : Instr), decodeSlot sl w x = .ok i → (x = none ↔ w < 2 ^ 31) → w < 2 ^ 32 →
      sl ≠ .v1 → sl ≠ .c1 → exec i s = s.solo sl.index (if x = none then 1 else 2) (slotOp i))
    ∧ (∀ (s : State) (c : CoreNo), s.agenda = [] → s.whoseTurn = (c.toNat, 0) →
      step s = exec (.bundleIssue c) { s with turn := 64 * c.toNat + 1 })
    ∧ (∀ (s : State) (c : CoreNo) (r : Routine) (i : Instr), s.agenda = [] → s.whoseTurn = (c.toNat, 10) →
      (s.core c).matrix.routine = some r → (s.core c).matrix.microWord r = some i →
      step s = exec i { s with turn := 64 * c.toNat + 11, cur := c })
    ∧ (∀ (s : State) (r : RecNo) (i : Instr) (bs : List Byte), s.agenda = [] → s.whoseTurn = (576 + r.toNat, 0) →
      (s.errand r).fetches = true → (s.errand r).waitStep = none → (s.errand r).next < 2 ^ 20 →
      s.vread (s.errand r).asid ((s.errand r).prog + BitVec.ofNat 64 (32 * (s.errand r).next)).toNat 32 = .ok bs →
      decodeStep r (leNat bs) = .ok i → step s = exec i { s with turn := 64 * (576 + r.toNat) + 1 })
    ∧ (∀ (s : State) (ns : Nat) (rest : List Due),
      (∀ i, s.agenda = { after := 0, ns := ns, input := .op i } :: rest → step s = exec i { s with agenda := rest, now := s.now + ns })
        ∧ (∀ p page (off : BitVec 12) (size : Nat) bits, s.agenda = { after := 0, ns := ns, input := .portWrite p page off size bits } :: rest →
          let t := { s with agenda := rest, now := s.now + ns }
          step s = if off = 0 ∧ size = 64 then exec (decodePortWrite p page bits.toNat) t else .next t)
        ∧ (∀ p page (off : BitVec 12) (size : Nat), s.agenda = { after := 0, ns := ns, input := .portRead p page off size } :: rest →
          let t := { s with agenda := rest, now := s.now + ns }
          step s = if off ≠ 0 then .next (t.updHub fun h => { h with queried := some (p, page, 0) })
            else if size = 64 then exec (.query p page) t else .next t)
        ∧ (s.agenda = { after := 0, ns := ns, input := .renewBoth } :: rest → s.hub.ready = true → s.hub.active = none →
          step s = .next ({ s with agenda := rest, now := s.now + ns }.updHub fun h =>
            { h with active := some .a, leaseEnd := s.now + ns + 10000000 })))

/-- R65, R67, R264, R268, R269, R272 to R274, R277, R288, R290: the events of a core's own: a trap of kind A and a precise one enter the
handler, or stop the core and its crew where TRAPVEC has no entry; results arrive, a later arrival over an earlier; a timing restart goes
back to the snapshot; records enter their rings before PROD; a window of statistics ends; a contained core loses its state, and a peer's
wait at its barrier ends with PEER_LOST (R278). -/
def Obligations.CoreEvents : Prop :=
  ∀ (s : State) (c : CoreNo),
    let k := s.core c
    let kr := (s.riseEnd c).core c
    (∀ p : PendingTrap, k.pendingA = [p] → p.written = false → p.record.cls = 0 → k.status = .running → k.restart = none → k.issue = 0 →
        k.hold = .none → k.theLaunch.residual = none → k.trapCtx = none → k.arrCtx = none →
        let t := { p.record with seq := k.seq[0], nest := false }
        (k.CanEnter → ∃ u, exec (.trapDelivery c) s = .next u ∧ s.OnlyCore u c ∧ (u.core c).pendingA = []
            ∧ kr.Entered (u.core c) t false k.pc k.pc)
          ∧ (k.ctl.trapvec.toNat / 16 % 2 ^ 53 = 0 → ∃ u, exec (.trapDelivery c) s = .next u ∧ (u.core c).status = .stopped
            ∧ (u.core c).records = k.records ++ [t] ∧ (u.core c).s = k.s ∧ (u.core c).bench = k.bench ∧ u.hbm = s.hbm
            ∧ (∀ w, s.crewAt c = some w → (∀ d ∈ w.cores, (s.core d).status = .running → (u.core d).status = .stopped)
              ∧ ∃ x ∈ u.hub.crews, x.clusters = w.clusters ∧ x.faulted = true)))
      ∧ (∀ t : TrapRecord, s.cur = c → t.cls = 0 → k.theLaunch.residual = none →
        (k.CanEnter → s.OnlyCore (s.takePrecise t) c
            ∧ kr.Entered ((s.takePrecise t).core c) { t with seq := k.seq[0], nest := false } true k.baddr k.nextPc)
          ∧ (k.ctl.trapvec.toNat / 16 % 2 ^ 53 = 0 ∨ k.trapCtx ≠ none ∨ k.arrCtx ≠ none → ((s.takePrecise t).core c).status = .stopped
            ∧ ((s.takePrecise t).core c).records = k.records ++ [{ t with seq := k.seq[0], nest := k.trapCtx.isSome || k.arrCtx.isSome }]))
      ∧ (∀ p ps, k.pend = p :: ps → p.due ≤ k.cycleNat → p.events = [] → (∀ q ∈ ps, k.cycleNat < q.due) →
        exec (.resultArrival c) s = .next (s.updCore c fun k => (p.writes.foldl Core.land1 { k with pend := ps }).raise p.flags))
      ∧ (∀ p q, k.pend = [p, q] → p.due ≤ k.cycleNat → q.due ≤ k.cycleNat → p.events = [] → q.events = [] →
        exec (.resultArrival c) s = .next (s.updCore c fun k =>
          ((q.writes.foldl Core.land1 (p.writes.foldl Core.land1 { k with pend := [] })).raise p.flags).raise q.flags))
      ∧ (∀ t, k.restart = some t → k.pend = [] → ∃ u, exec (.timingRestart c) s = .next u ∧ s.OnlyCore { u with cur := s.cur } c
        ∧ (u.core c).pc = k.snapshot.pc ∧ (u.core c).issue = 0 ∧ (u.core c).sticky = k.snapshot.stickies ∧ (u.core c).restart = none
        ∧ (u.core c).restarted = true ∧ (u.core c).stop = false ∧ (u.core c).interlocked = true ∧ (u.core c).ctl.cycle = k.ctl.cycle + 1 ∧ (u.core c).s = k.s ∧ (u.core c).v = k.v
        ∧ (u.core c).bench = k.bench ∧ (u.core c).handles = k.handles)
      ∧ (∀ (t : TrapRecord) (rest : List TrapRecord) (pb pr : Nat), k.records = t :: rest → t.cls.toNat < 4 →
        let b := k.theLaunch.trapring.toNat / 2 ^ 6 % 2 ^ 51 * 64
        let size := 2 ^ (k.theLaunch.trapring.toNat % 16 + 6)
        let prod := s.hbm.num pb 8
        let asid := k.theLaunch.asid
        s.translate asid b = .hbm pb → (prod + 2 ^ 64 - s.hbm.num (pb + 8) 8) % 2 ^ 64 ≠ size →
        s.translate asid (b + 64 + 64 * (prod % size)) true = .hbm pr →
        let m := s.hbm.write pr t.bytes
        { s with hbm := m }.translate asid b true = .hbm pb → exec (.trapRecordWrite ⟨t.cls, c⟩) s =
          .next ((({ s with hbm := m.write pb (leBytes 8 ((prod + 1) % 2 ^ 64)) }.updCore c fun k =>
              { k with records := rest, ringHeld := k.ringHeld &&& ~~~(1#4 <<< t.cls.toNat) }).updErrand k.theLaunch.errand fun e => { e with prodSeen := BitVec.ofNat 64 ((prod + 1) % 2 ^ 64) }).notice k.theLaunch.errand 3 t.seq.toNat))
      ∧ (∀ (w : DWord × DWord) (rest : List (DWord × DWord)) (pb pr : Nat), k.statRing = w :: rest →
        k.inForce.statcfg.getLsbD 16 = true → k.launch.isSome = true →
        let b := k.theLaunch.statring.toNat / 2 ^ 6 % 2 ^ 51 * 64
        let size := 2 ^ (k.theLaunch.statring.toNat % 16 + 6)
        let prod := s.hbm.num pb 8
        let asid := k.theLaunch.asid
        s.translate asid b = .hbm pb → (prod + 2 ^ 64 - s.hbm.num (pb + 8) 8) % 2 ^ 64 ≠ size →
        s.translate asid (b + 64 + 16 * (prod % size)) true = .hbm pr →
        let m := s.hbm.write pr (leBytes 8 w.1.toNat ++ leBytes 8 w.2.toNat)
        { s with hbm := m }.translate asid b true = .hbm pb → exec (.statRecordDrain c) s =
          .next ({ s with hbm := m.write pb (leBytes 8 ((prod + 1) % 2 ^ 64)) }.updCore c fun k => { k with statRing := rest }))
      ∧ (let len := k.inForce.statwin.toNat
        (len ≠ 0 → k.statStart + len ≤ k.cycleNat → ∃ u n, exec (.statisticsWindow c) s = .next u ∧ u = (s.updCore c fun k =>
            { k with statSums := Vector.replicate 5 0, statFired := 0, statStart := k.statStart + n * len })
          ∧ k.statStart + n * len ≤ k.cycleNat ∧ k.cycleNat < k.statStart + (n + 1) * len)
          ∧ (len = 0 ∨ k.cycleNat < k.statStart + len → exec (.statisticsWindow c) s = .next s))
      ∧ (∀ (w : Crew) (mem : BitVec 3), s.crewAt c = some w → s.hub.crews = [w] → s.hub.colls = [] → k.status = .running →
        w.stopping = false →
        let waits := fun (d : CoreNo) => (s.core d).hold = .waitv ∨ (s.core d).hold = .hwait ∨ (s.core d).hold = .accept ∨ ∃ b, (s.core d).hold = .bar b
        ∃ u t, exec (.containment c mem) s = .next u ∧ (u.core c).status = .contained ∧ (u.core c).pend = [] ∧ (u.core c).buffer = []
          ∧ (u.core c).c0.queue = [] ∧ (u.core c).c1.queue = [] ∧ (u.core c).hold = .none ∧ (u.core c).records = k.records ++ [t]
          ∧ t.cause = 0x0F ∧ t.unit = c ∧ t.aux = mem.setWidth 12 ∧ u.hub.crews = [{ w with
              faulted := true, containedAt := some (w.containedAt.getD s.now) }]
          ∧ ((∀ d ∈ w.cores, d ≠ c → ¬waits d) → ∀ d, d ≠ c → u.core d = s.core d) ∧ (∀ d ∉ w.cores, u.core d = s.core d)
          ∧ (∀ d b, d ∈ w.cores → d ≠ c → clusterOf d = clusterOf c → (s.core d).hold = .bar b → (s.core d).status = .running →
            (s.core d).theLaunch.residual = none → (s.core d).CanEnter → (∀ e ∈ w.cores, e ≠ c → e ≠ d → ¬waits e) →
            ∃ x, (u.core d).records = (s.core d).records ++ [x] ∧ x.cause = 0x10 ∧ x.op = 0x0D ∧ (u.core d).hold = .none
              ∧ (u.core d).trapCtx.isSome = true ∧ (u.core d).pc = BitVec.ofNat 64 ((s.core d).ctl.trapvec.toNat / 16 % 2 ^ 53 * 16))
          ∧ (∀ r, u.errand r = s.errand r) ∧ u.hbm = s.hbm)
      ∧ (∀ w t, s.crewAt c = some w → w.containedAt = some t → k.status = .running → k.hold ≠ .none → t + 10000000 ≤ s.now →
        k.holdAt + 10000000 ≤ s.now → exec (.containmentWaitTimeout c) s = .next (s.updCore c fun k =>
          { k with status := .stopped, sticky := {}, hold := .none }))

/-- R85 to R87, R152, R169, R172, R238, R239: what ends a core's waits: an HWAIT on a handle that is FULL with O = 0, a WAITV on a yard
word that meets its condition, an MWAIT on an idle array, a DRAIN that has committed; each then goes on past its bundle. A latch load ends
with its panel, and past MAXRED the array of a crew being stopped takes no more operations. -/
def Obligations.HoldReleases : Prop :=
  ∀ (s : State) (c : CoreNo),
    let k := s.core c
    let passes := fun (i : Instr) (q : Word) => ∃ u, exec i s = .next u ∧ (u.core c).hold = .none ∧ (u.core c).pc = k.pc + 8
      ∧ (u.core c).s = k.s ∧ (u.core c).v = k.v ∧ (u.core c).bench = k.bench ∧ (u.core c).handles = k.handles
      ∧ (u.core c).matrix = k.matrix ∧ (u.core c).ctl.quantEnd = q ∧ u.hbm = s.hbm
      ∧ u.clusters = s.clusters ∧ ∀ d, d ≠ c → u.core d = s.core d
    (∀ w bt h, s.AtCached c .l w none .hwait → decodeSlot .l w none = .ok (.hwait bt 0 0 h) → (k.handle h).size ≠ 0 →
        ((k.handle h).st = 2 → (k.handle h).o = 0 → passes (.hwaitRelease c) k.ctl.quantEnd)
          ∧ ((k.handle h).st = 1 → ∃ u, exec (.hwaitRelease c) s = .next u ∧ (u.core c).hold = .hwait
            ∧ (u.core c).pc = k.pc ∧ (u.core c).handles = k.handles))
      ∧ (∀ w bt a b z, s.AtCached c .l w none .waitv → decodeSlot .l w none = .ok (.waitv bt a b 0 z) → k.arrCtx = none → k.buffer = [] →
        (k.readS a).toNat % 2 ^ z.toNat = 0 → 0x10000000 ≤ (k.readS a).toNat → (k.readS a).toNat + 2 ^ z.toNat ≤ 0x10400000 →
        leNat (s.yardBytes c ((k.readS a).toNat - 0x10000000) (2 ^ z.toNat)) = (k.readS b).toNat % 2 ^ (8 * 2 ^ z.toNat) →
        passes (.waitvPoll c) (((s.riseEnd c).core c).ctl.quantEnd + 1))
      ∧ (∀ w bt, s.AtCached c .m w none .mwait → decodeSlot .m w none = .ok (.mwait bt) → s.matrixIdle c = true → passes (.mwaitRelease c) k.ctl.quantEnd)
      ∧ (∀ sc q c0 c1 m, k.hold = .drain sc q c0 c1 m → s.drainMet c sc q c0 c1 m = true → k.pend = [] →
        let kr := (s.riseEnd c).core c
        ∃ u n, exec (.drainHoldEnd c) s = .next u ∧ (u.core c) = { kr with
          hold := .none, heldMem := k.heldMem + n, ctl := { kr.ctl with cycle := BitVec.ofNat 64 (k.cycleNat + n) } }
          ∧ ∀ d, d ≠ c → u.core d = s.core d)
      ∧ (∀ (e : BitVec 2), k.matrix.fault = none → k.ringClear 1 → k.matrix.reloading = false →
        let l := k.matrix.latches[e.toNat]
        l.loading = true → blockSize l.fmt.toNat = 0 →
        let loaded := fun (s : State) (bs : List Byte) => s.onMatrix c fun m => { m with
          latches := m.latches.set e.toNat { l with valid := true, loading := false, panel := bs, scales := [], supers := [] } }
        (l.source.handle ≠ none → exec (.latchLoadComplete c e) s = .next (loaded s l.panel))
          ∧ (∀ bs, l.source.handle = none →
            (s.reachLoad c l).operand c l.source.virt l.source.addr (l.k * 128 * elemBits l.fmt.toNat / 8) = .ok bs →
            exec (.latchLoadComplete c e) s = .next (loaded (s.reachLoad c l) bs)))
      ∧ (s.crewStopping c = true → s.mustStop c = false → k.theLaunch.maxred < k.cycleNat - k.matrix.retiredAt →
        exec (.maxredExpiry c) s = .next (s.onMatrix c fun m => { m with closed := true }))

/-! ### Clusters -/

/-- R86, R207 to R210, R214, R229: a quantum's commit puts the crew's buffered stores into the yard, cores in ascending index and each core's in
order, and empties them from the buffers; a scatter-accumulate round applies its commands to the yard, in a cycle in which the word's bank
serves nothing else; a barrier releases a core once every participant has made the arrival it is held for and the quanta that those ended have
committed, 4 cc after the last of them at the earliest; a collective segment with its parts in writes one result to every destination, and
with a lost peer, one lost before the part came too, aborts. Who the participants of a barrier are is notes/assumptions/46.md, an abort for a
participant lost before the part came notes/assumptions/65.md, parts of other packages and the loss of a link's peer
notes/assumptions/39.md, the order of a bank's accesses notes/assumptions/53.md. -/
def Obligations.ClusterEvents : Prop :=
  ∀ s : State,
    (∀ cl : ClusterNo,
      let y := s.cluster cl
      (let q := y.committed + 1
        let stores := (s.crewHere cl).flatMap fun c => ((s.core c).buffer.filter fun b => b.quantum ≤ q).flatMap (·.bytes)
        s.canCommit cl = true → ∃ t, exec (.quantumCommit cl) s = .next t
          ∧ t.cluster cl = { y with committed := q, yard := (t.cluster cl).yard, bankUses := (t.cluster cl).bankUses }
          ∧ (∀ a, (t.cluster cl).yard.read a = ((stores.reverse.find? fun w => w.1 == a).map (·.2)).getD (y.yard.read a))
          ∧ (∀ c ∈ s.crewHere cl, (t.core c).buffer = (s.core c).buffer.filter (fun b => q < b.quantum)
            ∧ (t.core c).ctl.quantEnd = (if (s.core c).atEnd = false ∧ (s.core c).ctl.quantEnd.toNat < q then BitVec.ofNat 32 q
              else (s.core c).ctl.quantEnd) ∧ (t.core c).bench = (s.core c).bench ∧ (t.core c).s = (s.core c).s ∧ (t.core c).pc = (s.core c).pc)
          ∧ (∀ c ∉ s.crewHere cl, t.core c = s.core c) ∧ (∀ o, o ≠ cl → t.cluster o = s.cluster o) ∧ t.hub = s.hub ∧ t.hbm = s.hbm
          ∧ t.dies = s.dies)
        ∧ (y.sacc = [] → y.saccRounds < y.committed → exec (.saccRound cl) s = .next (s.updCluster cl fun y =>
          { y with saccRounds := y.saccRounds + 1 }))
        ∧ (∀ (m : SaccCmd) (n : Nat), y.sacc = [m] → y.saccRounds < y.committed → m.round ≤ y.saccRounds + 1 → n < 8 → m.core = coreAt cl n →
          m.pos = 0 → ((s.core m.core).handle m.hi).size.toNat = 4 →
          let word := fun (h : BitVec 6) => (s.core m.core).bench.num ((s.core m.core).handle h).base.toNat 4
          let a := m.base.toNat + 4 * word m.hi
          let old := y.yard.num (a - 0x10000000) 4
          a % 4 = 0 → 0x10000000 ≤ a → a + 4 ≤ 0x10400000 →
          let new := if m.opc = 0 then fp32Add old (word m.hv) else if m.opc = 1 then (old + word m.hv) % 2 ^ 32
            else if m.opc = 2 ∨ m.opc = 3 then saccOp m.opc.toNat old (word m.hv)
            else if m.opc = 4 then (if toSigned 32 old ≤ toSigned 32 (word m.hv) then word m.hv else old)
            else (if toSigned 32 old ≤ toSigned 32 (word m.hv) then old else word m.hv)
          let bank := (a - 0x10000000) / 64 % 32
          ∃ (x : Nat) (kept : List BankUse), (∀ u ∈ kept, u ∈ y.bankUses) ∧ (s.core m.core).cycleNat ≤ x
            ∧ (∀ u ∈ y.bankUses, u.bank = bank → u.cycle ≠ x)
            ∧ exec (.saccRound cl) s = .next (((s.updCluster cl fun y => { y with
              saccRounds := y.saccRounds + 1, sacc := [], yard := y.yard.write (a - 0x10000000) (leBytes 4 new)
              bankUses := { bank := bank, cycle := x, requester := 24 } :: kept }).updCore m.core fun k =>
            (k.updHandle m.hi fun h => { h with rd := 4 }).updHandle m.hv fun h => { h with rd := 4 }).markSacc m fun c => { c with moved := true, rd := 4 }))
        ∧ (∀ b : BitVec 3,
          let arrival := fun (c d : CoreNo) => (s.core d).arrivals[b.toNat][(s.core c).arrivals[b.toNat].length - 1]?
          let met := fun (c : CoreNo) => (s.core c).hold = .bar b ∧ (s.core c).arrivals[b.toNat] ≠ []
            ∧ ∀ d ∈ s.participants cl, ∃ a, arrival c d = some a ∧ a.2 ≤ y.committed
          ∃ t, exec (.barrierRelease cl b) s = .next t
          ∧ (∀ c ∈ s.participants cl, met c → (t.core c).hold = .none ∧ (t.core c).released = true
            ∧ (t.core c).pc = (s.core c).pc ∧ (t.core c).bench = (s.core c).bench
            ∧ ((∀ d ∈ s.participants cl, ∀ a, arrival c d = some a → a.1 + 4 < 2 ^ 64) →
              ∀ d ∈ s.participants cl, ∀ a, arrival c d = some a → a.1 + 4 ≤ (t.core c).cycleNat))
          ∧ (∀ c, c ∉ s.participants cl ∨ ¬met c → t.core c = s.core c) ∧ t.hbm = s.hbm ∧ t.hub = s.hub ∧ t.clusters = s.clusters))
    ∧ (∀ (p q : CollPart) (group seg : Word), s.hub.colls = [p, q] → CollDesc.group p.desc = group.toNat → CollDesc.group q.desc = group.toNat →
      CollDesc.seg p.desc = seg.toNat → CollDesc.seg q.desc = seg.toNat → CollDesc.rank p.desc = 0 → CollDesc.rank q.desc = 1 →
      CollDesc.npart p.desc = 2 → q.key = p.key → CollDesc.type p.desc = 3 → CollDesc.op p.desc = 0 → p.data.length % 4 = 0 →
      q.core ≠ p.core → (∀ x ∈ [p, q], x.foreign = false ∧ x.gone = false ∧ s.joinsLost x = false ∧ x.hs ≠ x.hd) →
      let word := fun (bs : List Byte) (i : Nat) => leNat ((bs.drop (4 * i)).take 4)
      ∃ (t : State) (r : List Byte), exec (.collSegmentComplete group seg) s = .next t ∧ r.length = p.data.length
        ∧ (∀ i < p.data.length / 4, word r i = (word p.data i + word q.data i) % 2 ^ 32) ∧ t.hub.colls = []
        ∧ (∀ x ∈ [p, q], let k := t.core x.core
          (∀ j < r.length, k.bench.read (((s.core x.core).handle x.hd).base.toNat + j) = r.getD j 0)
            ∧ (k.handle x.hd).st = 2 ∧ (k.handle x.hd).o = 0 ∧ (k.handle x.hd).landed = BitVec.ofNat 20 r.length
            ∧ (k.handle x.hd).psn = (if p.poison || q.poison then 1 else 0) ∧ (k.handle x.hs).st = 0 ∧ (k.handle x.hs).o = 0)
        ∧ (∀ c, c ≠ p.core → c ≠ q.core → t.core c = s.core c) ∧ t.hbm = s.hbm)
    ∧ (∀ (p : CollPart) (i : Instr), s.hub.colls = [p] → p.foreign = false → p.gone = false → p.hs ≠ p.hd →
      (∃ port, i = .linkPeerLost port ∧ p.remote = true)
        ∨ (∃ group seg, i = .collSegmentComplete group seg ∧ CollDesc.group p.desc = group.toNat ∧ CollDesc.seg p.desc = seg.toNat
          ∧ s.joinsLost p = true) →
      ∃ t, exec i s = .next t ∧ t.hub.colls = [] ∧ ((t.core p.core).handle p.hd).st = 2
        ∧ ((t.core p.core).handle p.hd).o = 0 ∧ ((t.core p.core).handle p.hd).psn = 1 ∧ ((t.core p.core).handle p.hd).err = 4
        ∧ ((t.core p.core).handle p.hs).st = 0 ∧ ((t.core p.core).handle p.hs).o = 0
        ∧ (∀ j < ((s.core p.core).handle p.hd).size.toNat,
          (t.core p.core).bench.read (((s.core p.core).handle p.hd).base.toNat + j) = 0)
        ∧ (∀ c, c ≠ p.core → t.core c = s.core c) ∧ t.hbm = s.hbm)

/-- R292 to R297, R300 to R303, R305, R308 to R310, R312: leases are granted, refused, answered and end; the clock goes to its target; the
heat store, current pressure, sensitivity, temperature and slack move what they move, and the monitors fence a cluster past a limit. -/
def Obligations.PowerEvents : Prop :=
  ∀ (s : State) (cl : ClusterNo),
    let y := s.cluster cl
    let d := s.die (dieOf cl)
    let becomes := fun (i : Instr) (f : Cluster → Cluster) => exec i s = .next (s.updCluster cl f)
    let fences := fun (i : Instr) (f : Cluster → Cluster) (lim : BitVec 2) => exec i s = .next ((s.updCluster cl fun y =>
      { f y with fenced := true }).updHub fun h => { h with replaced := true, lastCl := cl, lastLim := lim })
    let base := if y.lease.isSome then (if y.lease.any (·.level == 1) then 950 else if y.lease.any (·.level == 2) then 1050 else 1150)
      else y.base
    let capped := if y.cap.any (· < base) then y.cap.getD base else base
    becomes (.clockStep cl) (fun y => { y with mhz := if y.throttled then min capped 600 else capped })
      ∧ (∀ c u (l : BitVec 2) r, clusterOf c = cl → (s.core c).request = some (r, u, l) → (s.core c).answer = none →
        let decided := fun (le : Option Lease) (v : Nat) => exec (.leaseRequestDecision c) s = .next ((s.updCluster cl fun y =>
          { y with lease := le }).updCore c fun k => { k with answer := some (BitVec.ofNat 64 v) })
        let us := min u.toNat 4000
        (l ≠ 0 → y.lease = none → us ≠ 0 → d.melt.toNat < 850 → d.refreeze = false → y.throttled = false →
            decided (some { level := l, ends := s.now + 1000 * us }) us)
          ∧ (∀ e, l ≠ 0 → y.lease = some e → s.now < e.ends → e.level < l → us ≠ 0 → d.melt.toNat < 850 → d.refreeze = false →
            y.throttled = false → decided (some { level := l, ends := s.now + 1000 * us }) us)
          ∧ (l ≠ 0 → y.lease = none → us ≠ 0 → 850 ≤ d.melt.toNat ∨ d.refreeze = true ∨ y.throttled = true → decided none 0)
          ∧ (∀ e, l ≠ 0 → y.lease = some e → s.now < e.ends → l ≤ e.level ∨ us = 0 → decided y.lease ((e.ends - s.now + 999) / 1000))
          ∧ (∀ e, l = 0 → y.lease = some e → s.now < e.ends → decided none ((e.ends - s.now + 999) / 1000)))
      ∧ (∀ c v (r : BitVec 5) u l, (s.core c).request = some (r, u, l) → (s.core c).answer = some v → (s.core c).pend = [] →
        (s.core c).hold = .sprint → (s.core c).divertDue = false → ∃ (t : State) (n : Nat), exec (.sprintAnswer c) s = .next t
          ∧ t.core c = { s.core c with
              request := none, answer := none, hold := .none
              s := if r = 0 ∨ (s.core c).answerArr = true then (s.core c).s else (s.core c).s.set r.toNat v
              arr := if r ≠ 0 ∧ (s.core c).answerArr = true then (s.core c).arr.set (BitVec.ofNat 3 (r.toNat - 24)).toNat v else (s.core c).arr
              ctl := { (s.core c).ctl with cycle := BitVec.ofNat 64 ((s.core c).cycleNat + n) + 1 } }
          ∧ n ≤ 2 * (s.cluster (clusterOf c)).mhz - 1 ∧ ∀ o, o ≠ c → t.core o = s.core o)
      ∧ (∀ e, y.lease = some e → e.ends ≤ s.now → ∃ t, exec (.leaseExpiry cl) s = .next t ∧ t.clusters = (s.updCluster cl fun y =>
          { y with lease := none }).clusters ∧ (∀ c ∈ s.crewHere cl, (s.core c).status ≠ .contained →
            (t.core c).ctl.xcnt = (s.core c).ctl.xcnt + 1 ∧ (t.core c).ctl.rev = false
              ∧ ((s.core c).inForce.mode.getLsbD 4 = true → (s.core c).status = .running → ∃ p, (t.core c).pendingA = (s.core c).pendingA ++ [p]
                ∧ p.source = 3 ∧ p.record.cause = 0x09 ∧ p.record.aux = e.level.setWidth 12))
          ∧ (∀ c ∉ s.crewHere cl, t.core c = s.core c) ∧ t.hub = s.hub ∧ t.hbm = s.hbm)
      ∧ (∀ (z : DieNo) (p : BitVec 10),
        (p.toNat < 950 → exec (.meltSample z p) s = .next (s.updDie z fun d => { d with
            melt := p, refreeze := d.refreeze && !(decide (p.toNat ≤ 250) && decide (d.lastHot + 30000000000 ≤ s.now)) }))
          ∧ (950 ≤ p.toNat → ∃ t, exec (.meltSample z p) s = .next t ∧ (t.die z).melt.toNat = min p.toNat 1000 ∧ (t.die z).refreeze = true
            ∧ (t.die z).lastHot = s.now ∧ (∀ x, dieOf x = z → (t.cluster x).lease = none) ∧ (∀ x, dieOf x ≠ z → t.cluster x = s.cluster x)
            ∧ t.hub = s.hub ∧ t.hbm = s.hbm))
      ∧ (let kept := (y.corrected.filter fun t => s.now < t + 3600000000000) ++ [s.now]
        (kept.length ≤ 256 → becomes (.correctedMemoryError cl) fun y => { y with corrected := kept })
          ∧ (256 < kept.length → y.fenced = false → s.led = true → fences (.correctedMemoryError cl) (fun y => { y with corrected := kept }) 1))
      ∧ (∀ n : BitVec 16, (Config.pmonTest cl * 92 ≤ 100 * n.toNat → becomes (.processMonitorSample cl n) fun y => { y with pmon := n })
        ∧ (100 * n.toNat < Config.pmonTest cl * 92 → y.fenced = false → s.led = true →
          fences (.processMonitorSample cl n) (fun y => { y with pmon := n }) 2))
      ∧ (∀ sag : BitVec 10, y.p3Spans = [] →
        let level := if 70 ≤ sag.toNat then 3 else if 50 ≤ sag.toNat then 2 else if 30 ≤ sag.toNat then 1 else 0
        let falls := min ((s.now - y.pressureAt) / 10000) y.pressure.toNat
        let now := y.pressure.toNat - falls
        let fallen := fun (y : Cluster) => { y with pressure := BitVec.ofNat 2 now, pressureAt := y.pressureAt + 10000 * falls }
        (y.p3Since = none →
          (level ≠ 0 → now ≤ level → level ≠ 3 →
              becomes (.droopSample cl sag) fun y => { y with pressure := BitVec.ofNat 2 level, pressureAt := s.now })
            ∧ (level = 3 → becomes (.droopSample cl sag) fun y => { y with pressure := 3, pressureAt := s.now, p3Since := some s.now })
            ∧ (level = 0 ∨ level < now → becomes (.droopSample cl sag) fallen)
            ∧ becomes (.pressureDecay cl) fallen)
          ∧ (∀ t, y.p3Since = some t → y.pressure = 3 → s.now < y.pressureAt + 10000 → level = 3 →
            (s.now ≤ t + 10000000 → becomes (.droopSample cl sag) fun y => { y with pressureAt := s.now })
              ∧ (t + 10000000 < s.now → s.now < 1000000000 → y.fenced = false → s.led = true →
                fences (.droopSample cl sag) (fun y => { y with pressureAt := s.now }) 3))
          ∧ (y.p3Since = some y.pressureAt → y.pressure = 3 → level = 0 → y.pressureAt + 30000 ≤ s.now → s.now < y.pressureAt + 1000000000 →
            let worn := fun (y : Cluster) => { y with
              pressure := 0, pressureAt := y.pressureAt + 30000, p3Since := none, p3Spans := [(y.pressureAt, y.pressureAt + 10000)] }
            becomes (.droopSample cl sag) worn ∧ becomes (.pressureDecay cl) worn))
      ∧ (y.windowAt + 50000 ≤ s.now → ∃ t, exec (.sensitivityWindow cl) s = .next t ∧
        let i := ((s.crewHere cl).map fun c => (s.core c).issued).sum
        let m := ((s.crewHere cl).map fun c => (s.core c).heldMem).sum
        let hi := y.sens.toNat / 2 ^ 48 % 2 ^ 10
        let lo := y.sens.toNat / 2 ^ 32 % 2 ^ 10
        let fmax := y.sens.toNat / 2 ^ 16 % 2 ^ 11
        let fmin := y.sens.toNat % 2 ^ 11
        let x := 1000 * i / (i + m)
        let next := if y.lease.isSome ∨ i + m = 0 then y.base else if x < lo ∧ fmin < y.base then y.base - 25
          else if hi < x ∧ y.base < fmax then y.base + 25 else y.base
        t.clusters = (s.updCluster cl fun y => { y with base := next, sens := s.sensReg cl, windowAt := y.windowAt + 50000 }).clusters
          ∧ (∀ c, t.core c = if clusterOf c = cl then { s.core c with issued := 0, heldMem := 0 } else s.core c))
      ∧ (∀ a : BitVec 12,
        (y.throttled = false → a.toNat < 760 → becomes (.temperatureSample cl a) fun y => { y with tmax := a })
          ∧ (∀ t, y.throttleAt = some t → s.now < t + 2000000 → becomes (.temperatureSample cl a) fun y => { y with tmax := a })
          ∧ (y.throttled = false → 760 ≤ a.toNat → (∀ t, y.throttleAt = some t → t + 2000000 ≤ s.now) → y.lease = none →
            s.now < y.slackAt + 50000 →
            becomes (.temperatureSample cl a) fun y => { y with
              tmax := a, throttled := true, throttleAt := some s.now, throttleMarks := y.throttleMarks ||| 1 })
          ∧ (y.throttled = true → a.toNat < 736 → (∀ t, y.throttleAt = some t → t + 2000000 ≤ s.now) →
            becomes (.temperatureSample cl a) fun y => { y with tmax := a, throttled := false, throttleAt := some s.now })
          ∧ (y.throttled = true → 736 ≤ a.toNat → becomes (.temperatureSample cl a) fun y => { y with tmax := a }))
      ∧ (s.now < y.slackAt + 50000 → exec (.slackWindow cl) s = .next s)
      ∧ (∀ n : Nat, y.slackAt + 50000 * (n + 2) ≤ s.now → s.now < y.slackAt + 50000 * (n + 3) →
        becomes (.slackWindow cl) fun y => { y with
          cap := none, slack := none, collSeen := false, throttleMarks := y.throttleMarks <<< (n + 2), slackAt := y.slackAt + 50000 * (n + 2) })
      ∧ (y.slackAt + 50000 ≤ s.now → s.now < y.slackAt + 100000 →
        let r := s.slackReg.toNat
        let hi : Int := 1000 * (r / 2 ^ 16 % 2 ^ 16 : Nat)
        let lo : Int := 1000 * (r % 2 ^ 16 : Nat)
        let fmin := y.sens.toNat % 2 ^ 11
        let ends := fun (cap : Option Nat) => becomes (.slackWindow cl) fun y => { y with
          cap := cap, slack := none, collSeen := false, throttleMarks := y.throttleMarks <<< 1, slackAt := y.slackAt + 50000 }
        (y.collSeen = false → ends none) ∧ (y.collSeen = true → y.slack = none → ends y.cap)
          ∧ (∀ x, y.collSeen = true → y.slack = some x →
            (hi < x → ends (some (max (y.cap.getD 1150 - 25) fmin))) ∧ (lo ≤ x → x ≤ hi → ends y.cap)
              ∧ (∀ c, ¬hi < x → x < lo → y.cap = some c → ends (if 1150 ≤ c + 25 then none else some (c + 25)))
              ∧ (¬hi < x → x < lo → y.cap = none → ends none)))

/-! ### The hub and the package -/

/-- R225, R334, R336, R339, R348, R350, R351, R369, R387, R405: the hub's own events: the host's lease lapses and the other port takes over;
the stewards' lease; a Fitter engine takes a launch, runs out of time, fails or stores its residual; the Foreman grants a cluster and its
cores start at their entry; an invalidation completes once every translation cache, the hub's walkers among them, has dropped what it covers;
an attestation report is performed, with the head taken when GO was written (notes/assumptions/36.md). -/
def Obligations.HubEvents : Prop :=
  ∀ s : State,
    (∀ p, s.hub.active = some p → s.hub.leaseEnd ≤ s.now → s.led = true → s.hub.crews = [] →
        ∃ t, exec .hostLeaseExpiry s = .next t ∧ t.hub.active = some (if p = .a then .b else .a) ∧ t.hub.leaseEnd = s.now + 10000000
          ∧ t.hub.focnt = s.hub.focnt + 1 ∧ t.hbm = s.hbm ∧ t.cores = s.cores
          ∧ ∀ r, let e := s.errand r
            (e.port ≠ p ∨ e.state = .idle → t.errand r = e)
              ∧ (e.port = p → e.state = .running ∨ e.state = .waiting → e.saving = none → (t.errand r).state = .parked
                ∧ (t.errand r).reason = .failover ∧ (t.errand r).adoptTo = (e.state, e.reason) ∧ (t.errand r).token = e.token
                ∧ (t.errand r).join = none ∧ (t.errand r).next = e.next))
      ∧ (s.now < s.hub.leaseEnd → exec .hostLeaseExpiry s = .next s)
      ∧ exec .stewardLeaseRenew s = .next (if s.now < s.hub.steward.expiry then
          s.updHub fun h => { h with steward := { h.steward with expiry := s.now + 2000000 } } else s)
      ∧ exec .stewardLeaseExpiry s = .next s
      ∧ (∀ rank : BitVec 3, s.hub.ready = true → rank ≠ 0 → rank.toNat ≤ 4 → s.hub.steward.expiry + 100000 * rank.toNat ≤ s.now →
        s.hub.clerkAsk = 0 → s.hub.clerkSt = Vector.replicate 8 0 → s.hub.active = none ∨ s.now < s.hub.leaseEnd →
        exec (.stewardLeaseTakeover rank) s = .next (s.updHub fun h => { h with steward := {
          holder := BitVec.ofNat 3 ((h.steward.holder.toNat + rank.toNat) % 5), epoch := h.steward.epoch + 1, expiry := s.now + 2000000 } }))
      ∧ (∀ (e : BitVec 2) (q : LaunchReq) (qs : List LaunchReq), s.hub.fitters[e.toNat] = none → s.hub.fitQueue = q :: qs →
        q.kernel.config.getLsbD 0 = false → s.lookup q.kernel = none → s.beingFitted q.kernel = false →
        exec (.fitterJob e) s = .next (s.updHub fun h => { h with
          fitQueue := qs, fitters := h.fitters.set e.toNat (some { req := q, stage := 1, taken := s.now }) }))
      ∧ (∀ (e : BitVec 2) (j : FitJob), s.hub.fitters[e.toNat] = some j → j.stage = 1 →
        (∀ (x : BitVec 2) w, x ≠ e → s.hub.fitters[x.toNat] = some w → w.stage = 1) →
        let freed := s.updHub fun h => { h with fitters := h.fitters.set e.toNat none }
        let asks := fun (t : State) (reason : BitVec 4) (state : BitVec 2) (residual : Option Nat) => (t.updHub fun h => { h with
          waiting := h.waiting ++ [{ j.req with spec := { reason := reason, state := state }, residual := residual }] }).foreman
        (j.taken + 2000000 ≤ s.now → exec (.fitBudgetExpiry e) s = .next (asks freed 4 0 none)
            ∧ exec (.fittingComplete e) s = .next (asks freed 4 0 none))
          ∧ (∀ reason, s.now < j.taken + 2000000 → s.fitKernel j.req.errand j.req.kernel = .failed reason →
            exec (.fittingComplete e) s = .next (asks freed reason 0 none))
          ∧ (∀ progs bundles entries bytes mask, s.now < j.taken + 2000000 →
            s.fitKernel j.req.errand j.req.kernel = .fitted progs bundles entries bytes mask →
            s.hub.directory < 8192 →
            s.hub.residualBytes + bytes ≤ 512 * 2 ^ 20 → (∀ x ∈ s.hub.cache, x.id ≠ s.hub.nextEntry) →
            exec (.fittingComplete e) s = .next (asks (freed.updHub fun h => { h with
              nextEntry := h.nextEntry + 1
              cache := h.cache ++ [{
                id := h.nextEntry, kid := j.req.kernel.kid, mask := mask, values := j.req.kernel.uniform, digest := j.req.kernel.fmtDigest
                config := j.req.kernel.config, code := j.req.kernel.code, progs := progs, bundles := bundles, entries := entries, bytes := bytes, pins := 1
                nocache := j.req.kernel.config.getLsbD 2 }] }) 0 1 (some s.hub.nextEntry))))
      ∧ (∀ (q : LaunchReq) (cl : ClusterNo), s.hub.waiting = [q] → q.parked = false → q.gang = false → q.saved = none → q.residual = none →
        q.kernel.roles = [] → q.kernel.crew = 1 → s.freeClusters = [cl] → (s.errand q.errand).state = .running →
        ∃ t, exec .sliceEnd s = .next t ∧ t.hub.waiting = []
          ∧ t.hub.crews = s.hub.crews ++ [{
              errand := q.errand, prio := q.prio, gang := false, kernel := q.kernel, spec := q.spec, clusters := [cl], granted := s.now
              faulted := q.faulted, containedAt := q.containedAt }]
          ∧ t.hub.lostErrands = s.hub.lostErrands.erase q.errand
          ∧ (∀ i < 8, let k := t.core (coreAt cl i)
            k.status = .running ∧ k.pc = q.kernel.code ∧ k.issue = 0 ∧ k.hold = .none ∧ k.pend = [] ∧ k.s = Vector.replicate 32 0
              ∧ k.v = Vector.replicate 32 0 ∧ k.k = Vector.replicate 8 0 ∧ k.b = Vector.replicate 8 0 ∧ k.q = Vector.replicate 8 0
              ∧ k.n = Vector.replicate 6 0 ∧ k.ctl.mode = q.kernel.mode0 ∧ k.inForce.mode = q.kernel.mode0 ∧ k.ctl.cycle = 0
              ∧ k.ctl.trapvec = 0 ∧ k.ctl.quantEnd = 0 ∧ k.buffer = [] ∧ k.sticky = {} ∧ k.snapshot = { pc := q.kernel.code }
              ∧ (∀ j : Fin 64, k.g[j] = q.kernel.uniform.getD j 0) ∧ k.launch.isSome = true)
          ∧ (t.cluster cl).committed = 0 ∧ (t.cluster cl).lease = none ∧ (∀ c, clusterOf c ≠ cl → t.core c = s.core c) ∧ t.hbm = s.hbm)
      ∧ (s.hub.waiting = [] → exec .sliceEnd s = .next s)
      ∧ (∀ v vs, s.hub.invals = v :: vs →
        ((∃ w ∈ s.hub.egress, w.host = false) → exec .invalidationComplete s = .next s)
          ∧ ((∀ w ∈ s.hub.egress, w.host = true) → exec .invalidationComplete s = .next ({ s with clusters := s.clusters.map fun (y : Cluster) =>
              { y with tlb := y.tlb.filter fun p => !invalCovers v p } }.updHub fun h =>
            { h with tlb := h.tlb.filter fun p => !invalCovers v p, invals := vs, invDone := h.invDone + 1 })))
      ∧ (s.hub.attest = true → s.hub.attestHead.length = 256 → ∃ rest : List Byte, rest.length = 16608
        ∧ exec .attestReportComplete s = .next
          ({ s with hbm := s.hbm.write s.hub.attestAddr.toNat (s.hub.attestHead ++ rest) }.updHub fun h =>
            { h with attest := false, attestHead := [] }))

/-- R18, R216, R222, R285, R302, R401 to R404, R409: package reset and rail faults; boot from the images of slot A or B, or recovery with its cause;
an image is accepted only where every field of its header holds, with both its signatures (R18, R403); a hot reset of a port; host writes to
HBM; a link flit is delivered once and in order, and saved while a gang that spans packages is stopped; a loft refresh changes no state of its
own. That a core is blank after package reset is notes/assumptions/2.md, and that HBM, yard and loft are empty is notes/assumptions/4.md. -/
def Obligations.PackageEvents : Prop :=
  ∀ s : State,
    (∃ t, exec .packageReset s = .next t ∧ exec .railFault s = .next t ∧ (∀ c, t.core c = Core.blank) ∧ (∀ r, t.errand r = {})
        ∧ t.hbm = [] ∧ t.host = s.host ∧ t.now = s.now ∧ t.hub.ready = false ∧ t.hub.recov = false ∧ t.hub.active = none
        ∧ t.hub.flash = s.hub.flash ∧ t.hub.bar0 = [] ∧ t.hub.crews = [] ∧ t.hub.waiting = [] ∧ t.hub.cache = [] ∧ t.hub.focnt = 0 ∧ t.hub.stewards = []
        ∧ (∀ cl, let y := t.cluster cl
          y.yard = [] ∧ y.lease = none ∧ y.base = 800 ∧ y.mhz = 800 ∧ y.cap = none ∧ y.fenced = false ∧ y.throttled = false
            ∧ y.pressure = 0 ∧ y.tmax = (s.cluster cl).tmax)
        ∧ ∀ d, (t.die d).loft = [] ∧ (∀ b ∈ (t.die d).bays.toList, b = none) ∧ (t.die d).melt = (s.die d).melt
          ∧ (t.die d).refreeze = decide (250 ≤ (s.die d).melt.toNat))
      ∧ (∀ b : Nat → Nat → List Byte, imageAccepted b = true ↔ leNat (b 0 4) = 0x49424D47 ∧ leNat (b 4 2) ≤ 2 ∧ (∀ x ∈ b 16672 224, x = 0)
        ∧ b 16 48 = Sha.sha384 (b 16896 (leNat (b 8 4))) ∧ Config.rsaSigned (b 0 64) (b 64 384) = true
        ∧ Config.slhSigned (b 0 64) (b 448 16224) = true ∧ Config.minSvn (leNat (b 4 2)) ≤ leNat (b 12 4))
      ∧ (s.hub.ready = false → s.hub.recov = false → ∀ hbm : Bool,
        let image := fun (slotB : Bool) (i : Nat) => imageAccepted fun at_ n =>
          fitBytes n ((s.hub.flash.toList.getD (if slotB then 9 + i else i) []).drop at_)
        let up := fun (slotB : Bool) (fail : BitVec 8) => ∃ t, exec (.boot hbm) s = .next t ∧ t.hub.ready = true ∧ t.hub.recov = false
          ∧ t.hub.slotB = slotB ∧ t.hub.fail = fail ∧ t.hub.steward = { holder := 0, epoch := 1, expiry := s.now + 2000000 }
          ∧ (∀ i : Fin 9, t.hub.images[i] = fitBytes 48 ((s.hub.flash.toList.getD (if slotB then 9 + i.val else i.val) []).drop 16))
          ∧ (∀ d, (t.die d).loft = []) ∧ t.cores = s.cores ∧ t.hbm = s.hbm
        let down := fun (slotB : Bool) (fail : BitVec 8) => exec (.boot hbm) s = .next (s.updHub fun h =>
          { h with recov := true, slotB := slotB, fail := fail })
        let rest := fun (slotB : Bool) => ∀ i, 1 ≤ i → i ≤ 8 → image slotB i = true
        (image false 0 = true → rest false → hbm = true → up false 0) ∧ (image false 0 = true → ¬rest false → down false 4)
          ∧ (image false 0 = true → rest false → hbm = false → down false 3)
          ∧ (image false 0 = false → image true 0 = true → rest true → hbm = true → up true 1)
          ∧ (image false 0 = false → image true 0 = true → ¬rest true → down true 4)
          ∧ (image false 0 = false → image true 0 = true → rest true → hbm = false → down true 3)
          ∧ (image false 0 = false → image true 0 = false → down false 2))
      ∧ (∀ p, s.hub.active ≠ some p → exec (.hotReset p) s = .next (s.updHub fun h =>
        if p = .a then { h with noticeA := {} } else { h with noticeB := {} }))
      ∧ (∀ p, s.hub.active = some p → s.led = true → ∃ t, exec (.hotReset p) s = .next t ∧ t.hub.active = some (if p = .a then .b else .a)
        ∧ t.hub.focnt = s.hub.focnt + 1)
      ∧ (∀ pa : DWord, exec (.hostHbmAccess pa none) s = .next s ∧ ∀ bs : List Byte,
        (pa.toNat + bs.length ≤ 768 * 10 ^ 9 → exec (.hostHbmAccess pa (some bs)) s = .next { s with hbm := s.hbm.write pa.toNat bs })
          ∧ (768 * 10 ^ 9 < pa.toNat + bs.length → exec (.hostHbmAccess pa (some bs)) s = .next s))
      ∧ (∀ (port : BitVec 4) (n : Nat) (w : BitVec 512),
        let held := s.hub.linkHeld[port.toNat]
        (s.hub.stopped = [] → n = s.hub.linkSeq[port.toNat] + 1 → exec (.chetiaFlit port n w) s = .next (s.updHub fun h => { h with
            linkSeq := h.linkSeq.set port.toNat n, linkTaken := h.linkTaken ++ [(port, n, w)] }))
          ∧ (s.hub.stopped = [] → n ≠ s.hub.linkSeq[port.toNat] + 1 → exec (.chetiaFlit port n w) s = .next s)
          ∧ (s.hub.stopped ≠ [] → n = s.hub.linkSeq[port.toNat] + held.length + 1 → exec (.chetiaFlit port n w) s = .next (s.updHub fun h =>
            { h with linkHeld := h.linkHeld.set port.toNat (held ++ [(n, w)]) }))
          ∧ (s.hub.stopped ≠ [] → n ≠ s.hub.linkSeq[port.toNat] + held.length + 1 → exec (.chetiaFlit port n w) s = .next s))
      ∧ (∀ die, exec (.loftRefresh die) s = .next s)

/-! ### The whole machine -/

/-- R212 and the memories of every chapter: a step keeps every memory of the machine in its canonical form, from any state that has it so:
addresses strictly rising, no byte listed that an unlisted address reads as. -/
def Obligations.StepKeepsMemory : Prop := ∀ s t : State, s.MemWf → step s = .next t → t.MemWf

/-- Every step of every run answers a next state: no instruction and no event of the opcode table is refused, and none stops the machine
with a fault (R266 to R277 take every trap). -/
def Obligations.EveryRunGoesOn : Prop := ∀ s : State, Safe s

/-- R409, R404, R302: the package right after reset: no errand, no crew, no core with a kernel, both ports without a lease, the ports not up;
and every memory in canonical form. -/
def Obligations.ResetState : Prop :=
  let s := State.reset
  s.MemWf ∧ (∀ r, (s.errand r).state = .idle ∧ (s.errand r).token = 0) ∧ (∀ c, (s.core c).status = .off ∧ (s.core c).launch = none)
    ∧ s.hub.crews = [] ∧ s.hub.waiting = [] ∧ s.hub.active = none ∧ s.hub.ready = false ∧ s.hub.focnt = 0 ∧ s.hub.bar0 = []
    ∧ (∀ cl, (s.cluster cl).lease = none ∧ (s.cluster cl).mhz = 800 ∧ (s.cluster cl).fenced = false ∧ (s.cluster cl).throttled = false)
    ∧ ∀ d, ∀ b ∈ (s.die d).bays.toList, b = none

/-- R22, R29, R156, R317, R324: decoding and encoding agree. A well-formed instruction of each encoding is read back from its word with
every operand as it was, and a word of a slot, a micro-op or a step that decodes is the word of a well-formed instruction. -/
def Obligations.EncodingsRoundTrip : Prop :=
  (∀ (i : Instr) (w : Nat), i.wf = true →
      let x := if w % 2 ^ 32 < 2 ^ 31 then none else some (w / 2 ^ 32)
      (encodeL i = some w → decodeSlot .l (w % 2 ^ 32) x = .ok i) ∧ (encodeS i = some w → decodeSlot .s (w % 2 ^ 32) x = .ok i)
        ∧ (encodeV i = some w → decodeSlot .v0 (w % 2 ^ 32) x = .ok i ∧ decodeSlot .v1 (w % 2 ^ 32) x = .ok i)
        ∧ (encodeM i = some w → decodeSlot .m (w % 2 ^ 32) x = .ok i)
        ∧ (encodeC i = some w → decodeSlot .c0 (w % 2 ^ 32) x = .ok i ∧ decodeSlot .c1 (w % 2 ^ 32) x = .ok i)
        ∧ (encodeU i = some w → decodeMicro w = .ok i) ∧ (encodeE i = some w → ∃ r, decodeStep r w = .ok i)
        ∧ (encodeP i = some w → ∃ p r, decodePortWrite p r w = i))
    ∧ (∀ (w : Nat) (x : Option Nat) (i : Instr), w < 2 ^ 32 → (x = none ↔ w < 2 ^ 31) →
      let word := some (w + 2 ^ 32 * x.getD 0)
      (decodeSlot .l w x = .ok i → i.wf = true ∧ encodeL i = word) ∧ (decodeSlot .s w x = .ok i → i.wf = true ∧ encodeS i = word)
        ∧ (decodeSlot .v0 w x = .ok i → i.wf = true ∧ encodeV i = word) ∧ (decodeSlot .m w x = .ok i → i.wf = true ∧ encodeM i = word)
        ∧ (decodeSlot .c0 w x = .ok i → i.wf = true ∧ encodeC i = word))
    ∧ (∀ (w : Nat) (i : Instr), w < 2 ^ 64 → decodeMicro w = .ok i → i.wf = true ∧ encodeU i = some w)
    ∧ (∀ (r : RecNo) (w : Nat) (i : Instr), w < 2 ^ 256 → decodeStep r w = .ok i → i.wf = true ∧ encodeE i = some w)

/-- Words that the spec's worked programs and rules print, with what the spec says they are. -/
def Obligations.SpecWordsDecode : Prop :=
  decodeSlot .s 0x0B820028 none = .ok (.li 0 1 40) ∧ decodeSlot .s 0x00C41002 none = .ok (.addi ⟨0, 2, 1, 2⟩)
    ∧ decodeSlot .s 0x00461100 none = .ok (.add ⟨0, 3, 1, 2, 0⟩) ∧ decodeSlot .s 0x8B860000 (some 0x10000000) = .ok (.liExt 0 3 0x10000000)
    ∧ decodeSlot .s 0x07CE8820 none = .ok (.bfi ⟨0, 7, 8, 32, 32⟩) ∧ decodeSlot .s 0x0D03109B none = .ok (.stsx 0 1 17 1 3 3)
    ∧ decodeSlot .l 0x07800000 none = .ok (.halt 0) ∧ decodeSlot .l 0x01840007 none = .ok (.brnz 0 1 7)
    ∧ decodeSlot .l 0x06040000 none = .ok (.hwait 0 0 0 8) ∧ decodeSlot .v0 0x00B08850 none = .ok (.vadd ⟨0, 3, 1, 2, 2, 2, 0⟩)
    ∧ decodeSlot .v1 0x01B20848 none = .ok (.vmul ⟨0, 3, 4, 2, 2, 1, 0⟩) ∧ decodeSlot .v0 0x02018450 none = .ok (.vfma ⟨0, 0, 3, 1, 2, 2, 0⟩)
    ∧ decodeSlot .v0 0x91809010 (some 0x00800000) = .ok (.vld ⟨0, 0, 1, 4, 2, 0⟩ ⟨128, 0⟩)
    ∧ decodeSlot .m 0x01048000 none = .ok (.msetp 0 0 9 0) ∧ decodeSlot .m 0x00808000 none = .ok (.mcall 0 1)
    ∧ decodeSlot .m 0x02A52000 none = .ok (.mretire 0 2 10 0 1 0) ∧ decodeSlot .c0 0x008A6000 none = .ok (.copy 0 0 10 12 0 0)
    ∧ decodeSlot .c0 0x00C00800 none = .ok (.copy 0 1 0 1 0 0) ∧ decodeMicro 0x9000000000000000 = .ok .uend
    ∧ decodeMicro 0x5400000000000000 = .ok (.ufmt 1 0 0)
end

