-- ==== Sys2Proof/Laws/State.lean ====
section
/-! SUPPORT. What each update of the state leaves of each field, and the laws of the accessors of cores, clusters, dies and errands: a
read after a write of the same place gives what was written, and of another place what was there. -/

namespace Sys2Proof.Machine

/-! ### One lemma for each field and update -/

@[simp] theorem State.setCore_now (s : State) (c : CoreNo) (k : Core) : (s.setCore c k).now = s.now := rfl
@[simp] theorem State.setCore_agenda (s : State) (c : CoreNo) (k : Core) : (s.setCore c k).agenda = s.agenda := rfl
@[simp] theorem State.setCore_turn (s : State) (c : CoreNo) (k : Core) : (s.setCore c k).turn = s.turn := rfl
@[simp] theorem State.setCore_free (s : State) (c : CoreNo) (k : Core) : (s.setCore c k).free = s.free := rfl
@[simp] theorem State.setCore_cur (s : State) (c : CoreNo) (k : Core) : (s.setCore c k).cur = s.cur := rfl
@[simp] theorem State.setCore_clusters (s : State) (c : CoreNo) (k : Core) : (s.setCore c k).clusters = s.clusters := rfl
@[simp] theorem State.setCore_dies (s : State) (c : CoreNo) (k : Core) : (s.setCore c k).dies = s.dies := rfl
@[simp] theorem State.setCore_hbm (s : State) (c : CoreNo) (k : Core) : (s.setCore c k).hbm = s.hbm := rfl
@[simp] theorem State.setCore_host (s : State) (c : CoreNo) (k : Core) : (s.setCore c k).host = s.host := rfl
@[simp] theorem State.setCore_hub (s : State) (c : CoreNo) (k : Core) : (s.setCore c k).hub = s.hub := rfl

@[simp] theorem State.updCore_now (s : State) (c : CoreNo) (f : Core → Core) : (s.updCore c f).now = s.now := rfl
@[simp] theorem State.updCore_agenda (s : State) (c : CoreNo) (f : Core → Core) : (s.updCore c f).agenda = s.agenda := rfl
@[simp] theorem State.updCore_turn (s : State) (c : CoreNo) (f : Core → Core) : (s.updCore c f).turn = s.turn := rfl
@[simp] theorem State.updCore_free (s : State) (c : CoreNo) (f : Core → Core) : (s.updCore c f).free = s.free := rfl
@[simp] theorem State.updCore_cur (s : State) (c : CoreNo) (f : Core → Core) : (s.updCore c f).cur = s.cur := rfl
@[simp] theorem State.updCore_clusters (s : State) (c : CoreNo) (f : Core → Core) : (s.updCore c f).clusters = s.clusters := rfl
@[simp] theorem State.updCore_dies (s : State) (c : CoreNo) (f : Core → Core) : (s.updCore c f).dies = s.dies := rfl
@[simp] theorem State.updCore_hbm (s : State) (c : CoreNo) (f : Core → Core) : (s.updCore c f).hbm = s.hbm := rfl
@[simp] theorem State.updCore_host (s : State) (c : CoreNo) (f : Core → Core) : (s.updCore c f).host = s.host := rfl
@[simp] theorem State.updCore_hub (s : State) (c : CoreNo) (f : Core → Core) : (s.updCore c f).hub = s.hub := rfl

@[simp] theorem State.setMe_now (s : State) (k : Core) : (s.setMe k).now = s.now := rfl
@[simp] theorem State.setMe_agenda (s : State) (k : Core) : (s.setMe k).agenda = s.agenda := rfl
@[simp] theorem State.setMe_turn (s : State) (k : Core) : (s.setMe k).turn = s.turn := rfl
@[simp] theorem State.setMe_free (s : State) (k : Core) : (s.setMe k).free = s.free := rfl
@[simp] theorem State.setMe_cur (s : State) (k : Core) : (s.setMe k).cur = s.cur := rfl
@[simp] theorem State.setMe_clusters (s : State) (k : Core) : (s.setMe k).clusters = s.clusters := rfl
@[simp] theorem State.setMe_dies (s : State) (k : Core) : (s.setMe k).dies = s.dies := rfl
@[simp] theorem State.setMe_hbm (s : State) (k : Core) : (s.setMe k).hbm = s.hbm := rfl
@[simp] theorem State.setMe_host (s : State) (k : Core) : (s.setMe k).host = s.host := rfl
@[simp] theorem State.setMe_hub (s : State) (k : Core) : (s.setMe k).hub = s.hub := rfl

@[simp] theorem State.updMe_now (s : State) (f : Core → Core) : (s.updMe f).now = s.now := rfl
@[simp] theorem State.updMe_agenda (s : State) (f : Core → Core) : (s.updMe f).agenda = s.agenda := rfl
@[simp] theorem State.updMe_turn (s : State) (f : Core → Core) : (s.updMe f).turn = s.turn := rfl
@[simp] theorem State.updMe_free (s : State) (f : Core → Core) : (s.updMe f).free = s.free := rfl
@[simp] theorem State.updMe_cur (s : State) (f : Core → Core) : (s.updMe f).cur = s.cur := rfl
@[simp] theorem State.updMe_clusters (s : State) (f : Core → Core) : (s.updMe f).clusters = s.clusters := rfl
@[simp] theorem State.updMe_dies (s : State) (f : Core → Core) : (s.updMe f).dies = s.dies := rfl
@[simp] theorem State.updMe_hbm (s : State) (f : Core → Core) : (s.updMe f).hbm = s.hbm := rfl
@[simp] theorem State.updMe_host (s : State) (f : Core → Core) : (s.updMe f).host = s.host := rfl
@[simp] theorem State.updMe_hub (s : State) (f : Core → Core) : (s.updMe f).hub = s.hub := rfl

@[simp] theorem State.setCluster_now (s : State) (cl : ClusterNo) (y : Cluster) : (s.setCluster cl y).now = s.now := rfl
@[simp] theorem State.setCluster_agenda (s : State) (cl : ClusterNo) (y : Cluster) : (s.setCluster cl y).agenda = s.agenda := rfl
@[simp] theorem State.setCluster_turn (s : State) (cl : ClusterNo) (y : Cluster) : (s.setCluster cl y).turn = s.turn := rfl
@[simp] theorem State.setCluster_free (s : State) (cl : ClusterNo) (y : Cluster) : (s.setCluster cl y).free = s.free := rfl
@[simp] theorem State.setCluster_cur (s : State) (cl : ClusterNo) (y : Cluster) : (s.setCluster cl y).cur = s.cur := rfl
@[simp] theorem State.setCluster_cores (s : State) (cl : ClusterNo) (y : Cluster) : (s.setCluster cl y).cores = s.cores := rfl
@[simp] theorem State.setCluster_dies (s : State) (cl : ClusterNo) (y : Cluster) : (s.setCluster cl y).dies = s.dies := rfl
@[simp] theorem State.setCluster_hbm (s : State) (cl : ClusterNo) (y : Cluster) : (s.setCluster cl y).hbm = s.hbm := rfl
@[simp] theorem State.setCluster_host (s : State) (cl : ClusterNo) (y : Cluster) : (s.setCluster cl y).host = s.host := rfl
@[simp] theorem State.setCluster_hub (s : State) (cl : ClusterNo) (y : Cluster) : (s.setCluster cl y).hub = s.hub := rfl

@[simp] theorem State.updCluster_now (s : State) (cl : ClusterNo) (f : Cluster → Cluster) : (s.updCluster cl f).now = s.now := rfl
@[simp] theorem State.updCluster_agenda (s : State) (cl : ClusterNo) (f : Cluster → Cluster) : (s.updCluster cl f).agenda = s.agenda := rfl
@[simp] theorem State.updCluster_turn (s : State) (cl : ClusterNo) (f : Cluster → Cluster) : (s.updCluster cl f).turn = s.turn := rfl
@[simp] theorem State.updCluster_free (s : State) (cl : ClusterNo) (f : Cluster → Cluster) : (s.updCluster cl f).free = s.free := rfl
@[simp] theorem State.updCluster_cur (s : State) (cl : ClusterNo) (f : Cluster → Cluster) : (s.updCluster cl f).cur = s.cur := rfl
@[simp] theorem State.updCluster_cores (s : State) (cl : ClusterNo) (f : Cluster → Cluster) : (s.updCluster cl f).cores = s.cores := rfl
@[simp] theorem State.updCluster_dies (s : State) (cl : ClusterNo) (f : Cluster → Cluster) : (s.updCluster cl f).dies = s.dies := rfl
@[simp] theorem State.updCluster_hbm (s : State) (cl : ClusterNo) (f : Cluster → Cluster) : (s.updCluster cl f).hbm = s.hbm := rfl
@[simp] theorem State.updCluster_host (s : State) (cl : ClusterNo) (f : Cluster → Cluster) : (s.updCluster cl f).host = s.host := rfl
@[simp] theorem State.updCluster_hub (s : State) (cl : ClusterNo) (f : Cluster → Cluster) : (s.updCluster cl f).hub = s.hub := rfl

@[simp] theorem State.setDie_now (s : State) (d : DieNo) (x : Die) : (s.setDie d x).now = s.now := rfl
@[simp] theorem State.setDie_agenda (s : State) (d : DieNo) (x : Die) : (s.setDie d x).agenda = s.agenda := rfl
@[simp] theorem State.setDie_turn (s : State) (d : DieNo) (x : Die) : (s.setDie d x).turn = s.turn := rfl
@[simp] theorem State.setDie_free (s : State) (d : DieNo) (x : Die) : (s.setDie d x).free = s.free := rfl
@[simp] theorem State.setDie_cur (s : State) (d : DieNo) (x : Die) : (s.setDie d x).cur = s.cur := rfl
@[simp] theorem State.setDie_cores (s : State) (d : DieNo) (x : Die) : (s.setDie d x).cores = s.cores := rfl
@[simp] theorem State.setDie_clusters (s : State) (d : DieNo) (x : Die) : (s.setDie d x).clusters = s.clusters := rfl
@[simp] theorem State.setDie_hbm (s : State) (d : DieNo) (x : Die) : (s.setDie d x).hbm = s.hbm := rfl
@[simp] theorem State.setDie_host (s : State) (d : DieNo) (x : Die) : (s.setDie d x).host = s.host := rfl
@[simp] theorem State.setDie_hub (s : State) (d : DieNo) (x : Die) : (s.setDie d x).hub = s.hub := rfl

@[simp] theorem State.updDie_now (s : State) (d : DieNo) (f : Die → Die) : (s.updDie d f).now = s.now := rfl
@[simp] theorem State.updDie_agenda (s : State) (d : DieNo) (f : Die → Die) : (s.updDie d f).agenda = s.agenda := rfl
@[simp] theorem State.updDie_turn (s : State) (d : DieNo) (f : Die → Die) : (s.updDie d f).turn = s.turn := rfl
@[simp] theorem State.updDie_free (s : State) (d : DieNo) (f : Die → Die) : (s.updDie d f).free = s.free := rfl
@[simp] theorem State.updDie_cur (s : State) (d : DieNo) (f : Die → Die) : (s.updDie d f).cur = s.cur := rfl
@[simp] theorem State.updDie_cores (s : State) (d : DieNo) (f : Die → Die) : (s.updDie d f).cores = s.cores := rfl
@[simp] theorem State.updDie_clusters (s : State) (d : DieNo) (f : Die → Die) : (s.updDie d f).clusters = s.clusters := rfl
@[simp] theorem State.updDie_hbm (s : State) (d : DieNo) (f : Die → Die) : (s.updDie d f).hbm = s.hbm := rfl
@[simp] theorem State.updDie_host (s : State) (d : DieNo) (f : Die → Die) : (s.updDie d f).host = s.host := rfl
@[simp] theorem State.updDie_hub (s : State) (d : DieNo) (f : Die → Die) : (s.updDie d f).hub = s.hub := rfl

@[simp] theorem State.updHub_now (s : State) (f : Hub → Hub) : (s.updHub f).now = s.now := rfl
@[simp] theorem State.updHub_agenda (s : State) (f : Hub → Hub) : (s.updHub f).agenda = s.agenda := rfl
@[simp] theorem State.updHub_turn (s : State) (f : Hub → Hub) : (s.updHub f).turn = s.turn := rfl
@[simp] theorem State.updHub_free (s : State) (f : Hub → Hub) : (s.updHub f).free = s.free := rfl
@[simp] theorem State.updHub_cur (s : State) (f : Hub → Hub) : (s.updHub f).cur = s.cur := rfl
@[simp] theorem State.updHub_cores (s : State) (f : Hub → Hub) : (s.updHub f).cores = s.cores := rfl
@[simp] theorem State.updHub_clusters (s : State) (f : Hub → Hub) : (s.updHub f).clusters = s.clusters := rfl
@[simp] theorem State.updHub_dies (s : State) (f : Hub → Hub) : (s.updHub f).dies = s.dies := rfl
@[simp] theorem State.updHub_hbm (s : State) (f : Hub → Hub) : (s.updHub f).hbm = s.hbm := rfl
@[simp] theorem State.updHub_host (s : State) (f : Hub → Hub) : (s.updHub f).host = s.host := rfl

@[simp] theorem State.setErrand_now (s : State) (r : RecNo) (e : Errand) : (s.setErrand r e).now = s.now := rfl
@[simp] theorem State.setErrand_agenda (s : State) (r : RecNo) (e : Errand) : (s.setErrand r e).agenda = s.agenda := rfl
@[simp] theorem State.setErrand_turn (s : State) (r : RecNo) (e : Errand) : (s.setErrand r e).turn = s.turn := rfl
@[simp] theorem State.setErrand_free (s : State) (r : RecNo) (e : Errand) : (s.setErrand r e).free = s.free := rfl
@[simp] theorem State.setErrand_cur (s : State) (r : RecNo) (e : Errand) : (s.setErrand r e).cur = s.cur := rfl
@[simp] theorem State.setErrand_cores (s : State) (r : RecNo) (e : Errand) : (s.setErrand r e).cores = s.cores := rfl
@[simp] theorem State.setErrand_clusters (s : State) (r : RecNo) (e : Errand) : (s.setErrand r e).clusters = s.clusters := rfl
@[simp] theorem State.setErrand_dies (s : State) (r : RecNo) (e : Errand) : (s.setErrand r e).dies = s.dies := rfl
@[simp] theorem State.setErrand_hbm (s : State) (r : RecNo) (e : Errand) : (s.setErrand r e).hbm = s.hbm := rfl
@[simp] theorem State.setErrand_host (s : State) (r : RecNo) (e : Errand) : (s.setErrand r e).host = s.host := rfl

@[simp] theorem State.updErrand_now (s : State) (r : RecNo) (f : Errand → Errand) : (s.updErrand r f).now = s.now := rfl
@[simp] theorem State.updErrand_agenda (s : State) (r : RecNo) (f : Errand → Errand) : (s.updErrand r f).agenda = s.agenda := rfl
@[simp] theorem State.updErrand_turn (s : State) (r : RecNo) (f : Errand → Errand) : (s.updErrand r f).turn = s.turn := rfl
@[simp] theorem State.updErrand_free (s : State) (r : RecNo) (f : Errand → Errand) : (s.updErrand r f).free = s.free := rfl
@[simp] theorem State.updErrand_cur (s : State) (r : RecNo) (f : Errand → Errand) : (s.updErrand r f).cur = s.cur := rfl
@[simp] theorem State.updErrand_cores (s : State) (r : RecNo) (f : Errand → Errand) : (s.updErrand r f).cores = s.cores := rfl
@[simp] theorem State.updErrand_clusters (s : State) (r : RecNo) (f : Errand → Errand) : (s.updErrand r f).clusters = s.clusters := rfl
@[simp] theorem State.updErrand_dies (s : State) (r : RecNo) (f : Errand → Errand) : (s.updErrand r f).dies = s.dies := rfl
@[simp] theorem State.updErrand_hbm (s : State) (r : RecNo) (f : Errand → Errand) : (s.updErrand r f).hbm = s.hbm := rfl
@[simp] theorem State.updErrand_host (s : State) (r : RecNo) (f : Errand → Errand) : (s.updErrand r f).host = s.host := rfl

@[simp] theorem State.takeFree_now (s : State) : (s.takeFree).now = s.now := rfl
@[simp] theorem State.takeFree_agenda (s : State) : (s.takeFree).agenda = s.agenda := rfl
@[simp] theorem State.takeFree_turn (s : State) : (s.takeFree).turn = s.turn := rfl
@[simp] theorem State.takeFree_cur (s : State) : (s.takeFree).cur = s.cur := rfl
@[simp] theorem State.takeFree_cores (s : State) : (s.takeFree).cores = s.cores := rfl
@[simp] theorem State.takeFree_clusters (s : State) : (s.takeFree).clusters = s.clusters := rfl
@[simp] theorem State.takeFree_dies (s : State) : (s.takeFree).dies = s.dies := rfl
@[simp] theorem State.takeFree_hbm (s : State) : (s.takeFree).hbm = s.hbm := rfl
@[simp] theorem State.takeFree_host (s : State) : (s.takeFree).host = s.host := rfl
@[simp] theorem State.takeFree_hub (s : State) : (s.takeFree).hub = s.hub := rfl

@[simp] theorem State.updHub_hub (s : State) (f : Hub → Hub) : (s.updHub f).hub = f s.hub := rfl
@[simp] theorem State.takeFree_free (s : State) : s.takeFree.free = s.free + 1 := rfl

/-! ### Reads after writes -/

theorem State.core_setCore (s : State) (c d : CoreNo) (k : Core) :
    (s.setCore c k).core d = if c = d then k else s.core d := by
  simp only [State.core, State.setCore, Vector.getElem_set]
  split <;> rename_i h
  · rw [if_pos (BitVec.eq_of_toNat_eq h)]
  · rw [if_neg fun e => h (congrArg _ e)]

@[simp] theorem State.core_setCore_same (s : State) (c : CoreNo) (k : Core) : (s.setCore c k).core c = k := by
  simp [State.core_setCore]

@[simp] theorem State.core_updCore_same (s : State) (c : CoreNo) (f : Core → Core) : (s.updCore c f).core c = f (s.core c) := by
  simp [State.updCore]

theorem State.core_updCore_other (s : State) {c d : CoreNo} (f : Core → Core) (h : c ≠ d) : (s.updCore c f).core d = s.core d := by
  simp [State.updCore, State.core_setCore, h]

@[simp] theorem State.me_setMe (s : State) (k : Core) : (s.setMe k).me = k := by simp [State.me, State.setMe]
@[simp] theorem State.me_updMe (s : State) (f : Core → Core) : (s.updMe f).me = f s.me := by simp [State.me, State.updMe]

theorem State.core_setMe_other (s : State) {d : CoreNo} (k : Core) (h : s.cur ≠ d) : (s.setMe k).core d = s.core d := by
  simp [State.setMe, State.core_setCore, h]

theorem State.core_updMe_other (s : State) {d : CoreNo} (f : Core → Core) (h : s.cur ≠ d) : (s.updMe f).core d = s.core d :=
  State.core_updCore_other s f h

@[simp] theorem State.setCore_setCore (s : State) (c : CoreNo) (j k : Core) : (s.setCore c j).setCore c k = s.setCore c k := by
  simp [State.setCore]

@[simp] theorem State.setCore_core (s : State) (c : CoreNo) : s.setCore c (s.core c) = s := by
  simp [State.setCore, State.core]

@[simp] theorem State.updCore_updCore (s : State) (c : CoreNo) (f g : Core → Core) :
    (s.updCore c f).updCore c g = s.updCore c fun k => g (f k) := by simp [State.updCore]

@[simp] theorem State.setCore_updCore (s : State) (c : CoreNo) (k : Core) (g : Core → Core) :
    (s.setCore c k).updCore c g = s.setCore c (g k) := by simp [State.updCore]

@[simp] theorem State.updCore_setCore (s : State) (c : CoreNo) (f : Core → Core) (k : Core) :
    (s.updCore c f).setCore c k = s.setCore c k := by simp [State.updCore]

@[simp] theorem State.updMe_updMe (s : State) (f g : Core → Core) : (s.updMe f).updMe g = s.updMe fun k => g (f k) := by
  simp [State.updMe]

@[simp] theorem State.setMe_me (s : State) : s.setMe s.me = s := by simp [State.setMe, State.me]

@[simp] theorem State.setMe_updMe (s : State) (k : Core) (g : Core → Core) : (s.setMe k).updMe g = s.setMe (g k) := by
  simp [State.updMe, State.setMe]

@[simp] theorem State.updMe_setMe (s : State) (f : Core → Core) (k : Core) : (s.updMe f).setMe k = s.setMe k := by
  simp [State.updMe, State.setMe]

theorem State.setMe_eq_updMe (s : State) (k : Core) : s.setMe k = s.updMe fun _ => k := rfl

theorem State.cluster_setCluster (s : State) (c d : ClusterNo) (y : Cluster) :
    (s.setCluster c y).cluster d = if c = d then y else s.cluster d := by
  simp only [State.cluster, State.setCluster, Vector.getElem_set]
  split <;> rename_i h
  · rw [if_pos (BitVec.eq_of_toNat_eq h)]
  · rw [if_neg fun e => h (congrArg _ e)]

@[simp] theorem State.cluster_updCluster_same (s : State) (c : ClusterNo) (f : Cluster → Cluster) :
    (s.updCluster c f).cluster c = f (s.cluster c) := by simp [State.updCluster, State.cluster_setCluster]

theorem State.die_setDie (s : State) (c d : DieNo) (y : Die) : (s.setDie c y).die d = if c = d then y else s.die d := by
  simp only [State.die, State.setDie, Vector.getElem_set]
  split <;> rename_i h
  · rw [if_pos (BitVec.eq_of_toNat_eq h)]
  · rw [if_neg fun e => h (congrArg _ e)]

theorem State.errand_setErrand (s : State) (r q : RecNo) (e : Errand) :
    (s.setErrand r e).errand q = if r = q then e else s.errand q := by
  simp only [State.errand, State.setErrand, State.updHub, Vector.getElem_set]
  split <;> rename_i h
  · rw [if_pos (BitVec.eq_of_toNat_eq h)]
  · rw [if_neg fun e => h (congrArg _ e)]

@[simp] theorem State.errand_setErrand_same (s : State) (r : RecNo) (e : Errand) : (s.setErrand r e).errand r = e := by
  simp [State.errand_setErrand]

@[simp] theorem State.errand_updErrand_same (s : State) (r : RecNo) (f : Errand → Errand) :
    (s.updErrand r f).errand r = f (s.errand r) := by simp [State.updErrand]

/-! ### What does not touch a core -/

@[simp] theorem State.core_updHub (s : State) (f : Hub → Hub) (c : CoreNo) : (s.updHub f).core c = s.core c := rfl
@[simp] theorem State.core_updErrand (s : State) (r : RecNo) (f : Errand → Errand) (c : CoreNo) :
    (s.updErrand r f).core c = s.core c := rfl
@[simp] theorem State.core_updCluster (s : State) (cl : ClusterNo) (f : Cluster → Cluster) (c : CoreNo) :
    (s.updCluster cl f).core c = s.core c := rfl
@[simp] theorem State.core_updDie (s : State) (d : DieNo) (f : Die → Die) (c : CoreNo) : (s.updDie d f).core c = s.core c := rfl
@[simp] theorem State.core_takeFree (s : State) (c : CoreNo) : s.takeFree.core c = s.core c := rfl
@[simp] theorem State.cluster_updCore (s : State) (c : CoreNo) (f : Core → Core) (cl : ClusterNo) :
    (s.updCore c f).cluster cl = s.cluster cl := rfl
@[simp] theorem State.errand_updCore (s : State) (c : CoreNo) (f : Core → Core) (r : RecNo) :
    (s.updCore c f).errand r = s.errand r := rfl
@[simp] theorem State.me_takeFree (s : State) : s.takeFree.me = s.me := rfl

end Sys2Proof.Machine
end

