-- ==== Sys2Proof/Laws/Errands.lean ====
section
/-! SUPPORT. What the shared operations of errands and of the hub do: fetching and starting a step (R303), the numbers of
steps in flight, and reads and writes inside one page (R218). -/

namespace Sys2Proof.Machine

@[simp] theorem State.setErrand_setErrand (s : State) (r : RecNo) (a b : Errand) : (s.setErrand r a).setErrand r b = s.setErrand r b := by
  simp [State.setErrand, State.updHub]

@[simp] theorem State.updErrand_updErrand (s : State) (r : RecNo) (f g : Errand → Errand) :
    (s.updErrand r f).updErrand r g = s.updErrand r fun e => g (f e) := by
  simp [State.updErrand]

theorem State.updErrand_congr (s : State) (r : RecNo) (f g : Errand → Errand) (h : f (s.errand r) = g (s.errand r)) :
    s.updErrand r f = s.updErrand r g := by
  simp [State.updErrand, h]

theorem State.setErrand_same (s : State) (r : RecNo) : s.setErrand r (s.errand r) = s := by
  simp [State.setErrand, State.updHub, State.errand]

/-- The fetch is the one update `fetched`. -/
theorem State.fetched_eq {s : State} {h : StepHead} {i : Instr} (a : s.AtStep h i) :
    (s.updErrand h.errand fun e => { e with next := e.next + 1, waitStep := none, state := .running, reason := .none }) = s.fetched h.errand := by
  refine State.updErrand_congr _ _ _ _ ?_
  have h1 := a.state; have h2 := a.reason; have h3 := a.waitStep
  revert h1 h2 h3
  generalize s.errand h.errand = e
  rintro h1 h2 h3
  cases e; simp_all

/-- R303: the fetch of a step that its errand may start: the errand moves past it and the step acts. -/
theorem State.startStep_at {s : State} {h : StepHead} {i : Instr} (a : s.AtStep h i) (act) :
    s.startStep h i act = .next ((act (s.errand h.errand).next (s.fetched h.errand)).settle h.errand) := by
  obtain ⟨h1, h2, h3, h4, h5, h6, h7, h8, h9, h10, h11⟩ := a
  have nb : ∀ e : Errand, e.inflight = (s.errand h.errand).inflight → e.barred i h.bar = false := by
    intro e he
    simp only [Errand.barred, he, Bool.or_eq_false_iff, Bool.and_eq_false_iff]
    refine ⟨?_, ?_⟩
    · split
      · right; simp [h10 (Or.inr (Or.inl ⟨_, rfl⟩))]
      · right; simp [h10 (Or.inr (Or.inr ⟨_, rfl⟩))]
      · by_cases hb : h.bar = 1
        · right; simp [h10 (Or.inl hb)]
        · left; simpa using hb
    · by_cases hl : isLaunch i = true
      · right; simpa using h11 hl
      · left; simpa using hl
  have e1 := State.fetched_eq (s := s) (h := h) (i := i) ⟨h1, h2, h3, h4, h5, h6, h7, h8, h9, h10, h11⟩
  have a9 : ((s.errand h.errand).inflight.any fun x => isLaunch x.instr) = false := by simpa using h9
  have n8 : ¬ 2 ^ 20 ≤ (s.errand h.errand).next := by omega
  simp only [State.startStep, Errand.fetches, h1, h3, h4, h5, h6, h7, a9]
  simp
  rw [if_neg (by omega)]
  have := nb { s.errand h.errand with next := (s.errand h.errand).next + 1 } rfl
  simp [this, e1]

/-- An errand that waits for no step is as it was. -/
theorem Errand.settled_running {e : Errand} (h : e.waitStep = none) (h1 : e.state ≠ .waiting ∨ e.reason ≠ .wait) : e.settled = e := by
  unfold Errand.settled
  rw [h]
  cases hs : e.state <;> cases hr : e.reason <;> simp_all

theorem State.settle_eq {s : State} {r : RecNo} (h : (s.errand r).waitStep = none) (h1 : (s.errand r).state ≠ .waiting ∨ (s.errand r).reason ≠ .wait) :
    s.settle r = s := by
  simp [State.settle, State.updErrand, Errand.settled_running h h1, State.setErrand_same]

theorem State.fetched_settle {s : State} {h : StepHead} {i : Instr} (a : s.AtStep h i) :
    (s.fetched h.errand).settle h.errand = s.fetched h.errand := by
  apply State.settle_eq
  · simp [State.fetched, a.waitStep]
  · simp [State.fetched, a.state]

/-- A read by the hub whose pages are all there. -/
theorem State.hubRead_ok {s : State} {r : RecNo} {a : DWord} {n : Nat} {bs} (h : s.vread (s.errand r).asid a.toNat n = .ok bs) :
    s.hubRead r a n = (s, .ok bs) := by
  simp [State.hubRead, h, State.hubAccess]

theorem State.translate_of {s t : State} (h : t.hbm = s.hbm) (h2 : t.hub.bar0 = s.hub.bar0) (h4 : t.hub.tlb = s.hub.tlb) (asid a b c) :
    t.translate asid a b c = s.translate asid a b c := by
  simp [State.translate, State.walkFor, State.translates, State.tlbOf, h, h2, h4]

@[simp] theorem State.translate_updErrand (s : State) (r : RecNo) (f) (asid a b c) :
    (s.updErrand r f).translate asid a b c = s.translate asid a b c := State.translate_of rfl rfl rfl _ _ _ _

@[simp] theorem State.translate_updDie (s : State) (r) (f) (asid a b c) :
    (s.updDie r f).translate asid a b c = s.translate asid a b c := State.translate_of rfl rfl rfl _ _ _ _

theorem State.vreadPages_of {s t : State} (h : t.hbm = s.hbm) (h2 : t.hub.bar0 = s.hub.bar0) (h3 : t.host = s.host)
    (h4 : t.hub.tlb = s.hub.tlb) (h5 : t.hub.egress = s.hub.egress) (asid b f a n) :
    t.vreadPages asid b none f a n = s.vreadPages asid b none f a n := by
  induction f generalizing a n with
  | zero => rfl
  | succ f ih => simp only [State.vreadPages, State.place, State.pageEntry, State.hostSeen, State.translate_of h h2 h4, h, h2, h3, h5, ih]

@[simp] theorem State.vread_updErrand (s : State) (r : RecNo) (f) (asid a n b) :
    (s.updErrand r f).vread asid a n b = s.vread asid a n b := by
  unfold State.vread; exact State.vreadPages_of (s := s) (t := s.updErrand r f) rfl rfl rfl rfl rfl _ _ _ _ _

/-- A write inside one page. -/
theorem State.vwrite_one {s : State} {asid a bs pa} (h : s.translate asid a true = .hbm pa) (h1 : bs ≠ []) (h2 : a % 4096 + bs.length ≤ 4096) :
   s.vwrite asid a bs = ({ s with hbm := s.hbm.write pa bs }, .ok ()) := by
  have : chunkOf a bs.length = bs.length := by simp [chunkOf]; omega
  simp [State.vwrite, State.vwritePages, State.place, h, this, h1, State.writeAt]

/-- A read inside one page. -/
theorem State.vread_one {s : State} {asid a n pa} (h : s.translate asid a = .hbm pa) (h1 : 0 < n) (h2 : a % 4096 + n ≤ 4096) :
   s.vread asid a n = .ok (s.hbm.bytes pa n) := by
  have : chunkOf a n = n := by simp [chunkOf]; omega
  rw [State.vread, show n / 4096 + 2 = (n / 4096 + 1) + 1 from rfl, State.vreadPages, if_neg (by omega)]
  simp only [State.place, h, this]
  simp [State.vreadPages]

/-- The number of a new step is above those of all the steps in flight. -/
theorem Errand.newNo_fresh (e : Errand) : ∀ x ∈ e.inflight, x.no < e.newNo := by
  intro x hx
  unfold Errand.newNo
  have aux : ∀ (l : List Nat) (z : Nat), (∀ y ∈ l, y ≤ l.foldl max z) ∧ z ≤ l.foldl max z := by
    intro l
    induction l with
    | nil => simp
    | cons w l ih => intro z; have := ih (max z w); simp; grind
  have := (aux (e.inflight.map fun x => x.no + 1) 0).1 (x.no + 1) (List.mem_map.2 ⟨x, hx, rfl⟩)
  omega

/-- A step that completes at once leaves the others as they were. -/
theorem Errand.dropStep_addStep (e : Errand) (x : StepInFlight) (h : x.no = e.newNo) : (e.addStep x).dropStep x.no = e := by
  have := Errand.newNo_fresh e
  have : e.inflight.filter (fun y => y.no != x.no) = e.inflight := by
    rw [List.filter_eq_self]; intro y hy; have := Errand.newNo_fresh e y hy; simp; omega
  simp [Errand.addStep, Errand.dropStep, this]

/-- What a new step does to itself leaves the others as they were. -/
theorem Errand.updStep_addStep (e : Errand) (x : StepInFlight) (h : x.no = e.newNo) (f) :
    (e.addStep x).updStep x.no f = e.addStep (f x) := by
  have : ∀ y ∈ e.inflight, (if y.no = x.no then f y else y) = y := fun y hy =>
    if_neg (by have := Errand.newNo_fresh e y hy; omega)
  simp only [Errand.addStep, Errand.updStep, List.map_append, beq_iff_eq]
  rw [List.map_congr_left this]
  simp

end Sys2Proof.Machine
end

