-- ==== Sys2Proof/Laws/Issue.lean ====
section
/-! SUPPORT. What an issue does to results on their way (R32, R65): a result of latency 1 arrives with its own issue, a later one stays
on its way, and everything else is as though the slot had done nothing. -/

namespace Sys2Proof.Machine

/-! ### Writes of plain registers -/

/-- A write of a register that no statistics, snapshot or issue state depends on. -/
def RegWrite.plain : RegWrite → Bool
  | .ctl .. => false
  | _ => true

def Core.landAll (k : Core) (ws : List RegWrite) : Core := ws.foldl Core.land1 k

@[simp] theorem Core.landAll_nil (k : Core) : k.landAll [] = k := rfl
theorem Core.landAll_cons (k : Core) (w : RegWrite) (ws : List RegWrite) : k.landAll (w :: ws) = (k.land1 w).landAll ws := rfl

/-- The registers that a plain write can change, and the results on their way. -/
structure Regs where
  s : Vector DWord 32
  b : Vector Word 8
  q : Vector (BitVec 1) 8
  n : Vector Word 6
  arr : Vector DWord 8
  v : Vector VReg 32
  k : Vector Pred 8
  m : Vector DWord 8
  patBack : Vector VReg 64
  pend : List Pending

def Core.regs (k : Core) : Regs := ⟨k.s, k.b, k.q, k.n, k.arr, k.v, k.k, k.m, k.patBack, k.pend⟩
def Core.withRegs (k : Core) (r : Regs) : Core :=
  { k with s := r.s, b := r.b, q := r.q, n := r.n, arr := r.arr, v := r.v, k := r.k, m := r.m, patBack := r.patBack, pend := r.pend }

theorem Core.land1_withRegs (k : Core) {w : RegWrite} (h : w.plain = true) : k.land1 w = k.withRegs (k.land1 w).regs := by
  cases w <;> first | rfl | (simp only [Core.land1]; split <;> rfl) | cases h

/-- What a write makes of the registers goes by the registers alone. -/
theorem Core.regs_land1 (j k : Core) {w : RegWrite} (h : w.plain = true) (e : j.regs = k.regs) :
    (j.land1 w).regs = (k.land1 w).regs := by
  simp only [Core.regs, Regs.mk.injEq] at e
  obtain ⟨e1, e2, e3, e4, e5, e6, e7, e8, e9, e10⟩ := e
  cases w <;> simp only [Core.land1, Core.regs, e1, e2, e3, e4, e5, e6, e7, e8, e9, e10] <;>
    first | (cases h; done) | (split <;> simp only [e1, e2, e3, e4, e5, e6, e7, e8, e9, e10])

/-- A map of cores that neither reads nor writes the plain registers or the results on their way. -/
def Quiet (f : Core → Core) : Prop := ∀ (k : Core) (r : Regs), f (k.withRegs r) = (f k).withRegs r ∧ (f k).regs = k.regs

theorem Quiet.comp {f g : Core → Core} (hf : Quiet f) (hg : Quiet g) : Quiet fun k => f (g k) := fun k r => by
  constructor
  · show f (g (k.withRegs r)) = _
    rw [(hg k r).1, (hf (g k) r).1]
  · exact ((hf (g k) r).2).trans (hg k r).2

theorem Quiet.land1 {f : Core → Core} (hf : Quiet f) (k : Core) {w : RegWrite} (h : w.plain = true) :
    f (k.land1 w) = (f k).land1 w := by
  rw [Core.land1_withRegs k h, (hf k _).1, Core.land1_withRegs (f k) h, Core.regs_land1 (f k) k h (hf k k.regs).2]

theorem Quiet.landAll {f : Core → Core} (hf : Quiet f) (k : Core) {ws : List RegWrite} (h : ∀ w ∈ ws, w.plain = true) :
    f (k.landAll ws) = (f k).landAll ws := by
  induction ws generalizing k with
  | nil => rfl
  | cons w ws ih =>
    rw [Core.landAll_cons, Core.landAll_cons, ih _ fun x hx => h x (List.mem_cons_of_mem _ hx),
      hf.land1 k (h w List.mem_cons_self)]

theorem Quiet.foldl {α : Type} {f : Core → α → Core} (hf : ∀ a, Quiet fun k => f k a) (xs : List α) :
    Quiet fun k => xs.foldl f k := by
  induction xs with
  | nil => exact fun _ _ => ⟨rfl, rfl⟩
  | cons x xs ih => exact ih.comp (hf x)

/-! ### Statistics events are quiet -/

theorem quiet_force : Quiet Core.force := fun _ _ => ⟨rfl, rfl⟩

theorem quiet_queueRecord (t : TrapRecord) : Quiet fun k => (k.queueRecord t).1 := fun k r => by
  unfold Core.queueRecord
  by_cases h : t.cls.toNat < 4
  · constructor <;> simp only [dif_pos h] <;> rfl
  · constructor <;> simp only [dif_neg h] <;> rfl

theorem quiet_addPending (src : Nat) (t : TrapRecord) : Quiet fun k => k.addPending src t := fun _ _ => ⟨rfl, rfl⟩

theorem quiet_appendEvent (e : StatEvent) : Quiet fun k => k.appendEvent e := fun k r => by
  simp only [Core.appendEvent]
  by_cases h : (false || k.inForce.statcfg.getLsbD e.cls) = true
  · by_cases g : k.statRing.length < 64
    · rw [if_pos h, if_pos g, if_pos (show (false || (k.withRegs r).inForce.statcfg.getLsbD e.cls) = true from h),
        if_pos (show (k.withRegs r).statRing.length < 64 from g)]
      exact ⟨rfl, rfl⟩
    · rw [if_pos h, if_neg g, if_pos (show (false || (k.withRegs r).inForce.statcfg.getLsbD e.cls) = true from h),
        if_neg (show ¬(k.withRegs r).statRing.length < 64 from g)]
      exact ⟨rfl, rfl⟩
  · rw [if_neg h, if_neg (show ¬(false || (k.withRegs r).inForce.statcfg.getLsbD e.cls) = true from h)]
    exact ⟨rfl, rfl⟩

theorem quiet_rollWindow : Quiet Core.rollWindow := fun k r => by
  simp only [Core.rollWindow]
  by_cases h : (k.inForce.statwin.toNat = 0 || k.cycleNat < k.statStart + k.inForce.statwin.toNat) = true
  · rw [if_pos h, if_pos (show ((k.withRegs r).inForce.statwin.toNat = 0 || (k.withRegs r).cycleNat < (k.withRegs r).statStart
      + (k.withRegs r).inForce.statwin.toNat) = true from h)]
    exact ⟨rfl, rfl⟩
  · rw [if_neg h, if_neg (show ¬((k.withRegs r).inForce.statwin.toNat = 0 || (k.withRegs r).cycleNat < (k.withRegs r).statStart
      + (k.withRegs r).inForce.statwin.toNat) = true from h)]
    exact ⟨rfl, rfl⟩

/-- A map that gives a result beside the core, and is quiet in it. -/
def QuietPair {α : Type} (f : Core → Core × α) : Prop :=
  ∀ (k : Core) (r : Regs), f (k.withRegs r) = ((f k).1.withRegs r, (f k).2) ∧ (f k).1.regs = k.regs

theorem quietPair_foldl {α β : Type} {g : Core × α → β → Core × α}
    (hg : ∀ (k : Core) (r : Regs) (a : α) (x : β), g (k.withRegs r, a) x = ((g (k, a) x).1.withRegs r, (g (k, a) x).2)
      ∧ (g (k, a) x).1.regs = k.regs) (xs : List β) (k : Core) (r : Regs) (a : α) :
    xs.foldl g (k.withRegs r, a) = ((xs.foldl g (k, a)).1.withRegs r, (xs.foldl g (k, a)).2)
      ∧ (xs.foldl g (k, a)).1.regs = k.regs := by
  induction xs generalizing k a with
  | nil => exact ⟨rfl, rfl⟩
  | cons x xs ih =>
    simp only [List.foldl_cons, (hg k r a x).1]
    exact ⟨(ih _ _).1, ((ih _ _).2).trans (hg k r a x).2⟩

/-- One threshold takes an event's count. -/
theorem quiet_countOne (thrs : Vector DWord 5) (e : StatEvent) (k : Core) (r : Regs) (a : List (Nat × Nat)) (i : Nat) :
    countOne thrs e (k.withRegs r, a) i = ((countOne thrs e (k, a) i).1.withRegs r, (countOne thrs e (k, a) i).2)
      ∧ (countOne thrs e (k, a) i).1.regs = k.regs := by
  unfold countOne
  by_cases h : i < 5
  · simp only [dif_pos h]
    by_cases h1 : (thrs[i].toNat / 128 % 2 == 1 && thrs[i].toNat % 16 == e.cls) = true
    · simp only [if_pos h1]
      exact ⟨rfl, rfl⟩
    · simp only [if_neg h1]
      exact ⟨trivial, trivial⟩
  · simp only [dif_neg h]
    exact ⟨trivial, trivial⟩

theorem quietPair_countEvent (e : StatEvent) : QuietPair fun k => k.countEvent e := fun k r => by
  by_cases hw : k.inForce.statwin = 0
  · simp only [Core.countEvent, if_pos hw, if_pos (show (k.withRegs r).inForce.statwin = 0 from hw)]
    exact ⟨trivial, trivial⟩
  · simp only [Core.countEvent, if_neg hw, if_neg (show ¬(k.withRegs r).inForce.statwin = 0 from hw), (quiet_rollWindow k r).1]
    have key := quietPair_foldl (quiet_countOne k.inForce.statthr e) (List.range 5) k.rollWindow r []
    exact ⟨key.1, key.2.trans (quiet_rollWindow k r).2⟩

/-! ### Posting events, as a change of one core -/

/-- What a threshold that fires does to its core (R290). -/
def Core.fire (s : State) (c : CoreNo) (k : Core) (f : Nat × Nat) : Core :=
  let t : TrapRecord := { cls := 0, unit := c, cause := Cause.statThreshold, errno := k.theLaunch.errand.setWidth 16
                          xaddr := s.shownAddr k k.pc, oaddr := (s.backMap k k.pc).1, iter := (s.backMap k k.pc).2
                          aux := thresholdAux f.1 f.2, stamp := k.ctl.cycle }
  let act := if h : f.1 < 5 then k.inForce.statthr[f.1].toNat / 64 % 2 else 0
  if act == 0 then k.addPending 4 t else (k.queueRecord t).1

def Core.post (s : State) (c : CoreNo) (e : StatEvent) (k : Core) : Core :=
  (k.countEvent e).2.foldl (Core.fire s c) ((k.countEvent e).1.appendEvent e)

theorem State.postEvent_eq (s : State) (c : CoreNo) (e : StatEvent) : s.postEvent c e = s.setCore c (Core.post s c e (s.core c)) := rfl

/-- What an event does goes by the hub alone. -/
theorem Core.post_hub {s t : State} (h : s.hub = t.hub) (c : CoreNo) (e : StatEvent) (k : Core) : Core.post s c e k = Core.post t c e k := by
  have : ∀ k, Core.fire s c k = Core.fire t c k := fun k => by
    funext f
    simp only [Core.fire, State.shownAddr, State.backMap, State.residualAt, State.residualOf, h]
  have : Core.fire s c = Core.fire t c := funext this
  simp only [Core.post, this]

theorem quiet_fire (s : State) (c : CoreNo) (f : Nat × Nat) : Quiet fun k => Core.fire s c k f := fun k r => by
  show Core.fire s c (k.withRegs r) f = _ ∧ _
  unfold Core.fire
  by_cases h : ((if h : f.1 < 5 then k.inForce.statthr[f.1].toNat / 64 % 2 else 0) == 0) = true
  · simp only [if_pos h, if_pos (show ((if h : f.1 < 5 then (k.withRegs r).inForce.statthr[f.1].toNat / 64 % 2 else 0) == 0) = true from h)]
    exact quiet_addPending 4 _ k r
  · simp only [if_neg h, if_neg (show ¬((if h : f.1 < 5 then (k.withRegs r).inForce.statthr[f.1].toNat / 64 % 2 else 0) == 0) = true from h)]
    exact quiet_queueRecord _ k r

theorem quiet_post (s : State) (c : CoreNo) (e : StatEvent) : Quiet (Core.post s c e) := fun k r => by
  have h := quietPair_countEvent e k r
  have q := (Quiet.foldl (quiet_fire s c) (k.countEvent e).2).comp (quiet_appendEvent e)
  simp only [] at h
  unfold Core.post
  rw [h.1]
  exact ⟨(q _ r).1, ((q _ r).2).trans h.2⟩

/-- Events of one core, posted one after another. -/
theorem State.postEvents_eq (s : State) (c : CoreNo) (es : List StatEvent) :
    es.foldl (fun s e => s.postEvent c e) s = s.setCore c (es.foldl (fun k e => Core.post s c e k) (s.core c)) := by
  induction es generalizing s with
  | nil => simp
  | cons e es ih =>
    rw [List.foldl_cons, ih, State.postEvent_eq]
    have : ∀ k e', Core.post (s.setCore c (Core.post s c e (s.core c))) c e' k = Core.post s c e' k :=
      fun k e' => Core.post_hub rfl c e' k
    simp [this]

/-! ### Landing results, as a change of one core -/

theorem State.land_eq (s : State) (c : CoreNo) (ready : Pending → Bool) :
    s.land c ready = s.setCore c ((((s.core c).pend.filter ready).flatMap (·.events)).foldl (fun k e => Core.post s c e k)
      (Core.landList { s.core c with pend := (s.core c).pend.filter fun p => !ready p } ((s.core c).pend.filter ready))) := by
  unfold State.land
  rw [State.postEvents_eq]
  have : ∀ k e j, Core.post (s.setCore c j) c e k = Core.post s c e k := fun k e j => Core.post_hub rfl c e k
  simp only [this, State.core_setCore_same, State.setCore_setCore]

theorem quiet_raise (f : BitVec 4) : Quiet fun k => k.raise f := fun _ _ => ⟨rfl, rfl⟩

theorem Core.landList_snoc (k : Core) (now : List Pending) (due : Nat) (ws : List RegWrite) (h : ∀ w ∈ ws, w.plain = true) :
    k.landList (now ++ [{ due := due, writes := ws }]) = (k.landList now).landAll ws := by
  have q : Quiet fun k => now.foldl (fun (k : Core) p => k.raise p.flags) k := Quiet.foldl (fun p => quiet_raise p.flags) now
  have e := q.landAll (now.foldl (fun k p => p.writes.foldl Core.land1 k) k) h
  simp only [Core.landList, List.foldl_append, List.foldl_cons, List.foldl_nil, Core.landAll] at e ⊢
  rw [e]
  simp [Core.raise]

/-! ### Results that stay on their way -/

def Core.withPend (k : Core) (p : List Pending) : Core := { k with pend := p }

/-- A map of cores that neither reads nor writes the results on their way. -/
def PendFree (f : Core → Core) : Prop := ∀ (k : Core) (p : List Pending), f (k.withPend p) = (f k).withPend p ∧ (f k).pend = k.pend

theorem Quiet.pendFree {f : Core → Core} (hf : Quiet f) : PendFree f := fun k p => by
  have e : (f k).regs = k.regs := (hf k k.regs).2
  have e' : (f k).pend = k.pend := congrArg Regs.pend e
  refine ⟨?_, e'⟩
  have h := (hf k { k.regs with pend := p }).1
  rw [show k.withRegs { k.regs with pend := p } = k.withPend p from rfl] at h
  rw [h, ← e]
  rfl

theorem PendFree.comp {f g : Core → Core} (hf : PendFree f) (hg : PendFree g) : PendFree fun k => f (g k) := fun k p => by
  constructor
  · show f (g (k.withPend p)) = _
    rw [(hg k p).1, (hf (g k) p).1]
  · exact ((hf (g k) p).2).trans (hg k p).2

theorem PendFree.foldl {α : Type} {f : Core → α → Core} (hf : ∀ a, PendFree fun k => f k a) (xs : List α) :
    PendFree fun k => xs.foldl f k := by
  induction xs with
  | nil => exact fun _ _ => ⟨rfl, rfl⟩
  | cons x xs ih => exact ih.comp (hf x)

theorem pendFree_setCtl (n : BitVec 6) (v : DWord) : PendFree fun k => k.setCtl n v := fun k p => by
  show Core.setCtl (k.withPend p) n v = _ ∧ _
  unfold Core.setCtl
  split <;> constructor <;> first | rfl | trivial

theorem pendFree_land1 (w : RegWrite) : PendFree fun k => k.land1 w := fun k p => by
  cases w with
  | ctl i v => exact pendFree_setCtl i v k p
  | n i v =>
    show Core.land1 (k.withPend p) _ = _ ∧ _
    unfold Core.land1
    by_cases h : i.toNat < 6
    · constructor <;> simp only [dif_pos h] <;> rfl
    · constructor <;> simp only [dif_neg h]
  | _ => exact ⟨rfl, rfl⟩

theorem pendFree_landList (now : List Pending) : PendFree fun k => k.landList now := by
  have a : PendFree fun k => now.foldl (fun k p => p.writes.foldl Core.land1 k) k :=
    PendFree.foldl (f := fun k p => p.writes.foldl Core.land1 k) (fun p => PendFree.foldl pendFree_land1 p.writes) now
  have b : PendFree fun k => now.foldl (fun k p => k.raise p.flags) k :=
    PendFree.foldl (f := fun k p => k.raise p.flags) (fun p => (quiet_raise p.flags).pendFree) now
  exact fun k p => (b.comp a) k p

/-! ### An issue commits -/

/-- What passes with an issue before results arrive. -/
def Core.tick (k : Core) : Core :=
  { k with ctl := { k.ctl with cycle := k.ctl.cycle + 1 }, issued := k.issued + 1, pc := k.nextPc, issue := k.nextIssue }

/-- What arrives then. -/
def Core.arriving (s : State) (c : CoreNo) (k : Core) : Core :=
  let ready := fun (p : Pending) => decide (p.due ≤ k.cycleNat)
  ((k.pend.filter ready).flatMap (·.events)).foldl (fun k e => Core.post s c e k)
    (Core.landList { k with pend := k.pend.filter fun p => !ready p } (k.pend.filter ready))

theorem State.commitIssue_eq (s : State) : s.commitIssue true 0 = s.setMe (Core.arriving s s.cur s.me.tick).force := by
  have h : ∀ k e, Core.post (s.setCore s.cur s.me.tick) s.cur e k = Core.post s s.cur e k := fun k e => Core.post_hub rfl _ e k
  have t : (s.updMe fun k =>
      let k := { k with
        ctl := { k.ctl with cycle := k.ctl.cycle + BitVec.ofNat 64 (1 + 0) }
        issued := k.issued + 1 + 0 }
      if true then { k with pc := k.nextPc, issue := k.nextIssue } else { k with issue := k.issue + 1 }) = s.setMe s.me.tick := rfl
  unfold State.commitIssue
  rw [t]
  simp only [State.landDue, State.land_eq, State.setMe, State.setCore_cur, State.core_setCore_same, h, State.setCore_setCore,
    if_true, State.updMe, State.setCore_updCore]
  rfl

theorem Core.arriving_hub {s t : State} (h : s.hub = t.hub) (c : CoreNo) (k : Core) : Core.arriving s c k = Core.arriving t c k := by
  simp only [Core.arriving, Core.post_hub h]

theorem quiet_posts (s : State) (c : CoreNo) (es : List StatEvent) : Quiet fun k => es.foldl (fun k e => Core.post s c e k) k :=
  Quiet.foldl (fun e => quiet_post s c e) es

/-- A result due with the issue arrives last, after all else the issue brings. -/
theorem Core.arriving_snoc (s : State) (c : CoreNo) (k : Core) {due : Nat} {ws : List RegWrite} (h : ∀ w ∈ ws, w.plain = true)
    (hd : due ≤ k.cycleNat) :
    Core.arriving s c { k with pend := k.pend ++ [{ due := due, writes := ws }] } = (Core.arriving s c k).landAll ws := by
  unfold Core.arriving
  simp only [Core.cycleNat] at hd ⊢
  simp only [List.filter_append, List.filter_cons, hd, decide_true, if_true, Bool.not_true, List.filter_nil, List.append_nil,
    List.flatMap_append, List.flatMap_cons, List.flatMap_nil, Bool.false_eq_true, if_false]
  rw [Core.landList_snoc _ _ _ _ h]
  exact (quiet_posts s c _).landAll _ h

/-- A result due later is still on its way. -/
theorem Core.arriving_later (s : State) (c : CoreNo) (k : Core) (p : Pending) (hd : k.cycleNat < p.due) :
    Core.arriving s c { k with pend := k.pend ++ [p] }
      = (Core.arriving s c k).withPend ((Core.arriving s c k).pend ++ [p]) := by
  have hd' : ¬p.due ≤ k.ctl.cycle.toNat := Nat.not_le.mpr hd
  have f := ((quiet_posts s c ((k.pend.filter fun p => decide (p.due ≤ k.cycleNat)).flatMap (·.events))).pendFree).comp
    (pendFree_landList (k.pend.filter fun p => decide (p.due ≤ k.cycleNat)))
  unfold Core.arriving
  simp only [Core.cycleNat] at f ⊢
  simp only [List.filter_append, List.filter_cons, hd', decide_false, if_true, Bool.not_false, List.filter_nil, List.append_nil,
    Bool.false_eq_true, if_false]
  have g2 := (f { k with pend := k.pend.filter fun p => !decide (p.due ≤ k.ctl.cycle.toNat) } []).2
  have g1 := (f { k with pend := k.pend.filter fun p => !decide (p.due ≤ k.ctl.cycle.toNat) }
    ((k.pend.filter fun p => !decide (p.due ≤ k.ctl.cycle.toNat)) ++ [p])).1
  exact g1.trans (congrArg (fun x => Core.withPend _ (x ++ [p])) g2.symm)

theorem Core.tick_pend (k : Core) (p : List Pending) : ({ k with pend := p } : Core).tick = { k.tick with pend := p } := rfl
theorem Core.tick_cycle (k : Core) (h : k.cycleNat + 1 < 2 ^ 64) : k.tick.cycleNat = k.cycleNat + 1 := by
  simp only [Core.tick, Core.cycleNat, BitVec.toNat_add] at *
  simp
  omega

theorem State.commit_arrive (s : State) {ws : List RegWrite} (h : ∀ w ∈ ws, w.plain = true) (room : s.roomFor 1) :
    (s.awaits (s.due 1 ws)).commitIssue true 0 = (s.commitIssue true 0).arrive ws := by
  rw [State.commitIssue_eq, State.commitIssue_eq]
  simp only [State.awaits, State.me_updMe, Core.tick_pend, State.updMe_cur]
  have e := Core.arriving_snoc s s.cur s.me.tick (due := s.me.cycleNat + 1) h (Nat.le_of_eq (Core.tick_cycle s.me room).symm)
  have a : ∀ k, Core.arriving (s.updMe fun k => { k with pend := k.pend ++ [s.due 1 ws] }) s.cur k = Core.arriving s s.cur k :=
    fun k => Core.arriving_hub rfl _ k
  rw [a, show s.me.pend ++ [s.due 1 ws] = s.me.tick.pend ++ [{ due := s.me.cycleNat + 1, writes := ws }] from rfl, e,
    quiet_force.landAll _ h]
  simp [State.arrive, State.setMe, State.updMe, Core.landAll]

theorem State.commit_awaits (s : State) (p : Pending) (h : s.me.cycleNat + 1 < p.due) (room : s.roomFor 1) :
    (s.awaits p).commitIssue true 0 = (s.commitIssue true 0).awaits p := by
  rw [State.commitIssue_eq, State.commitIssue_eq]
  simp only [State.awaits, State.me_updMe, Core.tick_pend, State.updMe_cur]
  have e := Core.arriving_later s s.cur s.me.tick p (by rw [Core.tick_cycle s.me room]; exact h)
  have a : ∀ k, Core.arriving (s.updMe fun k => { k with pend := k.pend ++ [p] }) s.cur k = Core.arriving s s.cur k :=
    fun k => Core.arriving_hub rfl _ k
  rw [a, show s.me.pend ++ [p] = s.me.tick.pend ++ [p] from rfl, e]
  have g := quiet_force.pendFree (Core.arriving s s.cur s.me.tick)
  rw [(g _).1]
  rw [State.updMe_setMe, State.setMe_updMe]
  rfl

/-! ### Operations that send one result -/

/-- An operation whose result has latency 1. -/
theorem State.solo_atOnce (s : State) (slot words : Nat) {op : State → OpRes} {ws : List RegWrite} (h : ∀ w ∈ ws, w.plain = true)
    (room : s.roomFor 1)
    (e : op (s.beginSolo slot words) = .done ((s.beginSolo slot words).setMe ((s.beginSolo slot words).me.push 1 ws))) :
    s.solo slot words op = .next ((s.issued slot words).arrive ws) := by
  have r : (s.beginSolo slot words).roomFor 1 := by
    simpa [State.roomFor, State.beginSolo, Core.cycleNat] using room
  have c := State.commit_arrive (s.beginSolo slot words) h r
  simp only [State.solo, e]
  exact congrArg Host.Outcome.next c

/-- An operation whose result comes later. -/
theorem State.solo_later (s : State) (slot words lat : Nat) {op : State → OpRes} {ws : List RegWrite} {fl : BitVec 4}
    {evs : List StatEvent} {ld : Bool} (hl : 2 ≤ lat) (room : s.roomFor lat)
    (e : op (s.beginSolo slot words)
      = .done ((s.beginSolo slot words).setMe ((s.beginSolo slot words).me.push lat ws fl evs ld))) :
    s.solo slot words op = .next ((s.issued slot words).awaits
      { due := s.me.cycleNat + lat, writes := ws, flags := fl, events := evs, load := ld }) := by
  have m : (s.beginSolo slot words).me.cycleNat = s.me.cycleNat := by simp [State.beginSolo, Core.cycleNat]
  have r : (s.beginSolo slot words).roomFor 1 := by
    have := room
    simp only [State.roomFor, m] at this ⊢
    omega
  have c := State.commit_awaits (s.beginSolo slot words)
    { due := s.me.cycleNat + lat, writes := ws, flags := fl, events := evs, load := ld } (by rw [m]; show _ < _ + _; omega) r
  simp only [State.solo, e]
  rw [← m] at c ⊢
  exact congrArg Host.Outcome.next c

/-! ### Scalar operands and results at the start of an issue -/

/-- What a scalar result writes is one plain register, or nothing for s0 (R58). -/
theorem State.scalar_plain (s : State) (d : BitVec 5) (v : DWord) : ∀ w ∈ s.scalar d v, w.plain = true := by
  intro w hw
  unfold State.scalar Core.sWrite at hw
  split at hw
  · simp at hw
  · split at hw <;> simp at hw <;> subst hw <;> rfl

@[simp] theorem State.readS_beginSolo (s : State) (slot words : Nat) (a : BitVec 5) :
    (s.beginSolo slot words).me.readS a = s.me.readS a := by
  simp [State.beginSolo, Core.readS]

@[simp] theorem State.operand_beginSolo (s : State) (slot words : Nat) (f) (a : BitVec 5) :
    (s.beginSolo slot words).me.operand f a = s.me.operand f a := by
  simp [State.beginSolo, Core.operand, Core.readS, Core.readN]

theorem State.sWrite_beginSolo (s : State) (slot words : Nat) (d : BitVec 5) (v : DWord) :
    (s.beginSolo slot words).me.sWrite d v = s.scalar d v := by
  simp [State.beginSolo, Core.sWrite, State.scalar]

/-! ### Fetch that finds its caches filled (R11, R69, R223) -/

theorem State.cachePage_hit {s : State} {cl : ClusterNo} {asid : BitVec 12} {va : Nat} (h : (cachedPage (s.cluster cl).tlb asid va).isSome = true) :
    s.cachePage cl asid va = s := by
  obtain ⟨p, e⟩ := Option.isSome_iff_exists.1 h
  simp only [State.cachePage, e]

/-- A bundle whose words and pages are held, and which crosses no page's end, changes nothing. -/
theorem State.afterFetch_held {s : State} {f : Fetched} (words : s.codeMisses f = []) (page : f.crosses = false)
    (held : ∀ va ∈ (Fetch.bundle f).pages s.me.pc, (cachedPage (s.cluster s.myCluster).tlb s.me.theLaunch.asid va).isSome = true) :
    s.afterFetch (.bundle f) = s := by
  have e : ∀ (vs : List Nat), (∀ va ∈ vs, (cachedPage (s.cluster s.myCluster).tlb s.me.theLaunch.asid va).isSome = true) →
      vs.foldl (fun t va => t.cachePage s.myCluster s.me.theLaunch.asid va) s = s := by
    intro vs
    induction vs with
    | nil => intro _; rfl
    | cons v vs ih =>
      intro h
      rw [List.foldl_cons, State.cachePage_hit (h v (.head _))]
      exact ih fun x m => h x (.tail _ m)
  simp only [State.afterFetch, e _ held, words, page, List.isEmpty_nil, Bool.not_false, Bool.and_self, if_true]

end Sys2Proof.Machine
end

