-- ==== Sys2Proof/Laws/Lanes.lean ====
section
/-! SUPPORT. Lanes of a vector register (R118, R119): a lane that was set reads as what was set, every other lane as before. -/

namespace Sys2Proof.Machine

theorem lane_lt (r : VReg) (eb i : Nat) : lane r eb i < 2 ^ eb := Nat.mod_lt _ (Nat.two_pow_pos eb)

/-- The number of a register whose lane `i`, which lies within it, is set. -/
theorem toNat_setLane (r : VReg) (eb i x : Nat) (h : (i + 1) * eb ≤ 1024) :
    (setLane r eb i x).toNat = r.toNat - lane r eb i * 2 ^ (i * eb) + x % 2 ^ eb * 2 ^ (i * eb) := by
  have hx : x % 2 ^ eb < 2 ^ eb := Nat.mod_lt _ (Nat.two_pow_pos eb)
  have hr := r.isLt
  have hl := lane_lt r eb i
  have hp : 0 < 2 ^ (i * eb) := Nat.two_pow_pos _
  have hw : 2 ^ eb * 2 ^ (i * eb) ≤ 2 ^ 1024 := by
    rw [← Nat.pow_add]
    exact Nat.pow_le_pow_right (by decide) (by rw [Nat.add_mul] at h; omega)
  have hle : lane r eb i * 2 ^ (i * eb) ≤ r.toNat := by
    have := Nat.mod_le (r.toNat / 2 ^ (i * eb)) (2 ^ eb)
    calc lane r eb i * 2 ^ (i * eb) ≤ r.toNat / 2 ^ (i * eb) * 2 ^ (i * eb) := Nat.mul_le_mul_right _ this
      _ ≤ r.toNat := Nat.div_mul_le_self _ _
  have hlx : lane r eb i * 2 ^ (i * eb) < 2 ^ 1024 := lt_of_lt_of_le (Nat.mul_lt_mul_of_pos_right hl hp) hw
  have hxx : x % 2 ^ eb * 2 ^ (i * eb) < 2 ^ 1024 := lt_of_lt_of_le (Nat.mul_lt_mul_of_pos_right hx hp) hw
  -- the register without the lane, and the part above and below it
  have hsum : r.toNat - lane r eb i * 2 ^ (i * eb) + x % 2 ^ eb * 2 ^ (i * eb) < 2 ^ 1024 := by
    have e := Nat.div_add_mod r.toNat (2 ^ (i * eb))
    have e2 := Nat.div_add_mod (r.toNat / 2 ^ (i * eb)) (2 ^ eb)
    have hq : r.toNat / 2 ^ (i * eb) / 2 ^ eb < 2 ^ (1024 - (i + 1) * eb) := by
      rw [Nat.div_div_eq_div_mul, ← Nat.pow_add]
      apply Nat.div_lt_of_lt_mul
      rw [← Nat.pow_add]
      rw [show i * eb + eb + (1024 - (i + 1) * eb) = 1024 by rw [Nat.add_mul] at *; omega]
      exact hr
    have hm := Nat.mod_lt r.toNat hp
    set q := r.toNat / 2 ^ (i * eb) / 2 ^ eb
    set l := r.toNat % 2 ^ (i * eb)
    have hrn : r.toNat = 2 ^ (i * eb) * (2 ^ eb * q + lane r eb i) + l := by
      rw [show lane r eb i = r.toNat / 2 ^ (i * eb) % 2 ^ eb from rfl, e2, e]
    have hrest : r.toNat - lane r eb i * 2 ^ (i * eb) = 2 ^ (i * eb) * (2 ^ eb * q) + l := by
      rw [hrn, Nat.mul_add]
      have : lane r eb i * 2 ^ (i * eb) = 2 ^ (i * eb) * lane r eb i := Nat.mul_comm _ _
      omega
    rw [hrest]
    have hq' : q + 1 ≤ 2 ^ (1024 - (i + 1) * eb) := hq
    have t : 2 ^ (i * eb) * (2 ^ eb * (q + 1)) ≤ 2 ^ 1024 := by
      calc 2 ^ (i * eb) * (2 ^ eb * (q + 1)) ≤ 2 ^ (i * eb) * (2 ^ eb * 2 ^ (1024 - (i + 1) * eb)) :=
            Nat.mul_le_mul_left _ (Nat.mul_le_mul_left _ hq')
        _ = 2 ^ 1024 := by
            rw [← Nat.pow_add, ← Nat.pow_add]
            congr 1
            rw [Nat.add_mul] at *; omega
    have u : x % 2 ^ eb * 2 ^ (i * eb) + 2 ^ (i * eb) ≤ 2 ^ (i * eb) * 2 ^ eb := by
      calc x % 2 ^ eb * 2 ^ (i * eb) + 2 ^ (i * eb) = 2 ^ (i * eb) * (x % 2 ^ eb + 1) := by rw [Nat.mul_add, Nat.mul_comm]; simp
        _ ≤ 2 ^ (i * eb) * 2 ^ eb := Nat.mul_le_mul_left _ hx
    have v : 2 ^ (i * eb) * (2 ^ eb * (q + 1)) = 2 ^ (i * eb) * (2 ^ eb * q) + 2 ^ (i * eb) * 2 ^ eb := by ring
    omega
  unfold setLane
  rw [BitVec.toNat_add, BitVec.toNat_sub, BitVec.toNat_ofNat, BitVec.toNat_ofNat, Nat.mod_eq_of_lt hlx, Nat.mod_eq_of_lt hxx,
    show 2 ^ 1024 - lane r eb i * 2 ^ (i * eb) + r.toNat = 2 ^ 1024 + (r.toNat - lane r eb i * 2 ^ (i * eb)) by omega,
    Nat.add_mod_left, Nat.mod_eq_of_lt (show r.toNat - lane r eb i * 2 ^ (i * eb) < 2 ^ 1024 by omega), Nat.mod_eq_of_lt hsum]

/-- A lane that was set, and the others. -/
theorem lane_setLane (r : VReg) (eb i j x : Nat) (h : (i + 1) * eb ≤ 1024) :
    lane (setLane r eb i x) eb j = if j = i then x % 2 ^ eb else lane r eb j := by
  have hp : 0 < 2 ^ (i * eb) := Nat.two_pow_pos _
  have hx : x % 2 ^ eb < 2 ^ eb := Nat.mod_lt _ (Nat.two_pow_pos eb)
  have e := Nat.div_add_mod r.toNat (2 ^ (i * eb))
  have e2 := Nat.div_add_mod (r.toNat / 2 ^ (i * eb)) (2 ^ eb)
  have hm := Nat.mod_lt r.toNat hp
  have hl := lane_lt r eb i
  set q := r.toNat / 2 ^ (i * eb) / 2 ^ eb with hq
  set l := r.toNat % 2 ^ (i * eb) with hld
  have hrn : r.toNat = 2 ^ (i * eb) * (2 ^ eb * q + lane r eb i) + l := by
    rw [show lane r eb i = r.toNat / 2 ^ (i * eb) % 2 ^ eb from rfl, e2, e]
  have hs : (setLane r eb i x).toNat = 2 ^ (i * eb) * (2 ^ eb * q + x % 2 ^ eb) + l := by
    rw [toNat_setLane r eb i x h]
    have a : lane r eb i * 2 ^ (i * eb) = 2 ^ (i * eb) * lane r eb i := Nat.mul_comm _ _
    have b : x % 2 ^ eb * 2 ^ (i * eb) = 2 ^ (i * eb) * (x % 2 ^ eb) := Nat.mul_comm _ _
    rw [Nat.mul_add] at hrn ⊢
    omega
  have quot : ∀ y < 2 ^ eb, ∀ j, (2 ^ (i * eb) * (2 ^ eb * q + y) + l) / 2 ^ (j * eb) % 2 ^ eb
      = if j = i then y else if j < i then l / 2 ^ (j * eb) % 2 ^ eb else q / 2 ^ ((j - (i + 1)) * eb) % 2 ^ eb := by
    intro y hy j
    rcases Nat.lt_trichotomy j i with c | c | c
    · rw [if_neg (by omega), if_pos c]
      obtain ⟨d, rfl⟩ : ∃ d, i = j + 1 + d := ⟨i - (j + 1), by omega⟩
      rw [show 2 ^ ((j + 1 + d) * eb) = 2 ^ (j * eb) * (2 ^ eb * 2 ^ (d * eb)) by rw [← Nat.pow_add, ← Nat.pow_add]; ring_nf,
        Nat.mul_assoc, Nat.mul_add_div (Nat.two_pow_pos _), Nat.mul_assoc, Nat.mul_add_mod]
    · rw [if_pos c, c, Nat.mul_add_div hp, Nat.div_eq_of_lt hm, Nat.add_zero, Nat.mul_add_mod, Nat.mod_eq_of_lt hy]
    · rw [if_neg (by omega), if_neg (by omega)]
      obtain ⟨d, rfl⟩ : ∃ d, j = i + 1 + d := ⟨j - (i + 1), by omega⟩
      rw [show 2 ^ ((i + 1 + d) * eb) = 2 ^ (i * eb) * (2 ^ eb * 2 ^ (d * eb)) by rw [← Nat.pow_add, ← Nat.pow_add]; ring_nf,
        ← Nat.div_div_eq_div_mul, Nat.mul_add_div hp, Nat.div_eq_of_lt hm, Nat.add_zero, ← Nat.div_div_eq_div_mul,
        Nat.mul_add_div (Nat.two_pow_pos _), Nat.div_eq_of_lt hy, Nat.add_zero, show i + 1 + d - (i + 1) = d by omega]
  show (setLane r eb i x).toNat / 2 ^ (j * eb) % 2 ^ eb = _
  rw [hs, quot _ hx]
  by_cases c : j = i
  · rw [if_pos c, if_pos c]
  · rw [if_neg c, if_neg c]
    show _ = r.toNat / 2 ^ (j * eb) % 2 ^ eb
    rw [hrn, quot _ hl, if_neg c]

/-- Lanes that were set, each once: a lane that is among them, and one that is not. -/
theorem lane_setLanes (r : VReg) (eb j : Nat) (xs : List (Nat × Nat)) (h : ∀ x ∈ xs, (x.1 + 1) * eb ≤ 1024)
    (hd : xs.Pairwise fun x y => x.1 ≠ y.1) :
    lane (setLanes r eb xs) eb j = match xs.find? (fun x => x.1 == j) with | some x => x.2 % 2 ^ eb | none => lane r eb j := by
  induction xs generalizing r with
  | nil => rfl
  | cons x xs ih =>
    rw [List.pairwise_cons] at hd
    have step : lane (setLanes r eb (x :: xs)) eb j = lane (setLanes (setLane r eb x.1 x.2) eb xs) eb j := rfl
    rw [step, ih _ (fun y hy => h y (List.mem_cons_of_mem _ hy)) hd.2, lane_setLane _ _ _ _ _ (h x List.mem_cons_self)]
    by_cases c : x.1 = j
    · have hn : xs.find? (fun y => y.1 == j) = none := List.find?_eq_none.2 fun y hy e => hd.1 y hy (c.trans (eq_of_beq e).symm)
      rw [hn, List.find?_cons_of_pos (by simpa using c)]
      simp [c]
    · rw [List.find?_cons_of_neg (by simpa using c), if_neg (fun e => c e.symm)]

end Sys2Proof.Machine
end

