-- ==== Sys2Proof/Laws/Mem.lean ====
section
/-! SUPPORT. Sparse memories (R2, R212): every operation keeps the canonical form, a read after a write gives the byte written or the byte
there before, and canonical memories that read alike are equal. -/

namespace Sys2Proof.Machine

/-- What the canonical form says. -/
theorem Mem.wf_iff (m : Mem) : Mem.wf m = true ↔ m.Pairwise (fun c d => c.1 < d.1) ∧ ∀ c ∈ m, c.2 ≠ 0 := by
  induction m with
  | nil => simp [Mem.wf]
  | cons c m ih =>
    cases m with
    | nil => simp [Mem.wf]
    | cons d m =>
      simp only [Mem.wf, Bool.and_eq_true, ih, bne_iff_ne, decide_eq_true_eq, List.pairwise_cons, List.forall_mem_cons]
      constructor
      · rintro ⟨⟨hc, hcd⟩, ⟨hd, hm⟩, hd0, hm0⟩
        exact ⟨⟨⟨hcd, fun x hx => hcd.trans (hd x hx)⟩, hd, hm⟩, hc, hd0, hm0⟩
      · rintro ⟨⟨⟨hcd, _⟩, hd, hm⟩, hc, hd0, hm0⟩
        exact ⟨⟨hc, hcd⟩, ⟨hd, hm⟩, hd0, hm0⟩

theorem Mem.wf_filter {m : Mem} (h : Mem.wf m = true) (p : Host.Cell → Bool) : Mem.wf (m.filter p) = true := by
  rw [Mem.wf_iff] at *
  exact ⟨h.1.filter p, fun c hc => h.2 c (List.mem_filter.1 hc).1⟩

theorem Mem.wf_nil : Mem.wf [] = true := rfl

/-- The cells of `bs` at `a` lie from `a` on, below its end, and hold what `bs` holds. -/
theorem Mem.mem_cells {a : Nat} {bs : List Byte} {c : Host.Cell} (h : c ∈ Mem.cells a bs) :
    a ≤ c.1 ∧ c.1 < a + bs.length ∧ c.2 ≠ 0 ∧ bs.getD (c.1 - a) 0 = c.2 := by
  induction bs generalizing a with
  | nil => simp [Mem.cells] at h
  | cons b bs ih =>
    have next : c ∈ Mem.cells (a + 1) bs → a ≤ c.1 ∧ c.1 < a + (b :: bs).length ∧ c.2 ≠ 0 ∧ (b :: bs).getD (c.1 - a) 0 = c.2 := by
      intro h
      obtain ⟨h1, h2, h3, h4⟩ := ih h
      refine ⟨by omega, by simp; omega, h3, ?_⟩
      rw [show c.1 - a = (c.1 - (a + 1)) + 1 by omega, List.getD_cons_succ, h4]
    by_cases hb : b = 0
    · exact next (by simpa [Mem.cells, hb] using h)
    · simp only [Mem.cells, if_neg hb, List.mem_cons] at h
      rcases h with rfl | h
      · exact ⟨le_refl _, by simp, hb, by simp⟩
      · exact next h

theorem Mem.wf_cells (a : Nat) (bs : List Byte) : Mem.wf (Mem.cells a bs) = true := by
  rw [Mem.wf_iff]
  refine ⟨?_, fun c hc => (Mem.mem_cells hc).2.2.1⟩
  induction bs generalizing a with
  | nil => exact List.Pairwise.nil
  | cons b bs ih =>
    by_cases hb : b = 0
    · simpa [Mem.cells, hb] using ih (a + 1)
    · simp only [Mem.cells, if_neg hb, List.pairwise_cons]
      exact ⟨fun c hc => (Mem.mem_cells hc).1, ih (a + 1)⟩

/-- A write keeps the canonical form. -/
theorem Mem.wf_write {m : Mem} (h : Mem.wf m = true) (a : Nat) (bs : List Byte) : Mem.wf (m.write a bs) = true := by
  have hl := (Mem.wf_iff _).1 (Mem.wf_filter h fun c => c.1 < a)
  have hr := (Mem.wf_iff _).1 (Mem.wf_filter h fun c => a + bs.length ≤ c.1)
  have hc := (Mem.wf_iff _).1 (Mem.wf_cells a bs)
  rw [Mem.wf_iff, Mem.write]
  simp only [List.pairwise_append, List.mem_append]
  refine ⟨⟨⟨hl.1, hc.1, ?_⟩, hr.1, ?_⟩, ?_⟩
  · intro c hc d hd
    have := (List.mem_filter.1 hc).2
    have := (Mem.mem_cells hd).1
    simp at *; omega
  · rintro c (hc | hc) d hd
    · have := (List.mem_filter.1 hc).2
      have := (List.mem_filter.1 hd).2
      simp at *; omega
    · have := (Mem.mem_cells hc).2.1
      have := (List.mem_filter.1 hd).2
      simp at *; omega
  · rintro c ((hc' | hc') | hc')
    · exact hl.2 c hc'
    · exact hc.2 c hc'
    · exact hr.2 c hc'

theorem Mem.wf_writeEach {m : Mem} (h : Mem.wf m = true) (ws : List (Nat × Byte)) : Mem.wf (m.writeEach ws) = true := by
  unfold Mem.writeEach
  induction runsOf ws generalizing m with
  | nil => exact h
  | cons r rs ih => exact ih (Mem.wf_write h r.1 r.2)

/-! ### Reads -/

/-- A byte that a memory lists once is what it reads as there. -/
theorem Mem.read_mem {m : Mem} (h : Mem.wf m = true) {a : Nat} {b : Byte} (hm : (a, b) ∈ m) : m.read a = b := by
  rw [Mem.wf_iff] at h
  obtain ⟨h, -⟩ := h
  induction m with
  | nil => cases hm
  | cons c m ih =>
    obtain ⟨k, x⟩ := c
    rw [List.pairwise_cons] at h
    rcases List.mem_cons.1 hm with e | e
    · cases e; simp [Mem.read]
    · have := h.1 _ e
      simp only [Mem.read, if_neg (show k ≠ a by simp at this; omega), ih e h.2]

/-- An address that a memory does not list reads as 0. -/
theorem Mem.read_none {m : Mem} {a : Nat} (h : ∀ c ∈ m, c.1 ≠ a) : m.read a = 0 := by
  induction m with
  | nil => rfl
  | cons c m ih =>
    obtain ⟨k, x⟩ := c
    simp only [Mem.read, if_neg (show k ≠ a from h _ List.mem_cons_self), ih fun c hc => h c (List.mem_cons_of_mem _ hc)]

/-- A memory lists (a, b) exactly where it reads as b there, and b is not 0. -/
theorem Mem.mem_iff {m : Mem} (h : Mem.wf m = true) (a : Nat) (b : Byte) : (a, b) ∈ m ↔ m.read a = b ∧ b ≠ 0 := by
  constructor
  · intro hm
    exact ⟨Mem.read_mem h hm, ((Mem.wf_iff m).1 h).2 _ hm⟩
  · rintro ⟨e, hb⟩
    by_contra hn
    have hz : m.read a = 0 := Mem.read_none fun c hc hca => by
      obtain ⟨k, x⟩ := c
      cases hca
      have := Mem.read_mem h hc
      rw [this] at e
      exact hn (e ▸ hc)
    exact hb (e ▸ hz)

/-- The byte at `i` of what was written, or the byte there before. -/
theorem Mem.read_write {m : Mem} (h : Mem.wf m = true) (a : Nat) (bs : List Byte) (x : Nat) :
    (m.write a bs).read x = if a ≤ x ∧ x < a + bs.length then bs.getD (x - a) 0 else m.read x := by
  have hw := Mem.wf_write h a bs
  by_cases hx : a ≤ x ∧ x < a + bs.length
  · rw [if_pos hx]
    by_cases hz : bs.getD (x - a) 0 = 0
    · rw [hz]
      apply Mem.read_none
      intro c hc hca
      simp only [Mem.write, List.mem_append, List.mem_filter] at hc
      rcases hc with (hc | hc) | hc
      · have := hc.2; simp at this; omega
      · obtain ⟨_, _, h3, h4⟩ := Mem.mem_cells hc
        rw [hca, hz] at h4
        exact h3 h4.symm
      · have := hc.2; simp at this; omega
    · apply Mem.read_mem hw
      simp only [Mem.write, List.mem_append]
      refine .inl (.inr ?_)
      clear hw h
      induction bs generalizing a with
      | nil => simp at hx; omega
      | cons b bs ih =>
        rcases Nat.eq_or_lt_of_le hx.1 with e | e
        · subst e
          simp only [Nat.sub_self, List.getD_cons_zero] at hz ⊢
          show _ ∈ (if b = 0 then Mem.cells (a + 1) bs else (a, b) :: Mem.cells (a + 1) bs)
          rw [if_neg hz]
          exact List.mem_cons_self
        · rw [show x - a = (x - (a + 1)) + 1 by omega, List.getD_cons_succ] at hz ⊢
          have := ih (a + 1) (by simp at hx; omega) hz
          simp only [Mem.cells]
          split
          · exact this
          · exact List.mem_cons_of_mem _ this
  · rw [if_neg hx]
    by_cases hz : m.read x = 0
    · rw [hz]
      apply Mem.read_none
      rintro ⟨k, b⟩ hc rfl
      simp only [Mem.write, List.mem_append, List.mem_filter] at hc
      rcases hc with (hc | hc) | hc
      · exact ((Mem.mem_iff h _ _).1 hc.1).2 (((Mem.mem_iff h _ _).1 hc.1).1.symm.trans hz)
      · have := Mem.mem_cells hc
        exact hx ⟨this.1, this.2.1⟩
      · exact ((Mem.mem_iff h _ _).1 hc.1).2 (((Mem.mem_iff h _ _).1 hc.1).1.symm.trans hz)
    · apply Mem.read_mem hw
      have hm := (Mem.mem_iff h x (m.read x)).2 ⟨rfl, hz⟩
      simp only [Mem.write, List.mem_append, List.mem_filter]
      by_cases hlt : x < a
      · exact .inl (.inl ⟨hm, by simpa using hlt⟩)
      · exact .inr ⟨hm, by simp; omega⟩

/-- Canonical memories that read alike are equal. -/
theorem Mem.ext {m n : Mem} (hm : Mem.wf m = true) (hn : Mem.wf n = true) (h : ∀ a, m.read a = n.read a) : m = n := by
  have hmn : ∀ c, c ∈ m ↔ c ∈ n := fun ⟨a, b⟩ => by rw [Mem.mem_iff hm, Mem.mem_iff hn, h a]
  have pm := ((Mem.wf_iff m).1 hm).1
  have pn := ((Mem.wf_iff n).1 hn).1
  refine List.Perm.eq_of_pairwise (le := fun c d : Host.Cell => c.1 < d.1) (fun a b _ _ h1 h2 => absurd (h1.trans h2) (lt_irrefl _)) pm pn ?_
  exact (List.perm_ext_iff_of_nodup (pm.imp fun hlt e => by rw [e] at hlt; exact lt_irrefl _ hlt)
    (pn.imp fun hlt e => by rw [e] at hlt; exact lt_irrefl _ hlt)).2 hmn

/-! ### Runs of bytes -/

theorem Mem.length_take (n a : Nat) (m : Mem) : (Mem.take n a m).length = n := by
  induction n generalizing a m with
  | zero => cases m <;> rfl
  | succ n ih =>
    cases m with
    | nil => simp [Mem.take, ih]
    | cons c m =>
      obtain ⟨k, b⟩ := c
      simp only [Mem.take]
      split <;> simp [ih]

@[simp] theorem Mem.length_bytes (m : Mem) (a n : Nat) : (m.bytes a n).length = n := Mem.length_take _ _ _

theorem Mem.getD_take {m : Mem} (h : Mem.wf m = true) (n a i : Nat) (ha : ∀ c ∈ m, a ≤ c.1) (hi : i < n) :
    (Mem.take n a m).getD i 0 = m.read (a + i) := by
  induction n generalizing a i m with
  | zero => omega
  | succ n ih =>
    cases m with
    | nil =>
      cases i with
      | zero => simp [Mem.take, Mem.read]
      | succ i =>
        simp only [Mem.take, List.getD_cons_succ]
        rw [ih h (a + 1) i (by simp) (by omega), show a + 1 + i = a + (i + 1) by omega]
    | cons c m =>
      obtain ⟨k, b⟩ := c
      have hw := (Mem.wf_iff _).1 h
      rw [List.pairwise_cons] at hw
      have hk : a ≤ k := ha _ List.mem_cons_self
      simp only [Mem.take]
      by_cases e : k = a
      · subst e
        rw [if_pos rfl]
        have hm : Mem.wf m = true := (Mem.wf_iff m).2 ⟨hw.1.2, fun c hc => hw.2 c (List.mem_cons_of_mem _ hc)⟩
        cases i with
        | zero => simp [Mem.read]
        | succ i =>
          rw [List.getD_cons_succ, ih hm (k + 1) i (fun c hc => hw.1.1 c hc) (by omega), show k + 1 + i = k + (i + 1) by omega]
          simp only [Mem.read, if_neg (show k ≠ k + (i + 1) by omega)]
      · rw [if_neg e]
        cases i with
        | zero =>
          rw [List.getD_cons_zero, Nat.add_zero, Mem.read_none]
          intro c hc
          rcases List.mem_cons.1 hc with rfl | hc
          · exact e
          · have := hw.1.1 c hc; simp at this; omega
        | succ i =>
          rw [List.getD_cons_succ, ih h (a + 1) i (fun c hc => ?_) (by omega), show a + 1 + i = a + (i + 1) by omega]
          rcases List.mem_cons.1 hc with rfl | hc
          · show a + 1 ≤ k; omega
          · have := hw.1.1 c hc; simp at this; omega

/-- Byte `i` of a run is what the memory reads as there. -/
theorem Mem.getD_bytes {m : Mem} (h : Mem.wf m = true) (a n i : Nat) (hi : i < n) : (m.bytes a n).getD i 0 = m.read (a + i) := by
  have hw := (Mem.wf_iff m).1 h
  have hd : ∀ m : Mem, m.Pairwise (fun c d => c.1 < d.1) → m.dropWhile (fun c => c.1 < a) = m.filter (fun c => !decide (c.1 < a)) := by
    intro m hp
    induction m with
    | nil => rfl
    | cons c m ih =>
      rw [List.pairwise_cons] at hp
      by_cases hc : c.1 < a
      · rw [List.dropWhile_cons_of_pos (by simpa using hc), List.filter_cons_of_neg (by simpa using hc), ih hp.2]
      · rw [List.dropWhile_cons_of_neg (by simpa using hc), List.filter_cons_of_pos (by simpa using hc)]
        congr 1
        symm
        rw [List.filter_eq_self]
        intro d hd
        have := hp.1 d hd
        simp; omega
  rw [Mem.bytes, hd m hw.1]
  have hf := Mem.wf_filter h fun c => !decide (c.1 < a)
  rw [Mem.getD_take hf n a i (fun c hc => by have := (List.mem_filter.1 hc).2; simpa using this) hi]
  by_cases hz : m.read (a + i) = 0
  · rw [hz]
    apply Mem.read_none
    rintro ⟨k, b⟩ hc rfl
    exact ((Mem.mem_iff h _ _).1 (List.mem_filter.1 hc).1).2 (((Mem.mem_iff h _ _).1 (List.mem_filter.1 hc).1).1.symm.trans hz)
  · apply Mem.read_mem hf
    exact List.mem_filter.2 ⟨(Mem.mem_iff h _ _).2 ⟨rfl, hz⟩, by simp⟩

/-- A run that was just written reads back. -/
theorem Mem.bytes_write {m : Mem} (h : Mem.wf m = true) (a : Nat) (bs : List Byte) : (m.write a bs).bytes a bs.length = bs := by
  apply List.ext_getElem (by simp)
  intro i h1 h2
  have h3 := Mem.getD_bytes (Mem.wf_write h a bs) a bs.length i h2
  rw [Mem.read_write h, if_pos ⟨by omega, by omega⟩, show a + i - a = i by omega] at h3
  rw [List.getD_eq_getElem _ _ h1, List.getD_eq_getElem _ _ h2] at h3
  exact h3

/-- A run that lies apart from what was written reads as before. -/
theorem Mem.bytes_write_apart {m : Mem} (h : Mem.wf m = true) (a : Nat) (bs : List Byte) (b n : Nat) (hd : b + n ≤ a ∨ a + bs.length ≤ b) :
    (m.write a bs).bytes b n = m.bytes b n := by
  apply List.ext_getElem (by simp)
  intro i h1 h2
  have hi : i < n := by simpa using h2
  have h3 := Mem.getD_bytes (Mem.wf_write h a bs) b n i hi
  have h4 := Mem.getD_bytes h b n i hi
  rw [Mem.read_write h, if_neg (by omega)] at h3
  rw [List.getD_eq_getElem _ _ h1] at h3
  rw [List.getD_eq_getElem _ _ h2] at h4
  rw [h3, h4]

/-! ### Little-endian numbers -/

@[simp] theorem length_leBytes (n v : Nat) : (leBytes n v).length = n := by
  induction n generalizing v with
  | zero => rfl
  | succ n ih => simp [leBytes, ih]

/-- The number in the bytes of a number is its low bytes. -/
theorem leNat_leBytes (n v : Nat) : leNat (leBytes n v) = v % 256 ^ n := by
  induction n generalizing v with
  | zero => simp [leBytes, leNat, Nat.mod_one]
  | succ n ih =>
    simp only [leBytes, leNat, ih, BitVec.toNat_ofNat]
    rw [show (2 : Nat) ^ 8 = 256 from rfl, Nat.pow_succ, Nat.mul_comm (256 ^ n), Nat.mod_mul]

theorem leNat_lt (bs : List Byte) : leNat bs < 256 ^ bs.length := by
  induction bs with
  | nil => simp [leNat]
  | cons b bs ih =>
    simp only [leNat, List.length_cons, Nat.pow_succ]
    have := b.isLt
    omega

/-- A number that was just stored reads back. -/
theorem Mem.num_write {m : Mem} (h : Mem.wf m = true) (a n v : Nat) : (m.write a (leBytes n v)).num a n = v % 256 ^ n := by
  have := Mem.bytes_write h a (leBytes n v)
  rw [length_leBytes] at this
  rw [Mem.num, this, leNat_leBytes]

end Sys2Proof.Machine
end

