-- ==== Sys2Proof/Laws/PerInstr.lean ====
section
/-! SUPPORT. Statements about every instruction, one lemma for each constructor. -/

namespace Sys2Proof.Laws.Encodings

/-- The encodings of an instruction: in its slot, as a micro-op, as an errand step and as a port write (R22, R29, R156, R317, R324). -/
def all (i : Instr) : List (Option Nat) :=
  [encodeL i, encodeS i, encodeV i, encodeM i, encodeC i, encodeU i, encodeE i, encodeP i]

/-- An instruction is encoded in one place at most. -/
def Statement (i : Instr) : Prop := (all i).countP Option.isSome ≤ 1

theorem lnop x0 : Statement (.lnop x0) := Nat.le_of_ble_eq_true rfl
theorem br x0 x1 : Statement (.br x0 x1) := Nat.le_of_ble_eq_true rfl
theorem brz x0 x1 x2 : Statement (.brz x0 x1 x2) := Nat.le_of_ble_eq_true rfl
theorem brnz x0 x1 x2 : Statement (.brnz x0 x1 x2) := Nat.le_of_ble_eq_true rfl
theorem brlt x0 x1 x2 : Statement (.brlt x0 x1 x2) := Nat.le_of_ble_eq_true rfl
theorem brge x0 x1 x2 : Statement (.brge x0 x1 x2) := Nat.le_of_ble_eq_true rfl
theorem brq x0 x1 x2 x3 : Statement (.brq x0 x1 x2 x3) := Nat.le_of_ble_eq_true rfl
theorem bri x0 x1 : Statement (.bri x0 x1) := Nat.le_of_ble_eq_true rfl
theorem call x0 x1 x2 : Statement (.call x0 x1 x2) := Nat.le_of_ble_eq_true rfl
theorem ret x0 x1 : Statement (.ret x0 x1) := Nat.le_of_ble_eq_true rfl
theorem loop x0 x1 x2 : Statement (.loop x0 x1 x2) := Nat.le_of_ble_eq_true rfl
theorem loopr x0 x1 x2 : Statement (.loopr x0 x1 x2) := Nat.le_of_ble_eq_true rfl
theorem hwait x0 x1 x2 x3 : Statement (.hwait x0 x1 x2 x3) := Nat.le_of_ble_eq_true rfl
theorem bar x0 x1 : Statement (.bar x0 x1) := Nat.le_of_ble_eq_true rfl
theorem waitv x0 x1 x2 x3 x4 : Statement (.waitv x0 x1 x2 x3 x4) := Nat.le_of_ble_eq_true rfl
theorem halt x0 : Statement (.halt x0) := Nat.le_of_ble_eq_true rfl
theorem aret x0 : Statement (.aret x0) := Nat.le_of_ble_eq_true rfl
theorem tret x0 x1 : Statement (.tret x0 x1) := Nat.le_of_ble_eq_true rfl
theorem snop x0 : Statement (.snop x0) := Nat.le_of_ble_eq_true rfl
theorem add x0 : Statement (.add x0) := Nat.le_of_ble_eq_true rfl
theorem sub x0 : Statement (.sub x0) := Nat.le_of_ble_eq_true rfl
theorem addi x0 : Statement (.addi x0) := Nat.le_of_ble_eq_true rfl
theorem mul x0 : Statement (.mul x0) := Nat.le_of_ble_eq_true rfl
theorem mulhs x0 : Statement (.mulhs x0) := Nat.le_of_ble_eq_true rfl
theorem mulhn x0 : Statement (.mulhn x0) := Nat.le_of_ble_eq_true rfl
theorem divs x0 : Statement (.divs x0) := Nat.le_of_ble_eq_true rfl
theorem divn x0 : Statement (.divn x0) := Nat.le_of_ble_eq_true rfl
theorem rems x0 : Statement (.rems x0) := Nat.le_of_ble_eq_true rfl
theorem remn x0 : Statement (.remn x0) := Nat.le_of_ble_eq_true rfl
theorem and x0 : Statement (.and x0) := Nat.le_of_ble_eq_true rfl
theorem or x0 : Statement (.or x0) := Nat.le_of_ble_eq_true rfl
theorem xor x0 : Statement (.xor x0) := Nat.le_of_ble_eq_true rfl
theorem andn x0 : Statement (.andn x0) := Nat.le_of_ble_eq_true rfl
theorem andi x0 : Statement (.andi x0) := Nat.le_of_ble_eq_true rfl
theorem ori x0 : Statement (.ori x0) := Nat.le_of_ble_eq_true rfl
theorem xori x0 : Statement (.xori x0) := Nat.le_of_ble_eq_true rfl
theorem shl x0 : Statement (.shl x0) := Nat.le_of_ble_eq_true rfl
theorem shr x0 : Statement (.shr x0) := Nat.le_of_ble_eq_true rfl
theorem sar x0 : Statement (.sar x0) := Nat.le_of_ble_eq_true rfl
theorem shli x0 : Statement (.shli x0) := Nat.le_of_ble_eq_true rfl
theorem shri x0 : Statement (.shri x0) := Nat.le_of_ble_eq_true rfl
theorem sari x0 : Statement (.sari x0) := Nat.le_of_ble_eq_true rfl
theorem ror x0 : Statement (.ror x0) := Nat.le_of_ble_eq_true rfl
theorem rori x0 : Statement (.rori x0) := Nat.le_of_ble_eq_true rfl
theorem clz x0 : Statement (.clz x0) := Nat.le_of_ble_eq_true rfl
theorem ctz x0 : Statement (.ctz x0) := Nat.le_of_ble_eq_true rfl
theorem popc x0 : Statement (.popc x0) := Nat.le_of_ble_eq_true rfl
theorem bfx x0 : Statement (.bfx x0) := Nat.le_of_ble_eq_true rfl
theorem bfxs x0 : Statement (.bfxs x0) := Nat.le_of_ble_eq_true rfl
theorem bfi x0 : Statement (.bfi x0) := Nat.le_of_ble_eq_true rfl
theorem bfxv x0 x1 x2 x3 x4 : Statement (.bfxv x0 x1 x2 x3 x4) := Nat.le_of_ble_eq_true rfl
theorem ceq x0 : Statement (.ceq x0) := Nat.le_of_ble_eq_true rfl
theorem cne x0 : Statement (.cne x0) := Nat.le_of_ble_eq_true rfl
theorem clt x0 : Statement (.clt x0) := Nat.le_of_ble_eq_true rfl
theorem cltn x0 : Statement (.cltn x0) := Nat.le_of_ble_eq_true rfl
theorem cle x0 : Statement (.cle x0) := Nat.le_of_ble_eq_true rfl
theorem clen x0 : Statement (.clen x0) := Nat.le_of_ble_eq_true rfl
theorem ceqi x0 : Statement (.ceqi x0) := Nat.le_of_ble_eq_true rfl
theorem clti x0 : Statement (.clti x0) := Nat.le_of_ble_eq_true rfl
theorem sel x0 x1 x2 x3 x4 : Statement (.sel x0 x1 x2 x3 x4) := Nat.le_of_ble_eq_true rfl
theorem min x0 : Statement (.min x0) := Nat.le_of_ble_eq_true rfl
theorem max x0 : Statement (.max x0) := Nat.le_of_ble_eq_true rfl
theorem minn x0 : Statement (.minn x0) := Nat.le_of_ble_eq_true rfl
theorem maxn x0 : Statement (.maxn x0) := Nat.le_of_ble_eq_true rfl
theorem li x0 x1 x2 : Statement (.li x0 x1 x2) := Nat.le_of_ble_eq_true rfl
theorem liExt x0 x1 x2 : Statement (.liExt x0 x1 x2) := Nat.le_of_ble_eq_true rfl
theorem lih x0 x1 x2 x3 : Statement (.lih x0 x1 x2 x3) := Nat.le_of_ble_eq_true rfl
theorem addr x0 x1 x2 x3 x4 x5 : Statement (.addr x0 x1 x2 x3 x4 x5) := Nat.le_of_ble_eq_true rfl
theorem lds x0 : Statement (.lds x0) := Nat.le_of_ble_eq_true rfl
theorem sts x0 : Statement (.sts x0) := Nat.le_of_ble_eq_true rfl
theorem ldsx x0 x1 x2 x3 x4 x5 x6 : Statement (.ldsx x0 x1 x2 x3 x4 x5 x6) := Nat.le_of_ble_eq_true rfl
theorem stsx x0 x1 x2 x3 x4 x5 : Statement (.stsx x0 x1 x2 x3 x4 x5) := Nat.le_of_ble_eq_true rfl
theorem getr x0 x1 x2 : Statement (.getr x0 x1 x2) := Nat.le_of_ble_eq_true rfl
theorem setr x0 x1 x2 : Statement (.setr x0 x1 x2) := Nat.le_of_ble_eq_true rfl
theorem getg x0 x1 x2 : Statement (.getg x0 x1 x2) := Nat.le_of_ble_eq_true rfl
theorem geth x0 x1 x2 : Statement (.geth x0 x1 x2) := Nat.le_of_ble_eq_true rfl
theorem setn x0 x1 x2 : Statement (.setn x0 x1 x2) := Nat.le_of_ble_eq_true rfl
theorem setb x0 x1 x2 : Statement (.setb x0 x1 x2) := Nat.le_of_ble_eq_true rfl
theorem setq x0 x1 x2 : Statement (.setq x0 x1 x2) := Nat.le_of_ble_eq_true rfl
theorem drain x0 x1 x2 : Statement (.drain x0 x1 x2) := Nat.le_of_ble_eq_true rfl
theorem invoke x0 x1 x2 x3 : Statement (.invoke x0 x1 x2 x3) := Nat.le_of_ble_eq_true rfl
theorem sprint x0 x1 x2 x3 : Statement (.sprint x0 x1 x2 x3) := Nat.le_of_ble_eq_true rfl
theorem sprintx x0 x1 : Statement (.sprintx x0 x1) := Nat.le_of_ble_eq_true rfl
theorem trap x0 x1 x2 : Statement (.trap x0 x1 x2) := Nat.le_of_ble_eq_true rfl
theorem statpop x0 x1 x2 : Statement (.statpop x0 x1 x2) := Nat.le_of_ble_eq_true rfl
theorem fmtset x0 x1 x2 x3 : Statement (.fmtset x0 x1 x2 x3) := Nat.le_of_ble_eq_true rfl
theorem vnop x0 : Statement (.vnop x0) := Nat.le_of_ble_eq_true rfl
theorem vadd x0 : Statement (.vadd x0) := Nat.le_of_ble_eq_true rfl
theorem vaddArith x0 x1 : Statement (.vaddArith x0 x1) := Nat.le_of_ble_eq_true rfl
theorem vsub x0 : Statement (.vsub x0) := Nat.le_of_ble_eq_true rfl
theorem vsubArith x0 x1 : Statement (.vsubArith x0 x1) := Nat.le_of_ble_eq_true rfl
theorem vmul x0 : Statement (.vmul x0) := Nat.le_of_ble_eq_true rfl
theorem vmulArith x0 x1 : Statement (.vmulArith x0 x1) := Nat.le_of_ble_eq_true rfl
theorem vfma x0 : Statement (.vfma x0) := Nat.le_of_ble_eq_true rfl
theorem vfmaArith x0 x1 : Statement (.vfmaArith x0 x1) := Nat.le_of_ble_eq_true rfl
theorem vfms x0 : Statement (.vfms x0) := Nat.le_of_ble_eq_true rfl
theorem vfmsArith x0 x1 : Statement (.vfmsArith x0 x1) := Nat.le_of_ble_eq_true rfl
theorem vmin x0 : Statement (.vmin x0) := Nat.le_of_ble_eq_true rfl
theorem vmax x0 : Statement (.vmax x0) := Nat.le_of_ble_eq_true rfl
theorem vabs x0 : Statement (.vabs x0) := Nat.le_of_ble_eq_true rfl
theorem vabsArith x0 x1 : Statement (.vabsArith x0 x1) := Nat.le_of_ble_eq_true rfl
theorem vneg x0 : Statement (.vneg x0) := Nat.le_of_ble_eq_true rfl
theorem vnegArith x0 x1 : Statement (.vnegArith x0 x1) := Nat.le_of_ble_eq_true rfl
theorem vclamp x0 : Statement (.vclamp x0) := Nat.le_of_ble_eq_true rfl
theorem vand x0 : Statement (.vand x0) := Nat.le_of_ble_eq_true rfl
theorem vor x0 : Statement (.vor x0) := Nat.le_of_ble_eq_true rfl
theorem vxor x0 : Statement (.vxor x0) := Nat.le_of_ble_eq_true rfl
theorem vshl x0 : Statement (.vshl x0) := Nat.le_of_ble_eq_true rfl
theorem vshr x0 : Statement (.vshr x0) := Nat.le_of_ble_eq_true rfl
theorem vsar x0 : Statement (.vsar x0) := Nat.le_of_ble_eq_true rfl
theorem vceq x0 : Statement (.vceq x0) := Nat.le_of_ble_eq_true rfl
theorem vclt x0 : Statement (.vclt x0) := Nat.le_of_ble_eq_true rfl
theorem vcle x0 : Statement (.vcle x0) := Nat.le_of_ble_eq_true rfl
theorem vcun x0 : Statement (.vcun x0) := Nat.le_of_ble_eq_true rfl
theorem vsel x0 : Statement (.vsel x0) := Nat.le_of_ble_eq_true rfl
theorem vcvt x0 x1 : Statement (.vcvt x0 x1) := Nat.le_of_ble_eq_true rfl
theorem vcvtb x0 x1 : Statement (.vcvtb x0 x1) := Nat.le_of_ble_eq_true rfl
theorem vpack x0 x1 x2 : Statement (.vpack x0 x1 x2) := Nat.le_of_ble_eq_true rfl
theorem vunpk x0 x1 : Statement (.vunpk x0 x1) := Nat.le_of_ble_eq_true rfl
theorem vshuf x0 x1 : Statement (.vshuf x0 x1) := Nat.le_of_ble_eq_true rfl
theorem vpatld x0 x1 x2 : Statement (.vpatld x0 x1 x2) := Nat.le_of_ble_eq_true rfl
theorem vpatsw x0 : Statement (.vpatsw x0) := Nat.le_of_ble_eq_true rfl
theorem vradd x0 : Statement (.vradd x0) := Nat.le_of_ble_eq_true rfl
theorem vraddArith x0 x1 : Statement (.vraddArith x0 x1) := Nat.le_of_ble_eq_true rfl
theorem vrmax x0 : Statement (.vrmax x0) := Nat.le_of_ble_eq_true rfl
theorem vrmin x0 : Statement (.vrmin x0) := Nat.le_of_ble_eq_true rfl
theorem vbcast x0 x1 x2 : Statement (.vbcast x0 x1 x2) := Nat.le_of_ble_eq_true rfl
theorem vext x0 x1 x2 x3 x4 x5 : Statement (.vext x0 x1 x2 x3 x4 x5) := Nat.le_of_ble_eq_true rfl
theorem vidx x0 x1 x2 x3 x4 : Statement (.vidx x0 x1 x2 x3 x4) := Nat.le_of_ble_eq_true rfl
theorem vld x0 x1 : Statement (.vld x0 x1) := Nat.le_of_ble_eq_true rfl
theorem vst x0 x1 : Statement (.vst x0 x1) := Nat.le_of_ble_eq_true rfl
theorem vlds x0 x1 : Statement (.vlds x0 x1) := Nat.le_of_ble_eq_true rfl
theorem vsts x0 x1 : Statement (.vsts x0 x1) := Nat.le_of_ble_eq_true rfl
theorem vgath x0 x1 : Statement (.vgath x0 x1) := Nat.le_of_ble_eq_true rfl
theorem vscat x0 x1 : Statement (.vscat x0 x1) := Nat.le_of_ble_eq_true rfl
theorem vexp x0 : Statement (.vexp x0) := Nat.le_of_ble_eq_true rfl
theorem vexpAccurate x0 x1 : Statement (.vexpAccurate x0 x1) := Nat.le_of_ble_eq_true rfl
theorem vlog x0 : Statement (.vlog x0) := Nat.le_of_ble_eq_true rfl
theorem vlogAccurate x0 x1 : Statement (.vlogAccurate x0 x1) := Nat.le_of_ble_eq_true rfl
theorem vrcp x0 : Statement (.vrcp x0) := Nat.le_of_ble_eq_true rfl
theorem vrcpAccurate x0 x1 : Statement (.vrcpAccurate x0 x1) := Nat.le_of_ble_eq_true rfl
theorem vrsq x0 : Statement (.vrsq x0) := Nat.le_of_ble_eq_true rfl
theorem vrsqAccurate x0 x1 : Statement (.vrsqAccurate x0 x1) := Nat.le_of_ble_eq_true rfl
theorem vsin x0 : Statement (.vsin x0) := Nat.le_of_ble_eq_true rfl
theorem vsinAccurate x0 x1 : Statement (.vsinAccurate x0 x1) := Nat.le_of_ble_eq_true rfl
theorem vcos x0 : Statement (.vcos x0) := Nat.le_of_ble_eq_true rfl
theorem vcosAccurate x0 x1 : Statement (.vcosAccurate x0 x1) := Nat.le_of_ble_eq_true rfl
theorem vtanh x0 : Statement (.vtanh x0) := Nat.le_of_ble_eq_true rfl
theorem vtanhAccurate x0 x1 : Statement (.vtanhAccurate x0 x1) := Nat.le_of_ble_eq_true rfl
theorem vlgst x0 : Statement (.vlgst x0) := Nat.le_of_ble_eq_true rfl
theorem vlgstAccurate x0 x1 : Statement (.vlgstAccurate x0 x1) := Nat.le_of_ble_eq_true rfl
theorem kand x0 x1 x2 x3 : Statement (.kand x0 x1 x2 x3) := Nat.le_of_ble_eq_true rfl
theorem kor x0 x1 x2 x3 : Statement (.kor x0 x1 x2 x3) := Nat.le_of_ble_eq_true rfl
theorem kxor x0 x1 x2 x3 : Statement (.kxor x0 x1 x2 x3) := Nat.le_of_ble_eq_true rfl
theorem knot x0 x1 x2 : Statement (.knot x0 x1 x2) := Nat.le_of_ble_eq_true rfl
theorem kset x0 x1 x2 : Statement (.kset x0 x1 x2) := Nat.le_of_ble_eq_true rfl
theorem vmov x0 : Statement (.vmov x0) := Nat.le_of_ble_eq_true rfl
theorem mnop x0 : Statement (.mnop x0) := Nat.le_of_ble_eq_true rfl
theorem mcall x0 x1 : Statement (.mcall x0 x1) := Nat.le_of_ble_eq_true rfl
theorem msetp x0 x1 x2 x3 : Statement (.msetp x0 x1 x2 x3) := Nat.le_of_ble_eq_true rfl
theorem mlatch x0 x1 x2 x3 x4 x5 : Statement (.mlatch x0 x1 x2 x3 x4 x5) := Nat.le_of_ble_eq_true rfl
theorem maccz x0 x1 : Statement (.maccz x0 x1) := Nat.le_of_ble_eq_true rfl
theorem mretire x0 x1 x2 x3 x4 x5 : Statement (.mretire x0 x1 x2 x3 x4 x5) := Nat.le_of_ble_eq_true rfl
theorem mupld x0 x1 x2 x3 x4 : Statement (.mupld x0 x1 x2 x3 x4) := Nat.le_of_ble_eq_true rfl
theorem mfmt x0 x1 x2 x3 x4 x5 : Statement (.mfmt x0 x1 x2 x3 x4 x5) := Nat.le_of_ble_eq_true rfl
theorem mwait x0 : Statement (.mwait x0) := Nat.le_of_ble_eq_true rfl
theorem rtload x0 x1 x2 x3 : Statement (.rtload x0 x1 x2 x3) := Nat.le_of_ble_eq_true rfl
theorem rgrid x0 x1 x2 x3 x4 x5 : Statement (.rgrid x0 x1 x2 x3 x4 x5) := Nat.le_of_ble_eq_true rfl
theorem rgridOff x0 : Statement (.rgridOff x0) := Nat.le_of_ble_eq_true rfl
theorem rmode x0 x1 x2 x3 x4 x5 x6 x7 : Statement (.rmode x0 x1 x2 x3 x4 x5 x6 x7) := Nat.le_of_ble_eq_true rfl
theorem rstep x0 x1 : Statement (.rstep x0 x1) := Nat.le_of_ble_eq_true rfl
theorem rload x0 x1 x2 x3 x4 : Statement (.rload x0 x1 x2 x3 x4) := Nat.le_of_ble_eq_true rfl
theorem rstore x0 x1 x2 x3 x4 : Statement (.rstore x0 x1 x2 x3 x4) := Nat.le_of_ble_eq_true rfl
theorem rhalox x0 x1 x2 : Statement (.rhalox x0 x1 x2) := Nat.le_of_ble_eq_true rfl
theorem rhaloi x0 x1 x2 : Statement (.rhaloi x0 x1 x2) := Nat.le_of_ble_eq_true rfl
theorem rcensus x0 x1 : Statement (.rcensus x0 x1) := Nat.le_of_ble_eq_true rfl
theorem cnop x0 : Statement (.cnop x0) := Nat.le_of_ble_eq_true rfl
theorem copy x0 x1 x2 x3 x4 x5 : Statement (.copy x0 x1 x2 x3 x4 x5) := Nat.le_of_ble_eq_true rfl
theorem copyo x0 x1 x2 x3 x4 x5 : Statement (.copyo x0 x1 x2 x3 x4 x5) := Nat.le_of_ble_eq_true rfl
theorem gather x0 x1 x2 x3 x4 x5 : Statement (.gather x0 x1 x2 x3 x4 x5) := Nat.le_of_ble_eq_true rfl
theorem scattr x0 x1 x2 x3 x4 x5 : Statement (.scattr x0 x1 x2 x3 x4 x5) := Nat.le_of_ble_eq_true rfl
theorem fillh x0 x1 x2 x3 : Statement (.fillh x0 x1 x2 x3) := Nat.le_of_ble_eq_true rfl
theorem advp x0 x1 : Statement (.advp x0 x1) := Nat.le_of_ble_eq_true rfl
theorem advc x0 x1 : Statement (.advc x0 x1) := Nat.le_of_ble_eq_true rfl
theorem flip x0 x1 : Statement (.flip x0 x1) := Nat.le_of_ble_eq_true rfl
theorem ringdef x0 x1 x2 x3 x4 : Statement (.ringdef x0 x1 x2 x3 x4) := Nat.le_of_ble_eq_true rfl
theorem harm x0 x1 x2 : Statement (.harm x0 x1 x2) := Nat.le_of_ble_eq_true rfl
theorem harmOff x0 x1 : Statement (.harmOff x0 x1) := Nat.le_of_ble_eq_true rfl
theorem send x0 x1 x2 x3 x4 : Statement (.send x0 x1 x2 x3 x4) := Nat.le_of_ble_eq_true rfl
theorem sacc x0 x1 x2 x3 x4 : Statement (.sacc x0 x1 x2 x3 x4) := Nat.le_of_ble_eq_true rfl
theorem coll x0 x1 x2 x3 : Statement (.coll x0 x1 x2 x3) := Nat.le_of_ble_eq_true rfl
theorem hpois x0 x1 x2 : Statement (.hpois x0 x1 x2) := Nat.le_of_ble_eq_true rfl
theorem tilef x0 x1 x2 x3 x4 x5 x6 : Statement (.tilef x0 x1 x2 x3 x4 x5 x6) := Nat.le_of_ble_eq_true rfl
theorem upass x0 : Statement (.upass x0) := Nat.le_of_ble_eq_true rfl
theorem ulatch x0 : Statement (.ulatch x0) := Nat.le_of_ble_eq_true rfl
theorem ustep x0 : Statement (.ustep x0) := Nat.le_of_ble_eq_true rfl
theorem uloop x0 x1 x2 : Statement (.uloop x0 x1 x2) := Nat.le_of_ble_eq_true rfl
theorem uacc x0 x1 : Statement (.uacc x0 x1) := Nat.le_of_ble_eq_true rfl
theorem ufmt x0 x1 x2 : Statement (.ufmt x0 x1 x2) := Nat.le_of_ble_eq_true rfl
theorem ufetch x0 x1 x2 : Statement (.ufetch x0 x1 x2) := Nat.le_of_ble_eq_true rfl
theorem uwait x0 : Statement (.uwait x0) := Nat.le_of_ble_eq_true rfl
theorem urowp x0 : Statement (.urowp x0) := Nat.le_of_ble_eq_true rfl
theorem uend : Statement .uend := Nat.le_of_ble_eq_true rfl
theorem nop x0 : Statement (.nop x0) := Nat.le_of_ble_eq_true rfl
theorem launch x0 x1 x2 x3 x4 : Statement (.launch x0 x1 x2 x3 x4) := Nat.le_of_ble_eq_true rfl
theorem wait x0 x1 x2 x3 x4 x5 x6 x7 : Statement (.wait x0 x1 x2 x3 x4 x5 x6 x7) := Nat.le_of_ble_eq_true rfl
theorem signal x0 x1 x2 x3 : Statement (.signal x0 x1 x2 x3) := Nat.le_of_ble_eq_true rfl
theorem xfer x0 x1 x2 x3 : Statement (.xfer x0 x1 x2 x3) := Nat.le_of_ble_eq_true rfl
theorem loft x0 x1 x2 x3 x4 x5 : Statement (.loft x0 x1 x2 x3 x4 x5) := Nat.le_of_ble_eq_true rfl
theorem loftRel x0 x1 x2 : Statement (.loftRel x0 x1 x2) := Nat.le_of_ble_eq_true rfl
theorem joinpt x0 : Statement (.joinpt x0) := Nat.le_of_ble_eq_true rfl
theorem goto x0 x1 : Statement (.goto x0 x1) := Nat.le_of_ble_eq_true rfl
theorem endStep x0 : Statement (.endStep x0) := Nat.le_of_ble_eq_true rfl
theorem start x0 x1 : Statement (.start x0 x1) := Nat.le_of_ble_eq_true rfl
theorem join x0 x1 x2 : Statement (.join x0 x1 x2) := Nat.le_of_ble_eq_true rfl
theorem park x0 : Statement (.park x0) := Nat.le_of_ble_eq_true rfl
theorem parkCut x0 : Statement (.parkCut x0) := Nat.le_of_ble_eq_true rfl
theorem resume x0 : Statement (.resume x0) := Nat.le_of_ble_eq_true rfl
theorem kill x0 : Statement (.kill x0) := Nat.le_of_ble_eq_true rfl
theorem gangJoin x0 x1 : Statement (.gangJoin x0 x1) := Nat.le_of_ble_eq_true rfl
theorem gangLeave x0 : Statement (.gangLeave x0) := Nat.le_of_ble_eq_true rfl
theorem gangStop x0 : Statement (.gangStop x0) := Nat.le_of_ble_eq_true rfl
theorem gangGo x0 : Statement (.gangGo x0) := Nat.le_of_ble_eq_true rfl
theorem home x0 : Statement (.home x0) := Nat.le_of_ble_eq_true rfl
theorem adopt x0 : Statement (.adopt x0) := Nat.le_of_ble_eq_true rfl
theorem stewardRegister x0 : Statement (.stewardRegister x0) := Nat.le_of_ble_eq_true rfl
theorem orphan x0 : Statement (.orphan x0) := Nat.le_of_ble_eq_true rfl
theorem stewardUnregister x0 : Statement (.stewardUnregister x0) := Nat.le_of_ble_eq_true rfl
theorem ack x0 x1 x2 x3 : Statement (.ack x0 x1 x2 x3) := Nat.le_of_ble_eq_true rfl
theorem query x0 x1 : Statement (.query x0 x1) := Nat.le_of_ble_eq_true rfl
theorem unassignedPortOperation x0 : Statement (.unassignedPortOperation x0) := Nat.le_of_ble_eq_true rfl
theorem fileRead x0 x1 x2 x3 : Statement (.fileRead x0 x1 x2 x3) := Nat.le_of_ble_eq_true rfl
theorem fileWrite x0 x1 x2 x3 : Statement (.fileWrite x0 x1 x2 x3) := Nat.le_of_ble_eq_true rfl
theorem fileFlush x0 x1 x2 : Statement (.fileFlush x0 x1 x2) := Nat.le_of_ble_eq_true rfl
theorem decodeCall x0 x1 x2 x3 x4 x5 : Statement (.decodeCall x0 x1 x2 x3 x4 x5) := Nat.le_of_ble_eq_true rfl
theorem allocCall x0 x1 x2 : Statement (.allocCall x0 x1 x2) := Nat.le_of_ble_eq_true rfl
theorem allocFree x0 x1 : Statement (.allocFree x0 x1) := Nat.le_of_ble_eq_true rfl
theorem timeCall x0 : Statement (.timeCall x0) := Nat.le_of_ble_eq_true rfl
theorem printCall x0 x1 x2 x3 : Statement (.printCall x0 x1 x2 x3) := Nat.le_of_ble_eq_true rfl
theorem notifyCall x0 x1 x2 : Statement (.notifyCall x0 x1 x2) := Nat.le_of_ble_eq_true rfl
theorem statusCall x0 x1 x2 : Statement (.statusCall x0 x1 x2) := Nat.le_of_ble_eq_true rfl
theorem bundleIssue x0 : Statement (.bundleIssue x0) := Nat.le_of_ble_eq_true rfl
theorem timingRestart x0 : Statement (.timingRestart x0) := Nat.le_of_ble_eq_true rfl
theorem resultArrival x0 : Statement (.resultArrival x0) := Nat.le_of_ble_eq_true rfl
theorem trapDelivery x0 : Statement (.trapDelivery x0) := Nat.le_of_ble_eq_true rfl
theorem trapRecordWrite x0 : Statement (.trapRecordWrite x0) := Nat.le_of_ble_eq_true rfl
theorem containment x0 x1 : Statement (.containment x0 x1) := Nat.le_of_ble_eq_true rfl
theorem containmentWaitTimeout x0 : Statement (.containmentWaitTimeout x0) := Nat.le_of_ble_eq_true rfl
theorem hwaitRelease x0 : Statement (.hwaitRelease x0) := Nat.le_of_ble_eq_true rfl
theorem barrierRelease x0 x1 : Statement (.barrierRelease x0 x1) := Nat.le_of_ble_eq_true rfl
theorem waitvPoll x0 : Statement (.waitvPoll x0) := Nat.le_of_ble_eq_true rfl
theorem drainHoldEnd x0 : Statement (.drainHoldEnd x0) := Nat.le_of_ble_eq_true rfl
theorem mwaitRelease x0 : Statement (.mwaitRelease x0) := Nat.le_of_ble_eq_true rfl
theorem sprintAnswer x0 : Statement (.sprintAnswer x0) := Nat.le_of_ble_eq_true rfl
theorem quantumCommit x0 : Statement (.quantumCommit x0) := Nat.le_of_ble_eq_true rfl
theorem loftRefresh x0 : Statement (.loftRefresh x0) := Nat.le_of_ble_eq_true rfl
theorem matrixOperationStart x0 : Statement (.matrixOperationStart x0) := Nat.le_of_ble_eq_true rfl
theorem latchLoadComplete x0 x1 : Statement (.latchLoadComplete x0 x1) := Nat.le_of_ble_eq_true rfl
theorem maxredExpiry x0 : Statement (.maxredExpiry x0) := Nat.le_of_ble_eq_true rfl
theorem copyCommandStart x0 x1 : Statement (.copyCommandStart x0 x1) := Nat.le_of_ble_eq_true rfl
theorem fillComplete x0 x1 : Statement (.fillComplete x0 x1) := Nat.le_of_ble_eq_true rfl
theorem handleDrainComplete x0 x1 : Statement (.handleDrainComplete x0 x1) := Nat.le_of_ble_eq_true rfl
theorem sendDelivery x0 x1 : Statement (.sendDelivery x0 x1) := Nat.le_of_ble_eq_true rfl
theorem saccRound x0 : Statement (.saccRound x0) := Nat.le_of_ble_eq_true rfl
theorem collSegmentComplete x0 x1 : Statement (.collSegmentComplete x0 x1) := Nat.le_of_ble_eq_true rfl
theorem chetiaFlit x0 x1 x2 : Statement (.chetiaFlit x0 x1 x2) := Nat.le_of_ble_eq_true rfl
theorem hostHbmAccess x0 x1 : Statement (.hostHbmAccess x0 x1) := Nat.le_of_ble_eq_true rfl
theorem inval x0 x1 : Statement (.inval x0 x1) := Nat.le_of_ble_eq_true rfl
theorem invalidationComplete : Statement .invalidationComplete := Nat.le_of_ble_eq_true rfl
theorem statRecordDrain x0 : Statement (.statRecordDrain x0) := Nat.le_of_ble_eq_true rfl
theorem statisticsWindow x0 : Statement (.statisticsWindow x0) := Nat.le_of_ble_eq_true rfl
theorem sliceEnd : Statement .sliceEnd := Nat.le_of_ble_eq_true rfl
theorem saveComplete x0 : Statement (.saveComplete x0) := Nat.le_of_ble_eq_true rfl
theorem launchComplete x0 : Statement (.launchComplete x0) := Nat.le_of_ble_eq_true rfl
theorem cutReached x0 : Statement (.cutReached x0) := Nat.le_of_ble_eq_true rfl
theorem cutTimeout x0 : Statement (.cutTimeout x0) := Nat.le_of_ble_eq_true rfl
theorem leaseRequestDecision x0 : Statement (.leaseRequestDecision x0) := Nat.le_of_ble_eq_true rfl
theorem leaseExpiry x0 : Statement (.leaseExpiry x0) := Nat.le_of_ble_eq_true rfl
theorem meltSample x0 x1 : Statement (.meltSample x0 x1) := Nat.le_of_ble_eq_true rfl
theorem clockStep x0 : Statement (.clockStep x0) := Nat.le_of_ble_eq_true rfl
theorem droopSample x0 x1 : Statement (.droopSample x0 x1) := Nat.le_of_ble_eq_true rfl
theorem pressureDecay x0 : Statement (.pressureDecay x0) := Nat.le_of_ble_eq_true rfl
theorem sensitivityWindow x0 : Statement (.sensitivityWindow x0) := Nat.le_of_ble_eq_true rfl
theorem temperatureSample x0 x1 : Statement (.temperatureSample x0 x1) := Nat.le_of_ble_eq_true rfl
theorem slackWindow x0 : Statement (.slackWindow x0) := Nat.le_of_ble_eq_true rfl
theorem correctedMemoryError x0 : Statement (.correctedMemoryError x0) := Nat.le_of_ble_eq_true rfl
theorem hostLeaseExpiry : Statement .hostLeaseExpiry := Nat.le_of_ble_eq_true rfl
theorem renew x0 : Statement (.renew x0) := Nat.le_of_ble_eq_true rfl
theorem stewardLeaseRenew : Statement .stewardLeaseRenew := Nat.le_of_ble_eq_true rfl
theorem stewardLeaseExpiry : Statement .stewardLeaseExpiry := Nat.le_of_ble_eq_true rfl
theorem stewardLeaseTakeover x0 : Statement (.stewardLeaseTakeover x0) := Nat.le_of_ble_eq_true rfl
theorem fitterJob x0 : Statement (.fitterJob x0) := Nat.le_of_ble_eq_true rfl
theorem fitBudgetExpiry x0 : Statement (.fitBudgetExpiry x0) := Nat.le_of_ble_eq_true rfl
theorem waitPoll x0 : Statement (.waitPoll x0) := Nat.le_of_ble_eq_true rfl
theorem stepCompletion x0 x1 : Statement (.stepCompletion x0 x1) := Nat.le_of_ble_eq_true rfl
theorem wicketAccept : Statement .wicketAccept := Nat.le_of_ble_eq_true rfl
theorem clerkSwitch x0 x1 x2 : Statement (.clerkSwitch x0 x1 x2) := Nat.le_of_ble_eq_true rfl
theorem clerkSwitchForced x0 x1 x2 : Statement (.clerkSwitchForced x0 x1 x2) := Nat.le_of_ble_eq_true rfl
theorem clerkSwitchTimeout x0 : Statement (.clerkSwitchTimeout x0) := Nat.le_of_ble_eq_true rfl
theorem pageCacheReadComplete x0 x1 : Statement (.pageCacheReadComplete x0 x1) := Nat.le_of_ble_eq_true rfl
theorem decodeJobStart : Statement .decodeJobStart := Nat.le_of_ble_eq_true rfl
theorem decodeTile x0 x1 : Statement (.decodeTile x0 x1) := Nat.le_of_ble_eq_true rfl
theorem decodeJobEnd x0 x1 : Statement (.decodeJobEnd x0 x1) := Nat.le_of_ble_eq_true rfl
theorem packageReset : Statement .packageReset := Nat.le_of_ble_eq_true rfl
theorem railFault : Statement .railFault := Nat.le_of_ble_eq_true rfl
theorem boot x0 : Statement (.boot x0) := Nat.le_of_ble_eq_true rfl
theorem hotReset x0 : Statement (.hotReset x0) := Nat.le_of_ble_eq_true rfl
theorem attestGo x0 : Statement (.attestGo x0) := Nat.le_of_ble_eq_true rfl
theorem attestReportComplete : Statement .attestReportComplete := Nat.le_of_ble_eq_true rfl
theorem flush x0 : Statement (.flush x0) := Nat.le_of_ble_eq_true rfl
theorem fitkid x0 x1 : Statement (.fitkid x0 x1) := Nat.le_of_ble_eq_true rfl
theorem registerWrite x0 x1 x2 : Statement (.registerWrite x0 x1 x2) := Nat.le_of_ble_eq_true rfl
theorem fittingComplete x0 : Statement (.fittingComplete x0) := Nat.le_of_ble_eq_true rfl
theorem matrixOperationComplete x0 : Statement (.matrixOperationComplete x0) := Nat.le_of_ble_eq_true rfl
theorem linkPeerLost x0 : Statement (.linkPeerLost x0) := Nat.le_of_ble_eq_true rfl
theorem processMonitorSample x0 x1 : Statement (.processMonitorSample x0 x1) := Nat.le_of_ble_eq_true rfl

end Sys2Proof.Laws.Encodings
end

