-- ==== Sys2Proof/Tests/Slice0.lean ====
section
/-! SUPPORT. Small tests: ill-formed terms that the check refuses, words written out from the spec's encodings, states
that meet the hypotheses of the statements, and single steps whose results the spec prints. -/

namespace Sys2Proof.Tests

set_option Elab.async false

open Sys2Proof Sys2Proof.Machine

/-! ### Small states -/

/-- The package after reset with core 0 as given. -/
def onCore (k : Core) : State := { State.reset with cores := State.reset.cores.set 0 k }

/-- A running core at pc 0x1000, by default with handle 1 FREE for its engines at bench 0x1000, and handle 2 FULL for the core. -/
def core0 : Core := { Core.blank with
  status := .running, pc := 0x1000
  handles := (Core.blank.handles.set 1 { base := 0x1000, size := 256 }).set 2 { base := 0x2000, size := 256, st := 2, o := 0 } }

/-- The same core with s1 = `x` and s2 = `y`. -/
def core12 (x y : DWord) : Core := { core0 with s := (core0.s.set 1 x).set 2 y }


/-- Page tables under which address space 0 maps the low 1 GiB onto itself (R218, R219). -/
def tables : Mem := [(0x2000, 0x3001), (0x3000, 0x4001), (0x4000, 0x000F), (0x8000, 0x2001)].foldl
  (fun (m : Mem) (e : Nat × Nat) => m.write e.1 (leBytes 8 e.2)) []

/-- A hub that is up, with port A active, the tables in place, and errand 1 as given. -/
def onHub (e : Errand) (h : Hub → Hub) : State := { State.reset with
  now := 1000000000, hbm := tables
  hub := h { State.reset.hub with ready := true, active := some .a, leaseEnd := 1000000001, steward := { epoch := 1, expiry := 1000000001 }
                                  bar0 := [(0x2000, 0x8001), (0x8008, 0x10)], errands := State.reset.hub.errands.set 1 e } }

/-- An errand that runs. -/
def running : Errand := { state := .running, token := 7, prog := 0x100000, save := 0x40000, savecl := 64 }

/-- `core0` in a launch of errand 1. -/
def core1 : Core := { core0 with launch := some { errand := 1, size := 8 } }

/-- A field of the state that an instruction answers. -/
def after {α : Type} (o : Host.Outcome State Fault Refusal) (f : Core → α) : Option α :=
  match o with
  | .next t => some (f (t.core 0))
  | _ => none

/-! ### Ill-formed terms, one for each check -/

theorem test_wf_sbf_out_of_its_file : (Instr.add ⟨0, 1, 2, 6, 1⟩).wf = false ∧ (Instr.add ⟨0, 1, 2, 5, 1⟩).wf = true := by decide
theorem test_wf_sbf_unassigned : (Instr.max ⟨0, 1, 2, 0, 6⟩).wf = false := by decide
theorem test_wf_loop_counter : (Instr.loop 0 6 1).wf = false ∧ (Instr.loopr 0 5 1).wf = true := by decide
theorem test_wf_hwait_ring : (Instr.hwait 0 1 0 8).wf = false ∧ (Instr.hwait 0 0 0 63).wf = true := by decide
theorem test_wf_waitv : (Instr.waitv 0 1 2 6 2).wf = false ∧ (Instr.waitv 0 1 2 0 1).wf = false := by decide
theorem test_wf_control_register : (Instr.getr 0 1 32).wf = false ∧ (Instr.setr 0 1 32).wf = false := by decide
theorem test_wf_setn_setb : (Instr.setn 0 6 1).wf = false ∧ (Instr.setb 0 8 1).wf = false ∧ (Instr.setq 0 8 1).wf = false := by decide
theorem test_wf_drain_scope_and_wait : (Instr.drain 0 1 1).wf = false := by decide
theorem test_wf_invoke_sprint : (Instr.invoke 0 1 0 1).wf = false ∧ (Instr.sprint 0 1 2 0).wf = false := by decide
theorem test_wf_statpop : (Instr.statpop 0 3 3).wf = false ∧ (Instr.statpop 0 0 0).wf = true := by decide
theorem test_wf_fmtset : (Instr.fmtset 0 1 63 1).wf = false ∧ (Instr.fmtset 0 1 63 0).wf = true := by decide
theorem test_wf_arith_rounding : (Instr.vaddArith ⟨0, 3, 1, 2, 3, 2, 0⟩ ⟨1, 0⟩).wf = false
    ∧ (Instr.vaddArith ⟨0, 0, 1, 2, 3, 2, 0⟩ ⟨5, 0⟩).wf = false := by decide
theorem test_wf_types : (Instr.vabs ⟨0, 6, 1, 2, 2, 0⟩).wf = false ∧ (Instr.vshl ⟨0, 0, 1, 2, 3, 2, 0⟩).wf = false
    ∧ (Instr.vsar ⟨0, 6, 1, 2, 3, 2, 0⟩).wf = false ∧ (Instr.vgath ⟨0, 1, 1, 2, 3, 2, 0⟩ ⟨0, 0⟩).wf = false := by decide
theorem test_wf_compares : (Instr.vceq ⟨0, 0, 0, 1, 2, 2, 0⟩).wf = false ∧ (Instr.vcun ⟨0, 3, 1, 1, 2, 2, 0⟩).wf = false := by decide
theorem test_wf_conversions : (Instr.vcvt ⟨0, 1, 2, 2, 0⟩ ⟨0, 0, 10, 0⟩).wf = false ∧ (Instr.vcvtb ⟨0, 1, 2, 3⟩ ⟨0, 0, 0, 1⟩).wf = false
    ∧ (Instr.vpack ⟨0, 5, 1, 2, 2, 0⟩ 5 0).wf = false ∧ (Instr.vunpk ⟨0, 3, 1, 2, 2, 0⟩ 3).wf = false := by decide
theorem test_wf_lanes : (Instr.vbcast ⟨0, 0, 1, 2, 2, 0⟩ 0 32).wf = false ∧ (Instr.vext 0 0 1 2 2 32).wf = false
    ∧ (Instr.vbcast ⟨0, 0, 1, 2, 2, 0⟩ 1 1).wf = false := by decide
theorem test_wf_special : (Instr.vexp ⟨0, 3, 1, 2, 2, 0⟩).wf = false ∧ (Instr.vexpAccurate ⟨0, 0, 1, 2, 2, 0⟩ 7).wf = false
    ∧ (Instr.vlogAccurate ⟨0, 0, 1, 2, 2, 0⟩ 33).wf = false := by decide
theorem test_wf_predicates : (Instr.kand 0 0 1 2).wf = false ∧ (Instr.knot 0 0 1).wf = false ∧ (Instr.kset 0 0 1).wf = false := by decide
theorem test_wf_matrix : (Instr.mupld 0 0 1 1 2047).wf = false ∧ (Instr.mfmt 0 1 2 0 0 0).wf = false ∧ (Instr.mfmt 0 1 1 10 0 0).wf = false
    ∧ (Instr.rtload 0 1 1 63).wf = false := by decide
theorem test_wf_rule : (Instr.rgrid 0 7 15 2047 1 0).wf = false ∧ (Instr.rmode 0 0 0 0 3 0 0 0).wf = false
    ∧ (Instr.rmode 0 1 0 0 0 0 0 0).wf = false := by decide
theorem test_wf_copy : (Instr.copy 0 1 8 1 0 0).wf = false ∧ (Instr.ringdef 0 63 1 0 0).wf = false ∧ (Instr.sacc 0 1 2 3 6).wf = false
    ∧ (Instr.tilef 0 0 1 2 3 0 1).wf = false ∧ (Instr.send 0 1 8 1 2).wf = false := by decide
theorem test_wf_micro : (Instr.ufmt 3 0 0).wf = false ∧ (Instr.ufmt 0 1 0).wf = false ∧ (Instr.ulatch ⟨0, 0, 0, 0, 1, 0, 0, 0⟩).wf = false
    ∧ (Instr.ustep ⟨0, 0, 0, 0, 0, 0, 0, 1, 0, 0, 0, 0⟩).wf = false ∧ (Instr.ustep ⟨0, 0, 0, 0, 0, 0, 0, 0, 0, 0, 1, 0⟩).wf = false := by decide
theorem test_wf_steps : (Instr.wait ⟨0, 0⟩ 0 4 0 0 0 0 0).wf = false ∧ (Instr.wait ⟨0, 0⟩ 1 0 0 0 8 0 0).wf = false
    ∧ (Instr.launch ⟨0, 0⟩ 0 0 32 0).wf = false ∧ (Instr.signal ⟨0, 0⟩ 0 4 0).wf = false ∧ (Instr.xfer ⟨0, 0⟩ 0 0 0).wf = false
    ∧ (Instr.loft ⟨0, 0⟩ 0 384 0 0 1).wf = false ∧ (Instr.loft ⟨0, 0⟩ 0 0 0 0x100000 1).wf = false ∧ (Instr.loftRel ⟨0, 0⟩ 0 384).wf = false := by
  decide
theorem test_wf_events : (Instr.meltSample 0 1001).wf = false ∧ (Instr.stewardLeaseTakeover 5).wf = false ∧ (Instr.clerkSwitch .a 0 1).wf = false
    ∧ (Instr.containment 0 5).wf = false ∧ (Instr.join ⟨.a, 0, 0, 0⟩ 4 0).wf = false := by decide
theorem test_wf_mark_and_width : (Instr.lnop 3).wf = false ∧ (Instr.vadd ⟨0, 0, 1, 2, 3, 3, 0⟩).wf = false ∧ (Instr.vmov ⟨3, 0, 1, 2, 2, 0⟩).wf = false := by
  decide

/-! ### Words written out from the spec's encodings -/

/-- The printed words of the spec (R31's chapters), as the obligation lists them. -/
theorem test_decode_scalar_words : decodeSlot .s 0x0B820028 none = .ok (.li 0 1 40) ∧ decodeSlot .s 0x0D03109B none = .ok (.stsx 0 1 17 1 3 3)
    ∧ decodeSlot .s 0x8B860000 (some 0x10000000) = .ok (.liExt 0 3 0x10000000) ∧ decodeSlot .s 0x0F41810B none = .ok (.invoke 0 24 4 11) := by decide
theorem test_decode_control_words : decodeSlot .l 0x07800000 none = .ok (.halt 0) ∧ decodeSlot .l 0x01840007 none = .ok (.brnz 0 1 7) := by decide
/-- R45: a reserved bit that is set makes the word no instruction. -/
theorem test_decode_reserved_bit : decodeSlot .l 0x07800001 none = .reserved ∧ decodeSlot .s 0x00000001 none = .reserved := by decide
theorem test_decode_vector_words : decodeSlot .v0 0x00B08850 none = .ok (.vadd ⟨0, 3, 1, 2, 2, 2, 0⟩)
    ∧ decodeSlot .v1 0x01B20848 none = .ok (.vmul ⟨0, 3, 4, 2, 2, 1, 0⟩)
    ∧ decodeSlot .v0 0x91809010 (some 0x00800000) = .ok (.vld ⟨0, 0, 1, 4, 2, 0⟩ ⟨128, 0⟩) := by decide
theorem test_decode_vcvt_word : decodeSlot .v0 0x8B010410 (some 0x00000408) = .ok (.vcvt ⟨0, 2, 1, 2, 0⟩ ⟨0, 1, 0, 8⟩) := by decide
theorem test_decode_matrix_words : decodeSlot .m 0x01048000 none = .ok (.msetp 0 0 9 0) ∧ decodeSlot .m 0x02A52000 none = .ok (.mretire 0 2 10 0 1 0) := by
  decide
theorem test_decode_copy_words : decodeSlot .c0 0x008A6000 none = .ok (.copy 0 0 10 12 0 0) ∧ decodeSlot .c1 0x00C00800 none = .ok (.copy 0 1 0 1 0 0) := by
  decide
theorem test_decode_micro_words : decodeMicro 0x9000000000000000 = .ok .uend ∧ decodeMicro 0x5400000000000000 = .ok (.ufmt 1 0 0)
    ∧ decodeMicro 0x10C001F800000000 = .ok (.ulatch ⟨0, 1, 1, 0, 0, 0, 0, 63⟩)
    ∧ decodeMicro 0x2000203FFE000000 = .ok (.ustep ⟨0, 0, 0, 0, 0, 2, 0, 0, 63, 127, 0, 0⟩) ∧ decodeMicro 0 = .ok (.upass 0) ∧ decodeMicro (0xA * 2 ^ 60) = .unassigned := by decide
/-- R324: bytes 07 01 00 00 | 05 00 00 00: GOTO 5 with BAR; SIGNAL with IRQ of 9 at 0x1000; JOINPT; a nonzero reserved bit is refused. -/
theorem test_decode_steps : decodeStep 3 0x0000000500000107 = .ok (.goto ⟨3, 1⟩ 5) ∧ decodeStep 0 (0x0203 + 2 ^ 64 * 0x1000 + 2 ^ 128 * 9) = .ok (.signal ⟨0, 0⟩ 1 0x1000 9)
    ∧ decodeStep 7 0x06 = .ok (.joinpt ⟨7, 0⟩) ∧ decodeStep 0 0x0206 = .reserved ∧ decodeStep 0 0x09 = .unassigned := by decide
/-- R57, R317: a RESUME of record 4 by CPU 2 with token 9, and an OP with no meaning. -/
theorem test_decode_port_write : decodePortWrite .a 4 (2 * 2 ^ 16 + 5 + 2 ^ 64 * 9) = .resume ⟨.a, 4, 2, 9⟩
    ∧ decodePortWrite .b 4 (15 + 2 ^ 64 * 9) = .unassignedPortOperation ⟨.b, 4, 0, 9⟩ := by decide +kernel
theorem test_encode_words : encodeS (.li 0 1 40) = some 0x0B820028 ∧ encodeL (.halt 0) = some 0x07800000 ∧ encodeM (.mcall 0 1) = some 0x00808000
    ∧ encodeC (.copy 0 0 10 12 0 0) = some 0x008A6000 ∧ encodeU .uend = some 0x9000000000000000 ∧ encodeE (.joinpt ⟨7, 0⟩) = some 0x06 := by decide

/-! ### Hypotheses of the statements about the scalar and control slots, met together -/

/-- CYCLE near its end: one cycle more is no wrap, and latency 20 has room further down (ScalarIntegerResults, ScalarProductsAndQuotients,
ScalarBitResults, ScalarMovesAndSets, PredicateResults). -/
theorem test_witness_room : (onCore { core0 with ctl := { core0.ctl with cycle := 0xFFFFFFFFFFFFFFFE } }).roomFor 1
    ∧ (onCore { core0 with ctl := { core0.ctl with cycle := 0xFFFFFFFFFFFFFFEB } }).roomFor 20 := by
  unfold State.roomFor; decide +kernel

/-- The last eight bytes of the bench, and bytes of a FULL handle the core owns (ScalarBenchAccesses). -/
theorem test_witness_bench_access : let s := onCore (core12 0x7FFF8 0x2008)
    s.roomFor 4 ∧ Mem.wf s.me.bench = true
      ∧ (s.me.readS 1 + BitVec.ofInt 64 0).toNat % 8 = 0 ∧ s.me.mayUse (s.me.readS 1 + BitVec.ofInt 64 0).toNat 8
      ∧ s.me.clean (s.me.readS 1 + BitVec.ofInt 64 0).toNat 8
      ∧ (s.me.readS 2 + s.me.readS 0 <<< 3).toNat % 2 ^ 3 = 0 ∧ s.me.mayUse (s.me.readS 2 + s.me.readS 0 <<< 3).toNat (2 ^ 3)
      ∧ s.me.clean (s.me.readS 2 + s.me.readS 0 <<< 3).toNat (2 ^ 3) := by
  unfold State.roomFor Core.mayUse Core.clean; decide +kernel

/-- ScalarMovesAndSets: what GETR reads of a core of rank 2 in a crew of 4 by 2 cores' clusters, under a lease of level 3 that lasts 2 us and a ns. -/
theorem test_getr_live : let k := { core12 0 0 with launch := some { errand := 5, rank := 2, size := 8, sx := 4, sy := 2 }, matrix := { live := 0x81 } }
    let s := (onCore k).updCluster 0 fun y => { y with lease := some { level := 3, ends := 2001 } }
    let got := fun (n : BitVec 6) => after (exec (.getr 0 3 n) s) (·.s[3])
    s.roomFor 1 ∧ s.me.pc.toNat < 2 ^ 57 ∧ got 0x02 = some 16 ∧ got 0x03 = some 2 ∧ got 0x04 = some 0x20408 ∧ got 0x05 = some 5
      ∧ got 0x15 = some 0x3003 ∧ got 0x1A = some 0x281 ∧ got 0x01 = some 0x1000 ∧ got 0x20 = some 0 := by unfold State.roomFor; decide +kernel

/-- ScalarBenchAccesses: the last yard word, whose bank 31 serves another access in this cycle and the next, and the last loft word, of a held bay,
with room for its bank's refresh. -/
theorem test_witness_far_loads : let s := (onCore (core12 0x103FFFF8 0x37FFFFF8)).updCluster 0 fun y => { y with
      bankUses := [{ bank := 31, cycle := 0, requester := 1 }, { bank := 31, cycle := 1, requester := 2 }] }
    let l := { s with dies := s.dies.set 0 { bays := Vector.replicate 384 (some 0) } }
    s.roomFor 14 ∧ Mem.wf (s.cluster s.myCluster).yard = true ∧ (s.me.readS 1).toNat % 8 = 0 ∧ (0x103FFFF8 - 0x10000000) / 64 % 32 = 31
      ∧ after (exec (.lds ⟨0, 3, 1, 0⟩) s) (fun k => k.pend.map fun p => (p.due, p.load)) = some [(14, true)]
      ∧ Mem.wf (l.die l.myDie).loft = true ∧ l.me.theLaunch.errand = 0 ∧ ((l.die l.myDie).bays.toList.getD 383 none) = some 0
      ∧ l.roomFor 1048 := by unfold State.roomFor; decide +kernel

/-- Each clause of ScalarAccessTraps: misaligned; just past the bench; a FILLING handle's bytes; the first loft bytes, stored to. -/
theorem test_witness_scalar_traps : let s := onCore (core12 0x7FFFC 0x80000)
    let t := onCore (core12 0x10F8 0x20000000)
    (scalarAccess s (.lds ⟨0, 3, 1, 0⟩) = some (0x7FFFC, 8, false) ∧ (0x7FFFC : DWord).toNat % 8 ≠ 0)
      ∧ (scalarAccess s (.sts ⟨0, 3, 2, 0⟩) = some (0x80000, 8, true) ∧ ¬((0x80000 : DWord).toNat + 8 ≤ 0x80000))
      ∧ (scalarAccess t (.ldsx 0 3 1 0 0 1 3) = some (0x10F8, 8, false) ∧ 0x10F8 + 8 ≤ 0x80000 ∧ s.me.handles[1].o = 1
        ∧ ¬t.me.mayUse 0x10F8 8)
      ∧ scalarAccess t (.stsx 0 3 2 0 0 0) = some (0x20000000, 1, true) := by
  unfold Core.mayUse; decide +kernel

/-- The last word of the yard, with an empty buffer (ScalarYardStores). -/
theorem test_witness_yard_store : let s := onCore (core12 0x103FFFF8 5)
    scalarAccess s (.sts ⟨0, 2, 1, 0⟩) = some (0x103FFFF8, 8, true) ∧ (0x103FFFF8 : DWord).toNat % 8 = 0 ∧ 0x103FFFF8 + 8 ≤ 0x10400000
      ∧ s.me.quantumEntries + 1 ≤ 256 ∧ s.me.usedEntries + 1 ≤ 256 := by decide +kernel

/-- A declared and an undeclared handle (HandleStatusReads). -/
theorem test_witness_geth : let s := onCore core0
    (s.me.handle 2).size ≠ 0 ∧ s.roomFor 1 ∧ (s.me.handle 63).size = 0 := by unfold State.roomFor; decide +kernel

/-- ControlRegisterWrites: TRAPVEC with 8, a generation count while the Loom runs, and a plain write. -/
theorem test_witness_setr : let s := onCore (core12 8 0x20)
    let t := onCore { core0 with matrix := { running := some { instr := .rstep 0 1 } } }
    s.roomFor 1 ∧ s.me.pend = [] ∧ (s.me.readS 1).toNat % 16 ≠ 0 ∧ (s.me.readS 2).toNat % 16 = 0 ∧ s.me.matrix.ruleBusy = false
      ∧ t.me.matrix.ruleBusy = true ∧ t.me.pend = [] ∧ t.roomFor 1 := by unfold State.roomFor; decide +kernel

/-- SystemOperations: a ring with one record, an empty one, and a TRAP with an address register. -/
theorem test_witness_system : (onCore { core0 with statRing := [(1, 2)] }).me.statRing = (1, 2) :: [] ∧ (onCore core0).me.statRing = []
    ∧ (1 : BitVec 5) ≠ 0 := by decide +kernel

/-- InvokeEntersTheWicket: a block at the end of the bench, reply handle 1, capability 4 granted. -/
theorem test_witness_invoke : let s := { onCore { core12 0x7FFC0 0 with launch := some { errand := 5, asid := 1 } } with
      hub := { State.reset.hub with bar0 := State.reset.hub.bar0.set 0x8028 0x10, errands := State.reset.hub.errands.set 5 { asid := 1 } } }
    (s.me.readS 1).toNat % 64 = 0 ∧ s.me.mayUse (s.me.readS 1).toNat 64 ∧ 64 ≤ (s.me.handle 1).size.toNat ∧ (s.me.handle 1).ring = none
      ∧ (s.me.handle 1).st = 0 ∧ (s.me.handle 1).o = 1 ∧ s.granted s.me.theLaunch.errand 4 = true
      ∧ (s.errand s.me.theLaunch.errand).journal.length < 2 ^ 20 ∧ s.hub.wicket.length < 256 := by
  unfold Core.mayUse; decide +kernel

/-- FormatTableWrites: two images of zeros, for the last two entries (F = 62, C − 1 = 1). -/
theorem test_witness_fmtset : let s := onCore (core12 0x7FFC0 0)
    (s.me.readS 1).toNat % 32 = 0 ∧ s.me.mayUse (s.me.readS 1).toNat (32 * (1 + 1))
      ∧ (∀ j ≤ 1, fmtImageOk (s.me.bench.num ((s.me.readS 1).toNat + 32 * j) 32) = true) := by unfold Core.mayUse; decide +kernel

/-- DirectBranches: taken and not, to a header and to a word that is none; IndirectTransfers and CountedLoops on the same states. -/
theorem test_witness_branches : let s := onCore { core12 0x2000 0x2004 with n := core0.n.set 5 2 }
    s.residualAt s.me s.me.pc = none ∧ branchTaken s (.br 0 4) = some (true, 4) ∧ branchTaken s (.brz 0 1 4) = some (false, 4)
      ∧ branchTaken s (.brge 0 1 3) = some (true, 3) ∧ (s.branchTo 4).toNat % 16 = 0 ∧ (s.branchTo 3).toNat % 16 ≠ 0
      ∧ s.me.theLaunch.residual = none ∧ (s.me.readS 1).toNat % 16 = 0 ∧ (s.me.readS 2).toNat % 16 ≠ 0 ∧ (s.me.readS 2).toNat % 4 = 0
      ∧ (onCore (core12 2 0)).me.theLaunch.residual = none ∧ ((onCore (core12 2 0)).me.readS 1).toNat % 4 ≠ 0
      ∧ s.me.n[0] = 0 ∧ 2 ≤ (s.me.n[5]).toNat ∧ (onCore { core0 with n := core0.n.set 5 1 }).me.n[5] = 1
      ∧ (s.branchTo 0x3FFFC).toNat % 16 = 0 := by decide +kernel

/-- ControlWaits: FULL for the core, FREE, FILLING; a barrier not yet reached, reached, and released; a yard word that equals its register. -/
theorem test_witness_waits : let s := onCore { core12 0x103FFFF8 0 with handles := core0.handles.set 3 { base := 0x3000, size := 64, st := 1 } }
    (s.me.handle 2).st = 2 ∧ (s.me.handle 2).o = 0 ∧ (s.me.handle 1).st = 0 ∧ (s.me.handle 3).st = 1 ∧ (s.me.handle 3).size ≠ 0
      ∧ (s.me.handle 1).size ≠ 0 ∧ (s.me.handle 2).size ≠ 0
      ∧ s.me.released = false ∧ s.me.arrived ≠ some 7 ∧ (onCore { core0 with arrived := some 7 }).me.arrived = some 7
      ∧ (onCore { core0 with released := true }).me.released = true
      ∧ (s.me.readS 1).toNat % 2 ^ 3 = 0 ∧ 0x10000000 ≤ (s.me.readS 1).toNat ∧ (s.me.readS 1).toNat + 2 ^ 3 ≤ 0x10400000
      ∧ leNat (s.yardBytes s.cur ((s.me.readS 1).toNat - 0x10000000) (2 ^ 3)) = (s.me.readS 2).toNat % 2 ^ (8 * 2 ^ 3) := by decide +kernel

/-- HaltAndReturns: an arrival handler, a trap handler after a precise trap, and neither. -/
theorem test_witness_returns : (onCore { core0 with arrCtx := some { ret := 0x40 } }).me.arrCtx = some { ret := 0x40 }
    ∧ (onCore { core0 with trapCtx := some { precise := true, next := 0x50 } }).me.trapCtx = some { precise := true, next := 0x50 }
    ∧ (onCore core0).me.arrCtx = none ∧ (onCore core0).me.trapCtx = none := by decide +kernel

/-! ### Hypotheses of the statements about the vector slots -/

/-- A core whose k1 governs lanes 0 and 31, with room for the longest latency. -/
def coreV (x y : DWord) : Core := { core12 x y with k := core0.k.set 1 0x80000001 }

/-- Types at both ends of their ranges (VectorIntegerArithmetic, VectorFloatArithmetic, VectorReductions, SpecialFunctionResults), the
format codes of VCVT and VCVTB, the lane counts of the reductions, and room (the other vector statements have no further hypothesis). -/
theorem test_witness_vector_types : (onCore core0).roomFor 19 ∧ 3 ≤ (3 : BitVec 3).toNat ∧ 3 ≤ (7 : BitVec 3).toNat ∧ floatType 0 = some Fmt.f32
    ∧ floatType 2 = some Fmt.f16 ∧ laneCount 0 0 = 2 ^ 3 ∧ laneCount 2 5 = 2 ^ 7 ∧ (2 : BitVec 2).toNat ≤ 2
    ∧ (9 : BitVec 5).toNat ≤ 9 ∧ floatFmt 1 = some Fmt.bf16 ∧ (floatFmt 10).isSome = true ∧ (floatFmt 12).isSome = true
    ∧ (2 : BitVec 2) ≠ 3 ∧ (⟨0, 1, 2, 1⟩ : VBlock).d = (⟨0, 1, 2, 1⟩ : VBlock).b ∧ (⟨0, 1, 2, 0⟩ : VBlock).d ≠ (⟨0, 1, 2, 0⟩ : VBlock).b
    ∧ (floatFmt (2 : BitVec 2).toNat).isSome = true ∧ 8 ≤ (8 : BitVec 6).toNat ∧ (32 : BitVec 6).toNat ≤ 32 := by
  unfold State.roomFor; decide +kernel

/-- The special operands of R140 exist: NaN, both infinities, a zero and a negative number as FP32 patterns. -/
theorem test_witness_special_operands : Fmt.f32.read true 0x7FC00000 = .nan ∧ Fmt.f32.read true 0x7F800000 = .inf false
    ∧ Fmt.f32.read true 0xFF800000 = .inf true ∧ (∃ e, Fmt.f32.read true 0x80000000 = .fin true 0 e)
    ∧ ∃ m e, Fmt.f32.read true 0xBF800000 = .fin true m e ∧ m ≠ 0 := by
  refine ⟨by decide, by decide, by decide, ⟨_, rfl⟩, ⟨_, _, rfl, by decide⟩⟩

/-- VectorBenchAccesses: 32 lanes of 4 bytes at the end of the bench under k1, loaded and stored. -/
def vecState : State := onCore (coreV 0x7FF80 4)
def vecAt (j : Nat) : DWord := vecBase vecState 1 ⟨0, 0⟩ + BitVec.ofNat 64 (j * (32 / 8))
theorem test_witness_vector_bench_clean : ∀ j < 32, vecState.active 1 j = true → vecState.me.clean (vecAt j).toNat 4 := by
  unfold Core.clean; decide +kernel
theorem test_witness_vector_bench : vecState.lanesUsable 1 32 4 vecAt ∧ (vecBase vecState 1 ⟨0, 0⟩).toNat % 32 = 0 ∧ vecState.roomFor 4
    ∧ Mem.wf vecState.me.bench = true := by
  unfold State.lanesUsable Core.mayUse State.roomFor; decide +kernel
theorem test_witness_vector_access : (vecAccess (onCore (coreV 0x7FF80 4)) (.vld ⟨0, 0, 3, 1, 2, 1⟩ ⟨0, 0⟩)).isSome = true
    ∧ ((vecAccess (onCore (coreV 0x7FF80 4)) (.vst ⟨0, 0, 3, 1, 2, 1⟩ ⟨0, 0⟩)).map (·.store)) = some true
    ∧ (vecAccess (onCore (coreV 0x7FF80 4)) (.vscat ⟨0, 3, 3, 1, 2, 2, 1⟩ ⟨0, 0⟩)).isSome = true := by decide +kernel

/-- VectorBenchAccesses: lanes 0 and 31 at the end of the yard and of the loft. -/
theorem test_witness_vector_far : let y := onCore (coreV 0x103FFF80 4)
    let l := { onCore (coreV 0x37FFFF80 4) with dies := State.reset.dies.set 0 { bays := Vector.replicate 384 (some 0) } }
    let at_ := fun (s : State) j => vecBase s 1 ⟨0, 0⟩ + BitVec.ofNat 64 (j * (32 / 8))
    y.lanesWithin 1 32 4 0x10000000 0x10400000 (at_ y) ∧ l.lanesWithin 1 32 4 0x20000000 0x38000000 (at_ l) ∧ y.roomFor 12 ∧ l.roomFor 1048
      ∧ Mem.wf (y.cluster y.myCluster).yard = true ∧ Mem.wf (l.die l.myDie).loft = true ∧ (l.die l.myDie).bays.toList.getD 383 none = some l.me.theLaunch.errand
      ∧ (vecBase y 1 ⟨0, 0⟩).toNat % 32 = 0 ∧ y.me.quantumEntries + 2 ≤ 256 ∧ y.me.usedEntries + 2 ≤ 256 := by
  unfold State.lanesWithin State.roomFor; decide +kernel

/-- VectorAccessTraps: each row of the match, by VLDS of stride s2 under k1 (lanes 0 and 31): misaligned, past the bench, in handle 1's
bytes, and a store to the loft with nothing wrong before it. -/
theorem test_witness_vector_traps : let i : Instr := .vlds ⟨0, 0, 3, 1, 2, 2, 1⟩ ⟨0, 0⟩
    let lanes := fun (s : State) (bad : State → VecAccess → Nat → Bool) => (vecAccess s i).bind fun v => lowestLane s v (bad s v)
    let outside := fun (_ : State) (v : VecAccess) j => localOf (v.at_ j).toNat v.bytes != some .bench
    lanes (onCore (coreV 0x100 2)) (fun _ v => v.misaligned) = some 31 ∧ lanes (onCore (coreV 0x7FFFC 4)) (fun _ v => v.misaligned) = none
      ∧ lanes (onCore (coreV 0x7FFFC 4)) outside = some 31 ∧ lanes (onCore (coreV 0x1080 4)) outside = none
      ∧ ((onCore (coreV 0x1080 4)).me.handle 1).o = 1 ∧ localOf 0x20000000 4 = some .loft
      ∧ (vecAccess (onCore (coreV 0x20000000 4)) (.vsts ⟨0, 0, 3, 1, 2, 2, 1⟩ ⟨0, 0⟩)).isSome = true := by decide +kernel

/-- PatternMemory: the last pattern of the bench, misaligned, past it, and not the core's; a load still on its way. -/
theorem test_witness_patterns : let s := onCore (coreV 0x7FF80 0x1000)
    (s.me.readS 1).toNat % 128 = 0 ∧ s.me.mayUse (s.me.readS 1).toNat 128 ∧ s.me.clean (s.me.readS 1).toNat 128 ∧ Mem.wf s.me.bench = true
      ∧ s.roomFor 4 ∧ (s.me.readS 2).toNat % 128 = 0 ∧ (s.me.readS 2).toNat + 128 ≤ 0x80000 ∧ ¬s.me.mayUse (s.me.readS 2).toNat 128
      ∧ ((onCore (coreV 0x80000 1)).me.readS 1).toNat % 128 = 0 ∧ 0x80000 < ((onCore (coreV 0x80000 1)).me.readS 1).toNat + 128
      ∧ ((onCore (coreV 0 1)).me.readS 2).toNat % 128 ≠ 0
      ∧ (let p : Pending := { due := 3, writes := [.pat 0 0] }
         let t := onCore { core0 with pend := [p] }
         t.me.pend = [p] ∧ p.due < t.me.cycleNat + 4) := by
  unfold State.roomFor Core.mayUse Core.clean; decide +kernel

/-- VPATSW with no load on its way. -/
theorem test_witness_patterns_none : ∀ p ∈ (onCore core0).me.pend, ∀ w ∈ p.writes, ∀ e v, w ≠ .pat e v := by
  have h : (onCore core0).me.pend = [] := by decide +kernel
  simp [h]


/-! ### Hypotheses of the statements about the matrix slot, the array and the Loom -/

def onMat (m : Matrix) : State := onCore { core0 with matrix := m }

theorem core_onMat (m : Matrix) : ((onMat m).core 0).matrix = m := rfl
theorem records_onMat (m : Matrix) : ((onMat m).core 0).records = [] := rfl

theorem ringClear_of (k : Core) (n : Nat) (h : k.records = []) : k.ringClear n := by
  right; intro t m; rw [h] at m; cases m

/-- An engine with a queue whose first operation may start, with no latch load and no fetch under way. -/
theorem mayStart_onMat {m : Matrix} {o : MatOp} {rest : List MatOp} (q : m.queue = o :: rest) (r : m.running = none) (f : m.fault = none)
    (c : m.closed = false) (l : m.reloading = false) (e : m.fetches = []) (h : m.latches = Vector.replicate 4 {}) :
    (onMat m).MayStart 0 o rest where
  queue := by rw [core_onMat]; exact q
  running := by rw [core_onMat]; exact r
  fault := by rw [core_onMat]; exact f
  open_ := by rw [core_onMat]; exact c
  reload := by rw [core_onMat]; exact l
  earlier := by rw [core_onMat, e, h]; intro _; exact ⟨rfl, by decide, nofun⟩
  latch := by
    rw [core_onMat, h]; intro _ e _ _ _ _ _
    show ((Vector.replicate 4 ({} : Latch))[e.toNat]).loading = false
    rw [Vector.getElem_replicate]
  ring := ringClear_of _ _ (records_onMat m)

/-- An engine that runs an operation. -/
theorem runs_onMat {m : Matrix} {o : MatOp} {r : Option Routine} (q : m.running = some o) (i : m.routine = r) (f : m.fault = none)
    (c : m.closed = false) : (onMat m).Runs 0 o r where
  running := by rw [core_onMat]; exact q
  routine := by rw [core_onMat]; exact i
  fault := by rw [core_onMat]; exact f
  open_ := by rw [core_onMat]; exact c
  ring := ringClear_of _ _ (records_onMat m)

/-- MatrixParametersAndQueue: an idle engine, a busy one, a queue with room for one more and one without. -/
theorem test_witness_matrix_queue : let o : MatOp := { instr := .mcall 0 1 }
    let m : Matrix := {}
    (m.queue = [] ∧ m.running = none ∧ m.fault = none ∧ m.fetches = [] ∧ (∀ e : Fin 4, m.latches[e].loading = false)
        ∧ ∀ w ∈ (onMat m).hub.egress, w.core = (onMat m).cur → w.eng ≠ 2)
      ∧ ¬({ queue := [o] } : Matrix).queue = [] ∧ queuedOp (.mcall 0 1) = some (0x01, 0, 1) ∧ queuedOp (.mupld 0 1 2 3 4) = some (0x06, 2, 2)
      ∧ (onMat { queue := [o, o, o] }).me.matrix.queue.length < 4 ∧ 4 ≤ (onMat { queue := [o, o, o, o] }).me.matrix.queue.length
      ∧ (onMat { closed := true }).me.matrix.closed = true ∧ (onMat { reloading := true }).me.matrix.reloading = true := by decide +kernel

/-- MatrixOperationEvents, the starts: MCALL of a routine that is there and of one that is not. -/
theorem test_witness_start_mcall : let o : MatOp := { instr := .mcall 0 255 }
    let there : Matrix := { queue := [o], udir := (({} : Matrix).udir.set 255 (0, 1)) }
    ((onMat there).MayStart 0 o [] ∧ (((onMat there).core 0).matrix.udir[255]).2 ≠ 0)
      ∧ (onMat { queue := [o] }).MayStart 0 o [] ∧ (((onMat { queue := [o] }).core 0).matrix.udir[255]).2 = 0 :=
  ⟨⟨mayStart_onMat rfl rfl rfl rfl rfl rfl rfl, by decide +kernel⟩, mayStart_onMat rfl rfl rfl rfl rfl rfl rfl, by decide +kernel⟩
/-- MLATCH of K = 128 in BF16: 32,768 bytes, all that a latch holds. -/
theorem test_witness_start_mlatch : let o : MatOp := { instr := .mlatch 0 3 7 1 127 0, expl := { af := 1, bf := 1 } }
    (onMat { queue := [o] }).MayStart 0 o [] ∧ (arrayMode (o.record 0).af.toNat (o.record 0).bf.toNat).any (·.kOk (127 + 1)) = true
      ∧ ((127 : BitVec 10).toNat + 1) * 128 * elemBits (o.record 0).bf.toNat / 8 ≤ 32768 :=
  ⟨mayStart_onMat rfl rfl rfl rfl rfl rfl rfl, by decide, by decide⟩
/-- MACCZ of tile 7, and of tile 7 where the grid has it. -/
theorem test_witness_start_maccz : let o : MatOp := { instr := .maccz 0 1, m := (Vector.replicate 8 0).set 1 0x70000 }
    ((onMat { queue := [o] }).MayStart 0 o [] ∧ ((onMat { queue := [o] }).core 0).matrix.names (o.tileAddr o.m[1]) 7)
      ∧ (onMat { queue := [o], gridTiles := 0x80 }).MayStart 0 o [] ∧ (o.tileAddr o.m[1]).toNat = 7 * 0x10000
        ∧ ((onMat { queue := [o], gridTiles := 0x80 }).core 0).matrix.gridTiles.getLsbD 7 = true := by
  refine ⟨⟨mayStart_onMat rfl rfl rfl rfl rfl rfl rfl, ?_⟩, mayStart_onMat rfl rfl rfl rfl rfl rfl rfl, ?_, ?_⟩
  · unfold Matrix.names; decide +kernel
  · decide +kernel
  · decide +kernel
/-- RGRID of the last tile beside a live tile 0; MRETIRE of tile 0 to the bench; an operation that starts plainly. -/
theorem test_witness_start_rgrid : let o : MatOp := { instr := .rgrid 0 7 0 0 0 0 }
    let m : Matrix := { queue := [o], live := 1 }
    (onMat m).MayStart 0 o [] ∧ ((onMat m).core 0).matrix.grid = none
      ∧ ((onMat m).core 0).matrix.live &&& ({ tile := 7, width := 128, height := 1, cw := 2, halo := 1 } : Grid).tiles = 0 :=
  ⟨mayStart_onMat rfl rfl rfl rfl rfl rfl rfl, rfl, by decide +kernel⟩
theorem test_witness_start_mretire : let o : MatOp := { instr := .mretire 0 0 1 0 0 0, a := 0x70000, expl := { af := 1, bf := 1, cf := 0 } }
    (onMat { queue := [o] }).MayStart 0 o [] ∧ ((onMat { queue := [o] }).core 0).matrix.names (o.tileAddr o.m[0]) 0 ∧ (o.record 0).cf.toNat ≤ 9
      ∧ arrayMode (o.record 0).af.toNat (o.record 0).bf.toNat ≠ none ∧ o.a.toNat % 64 = 0 ∧ ((onMat { queue := [o] }).core 0).mayUse o.a.toNat (16384 * (elemBits (o.record 0).cf.toNat / 8)) := by
  refine ⟨mayStart_onMat rfl rfl rfl rfl rfl rfl rfl, ?_⟩
  unfold Matrix.names Core.mayUse; decide +kernel
/-- MRETIRE whose record has no array mode, with C = 0, and one with C = 10. -/
theorem test_witness_start_mretire_microcode : let o : MatOp := { instr := .mretire 0 0 1 0 0 0, expl := {} }
    ((onMat { queue := [o] }).MayStart 0 o [] ∧ ((onMat { queue := [o] }).core 0).matrix.names (o.tileAddr o.m[0]) 0)
      ∧ arrayMode (o.record 0).af.toNat (o.record 0).bf.toNat = none ∧ (o.record 0).cf.toNat ≤ 9 ∧ 9 < (10 : BitVec 5).toNat := by
  refine ⟨⟨mayStart_onMat rfl rfl rfl rfl rfl rfl rfl, ?_⟩, ?_⟩
  · unfold Matrix.names; decide +kernel
  · decide +kernel
theorem test_witness_start_plainly : let o : MatOp := { instr := .rstep 0 1 }
    (onMat { queue := [o] }).MayStart 0 o [] ∧ startsPlainly o.instr = true := ⟨mayStart_onMat rfl rfl rfl rfl rfl rfl rfl, rfl⟩

/-- MatrixOperationEvents, the completions: MUPLD of the last words of the store from the end of the bench. -/
theorem test_witness_complete_mupld : let o : MatOp := { instr := .mupld 0 255 1 2046 1, a := 0x7FFF0 }
    (onMat { running := some o }).Runs 0 o none ∧ o.a.toNat % 8 = 0 ∧ ((onMat { running := some o }).core 0).mayUse o.a.toNat (8 * (1 + 1))
      ∧ ((onMat { running := some o }).core 0).clean o.a.toNat (8 * (1 + 1)) ∧ Mem.wf ((onMat { running := some o }).core 0).bench = true := by
  refine ⟨runs_onMat rfl rfl rfl rfl, ?_⟩
  unfold Core.mayUse Core.clean; decide +kernel
/-- RSTEP without a grid; with one, at its target; RTLOAD of the last table; RCENSUS. -/
theorem test_witness_complete_rule : let o : MatOp := { instr := .rstep 0 1, a := 3 }
    let t : MatOp := { instr := .rtload 0 1 63 0, a := 0x7FFE0 }
    let c : MatOp := { instr := .rcensus 0 1, a := 0x7FFC0 }
    let g : Grid := { tile := 0, width := 128, height := 1, cw := 2, halo := 1 }
    let s := onCore { core0 with matrix := { running := some o, grid := some g }, ctl := { core0.ctl with genCount := 3 } }
    ((onMat { running := some o }).Runs 0 o none ∧ ((onMat { running := some o }).core 0).matrix.grid = none)
      ∧ ((s.core 0).matrix.grid = some g ∧ ¬((s.core 0).matrix.mode.ix = 0 ∧ g.cw = 4) ∧ o.a.toNat % 2 ^ 32 ≤ (s.core 0).ctl.genCount.toNat)
      ∧ ((onMat { running := some t }).Runs 0 t none ∧ t.a.toNat % 32 = 0 ∧ ((onMat { running := some t }).core 0).mayUse t.a.toNat (32 * (0 + 1))
        ∧ ((onMat { running := some t }).core 0).clean t.a.toNat (32 * (0 + 1)))
      ∧ (onMat { running := some c, grid := some g }).Runs 0 c none ∧ c.a.toNat % 64 = 0
        ∧ ((onMat { running := some c, grid := some g }).core 0).mayUse c.a.toNat 64 := by
  refine ⟨⟨runs_onMat rfl rfl rfl rfl, rfl⟩, ?_, ⟨runs_onMat rfl rfl rfl rfl, ?_⟩, runs_onMat rfl rfl rfl rfl, ?_⟩
  · decide +kernel
  · unfold Core.mayUse Core.clean; decide +kernel
  · unfold Core.mayUse; decide +kernel
theorem test_witness_complete_mretire : let o : MatOp := { instr := .mretire 0 0 1 0 0 1, a := 0x70000, expl := { af := 1, bf := 1, cf := 0 } }
    (onMat { running := some o }).Runs 0 o none ∧ ((onMat { running := some o }).core 0).matrix.names (o.tileAddr o.m[0]) 0
      ∧ o.expl.cf.toNat ≤ 9 ∧ arrayMode o.expl.af.toNat o.expl.bf.toNat ≠ none ∧ o.a.toNat % 64 = 0 ∧ ((onMat { running := some o }).core 0).mayUse o.a.toNat (16384 * (elemBits o.expl.cf.toNat / 8)) := by
  refine ⟨runs_onMat rfl rfl rfl rfl, ?_⟩
  unfold Matrix.names Core.mayUse; decide +kernel

/-- MRETIRE in the middle and at its last row. -/
theorem test_witness_retire_rows : let o : MatOp := { instr := .mretire 0 0 1 0 0 1, a := 0x70000, expl := { af := 1, bf := 1, cf := 0 } }
    (onMat { running := some { o with rows := 5 } }).Runs 0 { o with rows := 5 } none ∧ (onMat { running := some { o with rows := 127 } }).Runs 0 { o with rows := 127 } none :=
  ⟨runs_onMat rfl rfl rfl rfl, runs_onMat rfl rfl rfl rfl⟩

/-- MatrixOperationEvents, the bands: the last row of a grid of 128 by 2 cells of two bits, from and to the bench, and from and to virtual memory. -/
def gridB : Grid := { tile := 7, width := 128, height := 2, cw := 2, halo := 1 }
def bandOp (i : Instr) (a : DWord) : MatOp := { instr := i, m := ((Vector.replicate 8 0).set 0 a).set 1 1 }
def bandState (i : Instr) (a : DWord) : State :=
  let k := { core1 with matrix := { running := some (bandOp i a), grid := some gridB } }
  { onHub {} id with cores := State.reset.cores.set 0 k }
theorem test_witness_band_local : let o := bandOp (.rload 0 0 1 0 0) 0x7FFE0
    let s := bandState o.instr 0x7FFE0
    s.Runs 0 o none ∧ Mem.wf (s.core 0).bench = true ∧ (s.core 0).matrix.grid = some gridB ∧ o.rows < 1 ∧ 0 < gridB.width * gridB.cw / 8
      ∧ Mem.wf (s.core 0).matrix.acc = true ∧ (o.m[1]).toNat < 2048 ∧ (o.m[1]).toNat + 1 ≤ gridB.height ∧ (o.m[0]).toNat % 32 = 0
      ∧ (s.core 0).mayUse 0x7FFE0 32 ∧ (s.core 0).clean 0x7FFE0 32 := by
  refine ⟨⟨rfl, rfl, rfl, rfl, ringClear_of _ _ rfl⟩, ?_⟩
  unfold Core.mayUse Core.clean; decide +kernel
theorem test_witness_band_load : let s := bandState (.rload 0 0 1 1 0) 0x20FE0
    (match (s.engineReach 0 true 0x20FE0 32).engineVread 0 0x20FE0 32 with | .ok bs => bs == List.replicate 32 0 | _ => false) = true := by decide +kernel
theorem test_witness_band_store : let s := bandState (.rstore 0 0 1 1 0) 0x20FE0
    ∃ u, s.engineVwrite 0 2 0x20FE0 ((s.core 0).matrix.acc.bytes (0x70000 + 32) 32) = (u, .ok ()) := by
  have e : ∀ r : State × EngRes Unit, (match r.2 with | .ok _ => true | _ => false) = true → r = (r.1, .ok ()) := by
    rintro ⟨t, r⟩ h
    cases r with
    | ok _ => rfl
    | _ => exact absurd h (by simp)
  exact ⟨_, e _ (by decide +kernel)⟩
/-- Its strips: each side has its cells, which a bench of 32 bytes at its end takes and gives. -/
theorem test_witness_strip : let o : MatOp := { instr := .rhalox 0 1 1, a := 0x7FFE0 }
    let s := onMat { running := some o, grid := some gridB }
    s.Runs 0 o none ∧ (s.core 0).matrix.grid = some gridB ∧ (gridB.cw = 2 ∨ gridB.cw = 4) ∧ 0 < gridB.halo ∧ Mem.wf (s.core 0).matrix.halo = true
      ∧ ¬(gridB.height < gridB.halo) ∧ o.a.toNat % 16 = 0 ∧ (s.core 0).mayUse o.a.toNat 32 ∧ (s.core 0).clean o.a.toNat 32
      ∧ (∀ side : BitVec 2, 0 < stripCount gridB side) ∧ (stripCount gridB 1 * gridB.cw + 127) / 128 * 16 = 16 := by
  refine ⟨runs_onMat rfl rfl rfl rfl, ?_⟩
  unfold Core.mayUse Core.clean; decide +kernel

/-- A routine at its second word, with working registers as given, on a core with bench and handles of `core0`. -/
def routine (w : Vector DWord 8) : Routine := { rout := 3, first := 8, len := 4, idx := 1, w := w, active := { af := 1, bf := 1 } }
def microOp : MatOp := { instr := .mcall 0 3 }
def onRoutine (w : Vector DWord 8) (m : Matrix) : State := onMat { m with running := some microOp, routine := some (routine w) }

theorem runs_onRoutine (w : Vector DWord 8) {m : Matrix} (f : m.fault = none) (c : m.closed = false) :
    (onRoutine w m).Runs (onRoutine w m).cur microOp (some (routine w)) := runs_onMat rfl rfl f c

/-- RoutineMicroOps: loop counts at their ends, targets before and behind, row numbers 127 and 128, a FULL and a FREE handle. -/
theorem test_witness_micro_plain : let r := routine ((Vector.replicate 8 (127 : DWord)).set 1 128)
    (onRoutine ((Vector.replicate 8 (127 : DWord)).set 1 128) {}).Runs (onRoutine ((Vector.replicate 8 (127 : DWord)).set 1 128) {}).cur microOp (some r)
      ∧ (1 : BitVec 11).toNat ≤ r.idx ∧ r.idx < (2 : BitVec 11).toNat ∧ (r.w[0]).toNat ≤ 127 ∧ 127 < (r.w[1]).toNat
      ∧ r.lc[0] = none ∧ (0 : BitVec 8).toNat = 0 ∧ (255 : BitVec 8).toNat ≠ 0
      ∧ ((onRoutine r.w {}).me.handle 2).st = 2 ∧ ((onRoutine r.w {}).me.handle 1).st ≠ 2 :=
  ⟨runs_onRoutine _ rfl rfl, by decide +kernel⟩
/-- UACC of tile 7 into tile 0, both live, and with tile 7 not live. -/
theorem test_witness_uacc : let w := (Vector.replicate 8 (0 : DWord)).set 1 0x70000
    (onRoutine w { live := 0x81 }).Runs (onRoutine w { live := 0x81 }).cur microOp (some (routine w))
      ∧ (onRoutine w { live := 0x81 }).me.matrix.names (routine w).w[1] 7 ∧ (onRoutine w { live := 0x81 }).me.matrix.names (routine w).w[0] 0
      ∧ (onRoutine w { live := 0x81 }).me.matrix.live.getLsbD 7 = true ∧ (onRoutine w { live := 0x81 }).me.matrix.live.getLsbD 0 = true
      ∧ Mem.wf (onRoutine w { live := 0x81 }).me.matrix.acc = true ∧ (onRoutine w { live := 1 }).me.matrix.live.getLsbD 7 = false := by
  refine ⟨runs_onRoutine _ rfl rfl, ?_⟩
  unfold Matrix.names; decide +kernel
/-- ULATCH of K = 16 in BF16 (4,096 bytes) from a FULL handle of that size, from one that is FREE, and of K = 128 from far memory. -/
theorem test_witness_ulatch : let w := Vector.replicate 8 (0 : DWord)
    let s := onCore { core0 with
      handles := core0.handles.set 4 { base := 0x4000, size := 4096, st := 2 }
      matrix := { running := some microOp, routine := some (routine w) } }
    s.Runs s.cur microOp (some (routine w))
      ∧ (arrayMode 1 1).any (·.kOk (15 + 1)) = true ∧ (arrayMode 1 1).any (·.kOk (127 + 1)) = true
      ∧ (15 + 1) * 128 * elemBits 1 / 8 ≤ (s.me.handle 4).size.toNat ∧ (127 + 1) * 128 * elemBits 1 / 8 ≤ 32768
      ∧ (s.me.handle 4).st = 2 ∧ (s.me.handle 4).psn = 0 ∧ (s.me.handle 1).st ≠ 2 ∧ s.me.matrix.latches[3].loading = false := by
  exact ⟨⟨rfl, rfl, rfl, rfl, ringClear_of _ _ rfl⟩, by decide +kernel⟩

/-- A descriptor of one dimension at 0x0 of far memory: 4 elements of 8 bytes, stride 8, extent 4, all inside. -/
def desc1 : BitVec 512 := BitVec.ofNat 512 (2 ^ 64 * 8 + 2 ^ 256 * 4 + 2 ^ 352 * 4 + 2 ^ 448 * 8 + 2 ^ 456 * 1)

/-- The core with the descriptor at the last 64 bytes of the bench. -/
def coreD : Core := { core12 0x7FFC0 0 with bench := core0.bench.write 0x7FFC0 (leBytes 64 desc1.toNat) }

theorem test_desc : Desc.valid desc1 = true ∧ Desc.aligned desc1 = true ∧ Desc.ndim desc1 = 1 ∧ Desc.elements desc1 = 4 ∧ Desc.esize desc1 = 8
    ∧ Desc.tileBytes desc1 = 32 ∧ (Desc.base desc1).toNat = 0 := by decide +kernel

/-- UFETCH by that descriptor into handle 1, FREE for the engine, and into handle 2, which is FULL. -/
theorem test_witness_ufetch : let w := Vector.replicate 8 (0x7FFC0 : DWord)
    let s := onCore { coreD with matrix := { running := some microOp, routine := some (routine w) } }
    let d := BitVec.ofNat 512 (s.me.bench.num (routine w).w[0].toNat 64)
    s.Runs s.cur microOp (some (routine w)) ∧ (routine w).w[0].toNat % 64 = 0 ∧ s.me.mayUse (routine w).w[0].toNat 64 ∧ s.me.clean (routine w).w[0].toNat 64 ∧ Desc.valid d = true
      ∧ Desc.aligned d = true ∧ (Desc.base d).toNat < 2 ^ 57 ∧ (s.me.handle 1).ring = none ∧ Desc.tileBytes d ≤ (s.me.handle 1).size.toNat
      ∧ ((s.me.handle 1).st = 0 ∧ (s.me.handle 1).o = 1) ∧ (s.me.handle 2).ring = none ∧ Desc.tileBytes d ≤ (s.me.handle 2).size.toNat
      ∧ ¬((s.me.handle 2).st = 0 ∧ (s.me.handle 2).o = 1) := by
  refine ⟨⟨rfl, rfl, rfl, rfl, ringClear_of _ _ rfl⟩, ?_⟩
  unfold Core.mayUse Core.clean; decide +kernel

/-- UFETCH into handle 5, FREE with O = 0, and into one that is FILLING. -/
theorem test_witness_ufetch_free : let h5 : Handle := { base := 0x5000, size := 256, o := 0 }
    let h3 : Handle := { base := 0x3000, size := 256, st := 1 }
    let s := onCore { coreD with
      handles := (coreD.handles.set 5 h5).set 3 h3, matrix := { running := some microOp, routine := some (routine (Vector.replicate 8 0x7FFC0)) } }
    ((s.me.handle 5).st = 0 ∧ (s.me.handle 5).o = 0) ∧ (s.me.handle 3).st ≠ 0 ∧ (∀ h ∈ [3, 5], (s.me.handle h).ring = none
      ∧ Desc.tileBytes desc1 ≤ (s.me.handle h).size.toNat) ∧ BitVec.ofNat 512 (s.me.bench.num 0x7FFC0 64) = desc1 ∧ s.me.mayUse 0x7FFC0 64
      ∧ s.me.clean 0x7FFC0 64 := by
  unfold Core.mayUse Core.clean; decide +kernel

/-- UstepFinishesItsRow: row 7, the last of 8, of a BF16 panel of K = 16 in handle 2, whose 256 bytes it ends. -/
theorem test_witness_ustep : let w := (Vector.replicate 8 (0 : DWord)).set 1 0x70000
    let u : StepU := ⟨0, 0, 1, 2, 3, 1, 0, 1, 15, 7, 0, 0⟩
    let s := onCore { core0 with
      ctl := { core0.ctl with rowp := 7 }
      matrix := { running := some microOp, routine := some (routine w)
                  latches := (Vector.replicate 4 {}).set 3 { valid := true, fmt := 1, k := 16 } } }
    let l := s.me.matrix.latches[3]
    s.Runs s.cur microOp (some (routine w)) ∧ (arrayMode 1 1).any (·.kOk (u.k.toNat + 1)) = true ∧ (routine w).poisoned = false ∧ l.valid = true ∧ l.loading = false ∧ l.fmt = 1 ∧ l.k = u.k.toNat + 1
      ∧ s.me.matrix.names (routine w).w[u.mc.toNat] 7 ∧ s.me.ctl.rowp.toNat = u.rows.toNat ∧ (6 < u.rows.toNat) ∧ Mem.wf s.me.matrix.acc = true
      ∧ (s.me.handle u.h).st = 2 ∧ u.rows.toNat * 32 + 32 ≤ (s.me.handle u.h).size.toNat ∧ (u.k.toNat + 1) * elemBits 1 / 8 = 32
      ∧ (s.me.handle u.h).psn = 0 ∧ ¬(10 ≤ (routine w).active.af.toNat ∧ (routine w).active.af.toNat ≤ 12) := by
  refine ⟨⟨rfl, rfl, rfl, rfl, ringClear_of _ _ rfl⟩, ?_⟩
  unfold Matrix.names; decide +kernel

/-- The same row from the bench at the addresses in w0, in a routine that has not begun it; and poisoned, where MODE.PSN is 0. -/
theorem test_witness_ustep_bench : let w := ((Vector.replicate 8 (0 : DWord)).set 0 0x4000).set 1 0x70000
    let u : StepU := ⟨0, 0, 1, 0, 3, 0, 0, 0, 15, 7, 0, 0⟩
    let k := { core0 with ctl := { core0.ctl with rowp := 7 }, matrix := { running := some microOp, routine := some (routine w) } }
    (routine w).begun = false ∧ (0x4000 + BitVec.ofNat 64 (7 * 32) : DWord).toNat < 0x20000000 ∧ k.clean (0x4000 + 7 * 32) 32
      ∧ (match ((onCore k).reachRow 0 (routine w) u 32 32).operand 0 false (0x4000 + BitVec.ofNat 64 (7 * 32)) 32 with
          | .ok bs => bs == List.replicate 32 0 | _ => false) = true
      ∧ ({ routine w with poisoned := true, begun := true }).poisoned = true ∧ microOp.psnTrap = false := by
  unfold Core.clean; decide +kernel

/-- LoomGeneration: a grid of 128 by 2,048 cells of two bits that ends with the store, BOUND beside, WRAP above and below, one generation to go. -/
theorem test_witness_loom : let o : MatOp := { instr := .rstep 0 1, a := 1 }
    let g : Grid := { tile := 7, width := 128, height := 2048, cw := 2, halo := 1 }
    let m : Matrix := { running := some o, grid := some g, mode := { bx := 1, by_ := 2 } }
    (onMat m).Runs 0 o none ∧ (g.cw = 2 ∨ (g.cw = 4 ∧ m.mode.ix = 1)) ∧ g.width % 128 = 0 ∧ 0 < g.height ∧ g.base + g.bytes ≤ 0x80000
      ∧ m.mode.up = 0 ∧ m.mode.bx = 1 ∧ m.mode.by_ = 2 ∧ Mem.wf m.acc = true ∧ Mem.wf m.rules = true ∧ Mem.wf m.halo = true
      ∧ ((onMat m).core 0).ctl.genCount.toNat < o.a.toNat % 2 ^ 32 :=
  ⟨runs_onMat rfl rfl rfl rfl, by decide +kernel⟩

/-! ### Hypotheses of the statements about handles, rings and the copy engines -/

/-- `coreD` with handle 3 FILLING, 4 FULL for the engines, 5 FREE for the core, and the inbound ring 7 of handles 62 and 63. -/
def coreH : Core := { coreD with
  handles := ((((coreD.handles.set 3 { base := 0x3000, size := 256, st := 1 }).set 4 { base := 0x4000, size := 256, st := 2 }).set 5
    { base := 0x5000, size := 256, o := 0 }).set 62 { base := 0x6000, size := 32, ring := some 7 }).set 63 { base := 0x7000, size := 32, ring := some 7 }
  rings := coreD.rings.set 7 (some { f := 62, l := 2, out := false, p := 1 }) }

/-- TileCommandsAccepted: COPY by number and into the ring's last handle, COPYO of the FULL handle, to virtual and to local memory, and a
queue of seven; the descriptor off its alignment, past the bench, and in handle 1's bytes. -/
theorem test_witness_tiles : let q : CopyCmd := { instr := .fillh 0 0 1 1 }
    let s := onCore { coreH with c0 := { queue := List.replicate 7 q } }
    let d := descriptorAt s.me (s.me.readS 1)
    (s.me.readS 1).toNat % 64 = 0 ∧ s.me.mayUse (s.me.readS 1).toNat 64 ∧ Desc.valid d = true ∧ (0 : BitVec 3).toNat < Desc.ndim d ∧ Desc.aligned d = true
      ∧ (Desc.base d).toNat < 2 ^ 57 ∧ Desc.tileBytes d ≤ (s.me.handle 1).size.toNat ∧ Desc.tileBytes d ≤ (s.me.handle 63).size.toNat
      ∧ s.me.c0.queue.length < 8 ∧ ((s.me.handle 1).st = 0 ∧ (s.me.handle 1).o = 1 ∧ (s.me.handle 1).ring = none)
      ∧ ((s.me.handle 63).st = 0 ∧ (s.me.handle 63).o = 1 ∧ s.me.ring 7 = some { f := 62, l := 2, out := false, p := 1 }
        ∧ (63 : BitVec 6) = BitVec.ofNat 6 (62 + 1))
      ∧ ((s.me.handle 4).st = 2 ∧ (s.me.handle 4).ring = none ∧ (s.me.handle 4).psn = 0)
      ∧ ({ instr := .copy 0 0 1 1 0 0, desc := d, base := (Desc.base d).toNat, extent := [4] } : CopyCmd).farOk = true
      ∧ (tileOp s (.copy 0 1 7 1 1 0)).isSome = true ∧ (tileOp s (.scattr 0 0 4 1 2 1)).isSome = true := by
  unfold Core.mayUse; decide +kernel
/-- A descriptor of two dimensions: two rows of two elements of 8 bytes, 256 bytes apart, at 0x0, all inside. -/
def desc2 : BitVec 512 :=
  8#512 <<< 64 ||| 256#512 <<< 96 ||| 2#512 <<< 256 ||| 2#512 <<< 272 ||| 4#512 <<< 352 ||| 4#512 <<< 368 ||| 8#512 <<< 448 ||| 2#512 <<< 456

/-- The core with that descriptor at s1, room for one command more, and an index array (of zeros) at s2. -/
def tileState : State := onCore { coreH with
  s := coreH.s.set 2 0x7FFA0, bench := core0.bench.write 0x7FFC0 (leBytes 64 desc2.toNat)
  c0 := { queue := List.replicate 7 { instr := .fillh 0 0 1 1 } } }

theorem fills_number {k : Core} {h : BitVec 6} (st : (k.handle h).st = 0) (o : (k.handle h).o = 1) (z : (k.handle h).size ≠ 0)
    (r : (k.handle h).ring = none) : k.mayFill 0 h h := ⟨st, o, by rw [if_neg (by decide)]; exact ⟨rfl, z, r⟩⟩
theorem drains_number {k : Core} {h : BitVec 6} (st : (k.handle h).st = 2) (z : (k.handle h).size ≠ 0) (r : (k.handle h).ring = none) :
    k.mayDrain 0 h h := by unfold Core.mayDrain; rw [if_neg (by decide)]; exact ⟨rfl, z, r, .inl st⟩

/-- TileCommandsAccepted: each command with all its checks passed, into handle 1 or from handle 4 (COPY and COPYO of local places, TILEF at
tile (0, 0), GATHER and SCATTR of virtual ones). -/
theorem tile_ready_in (i : Instr) (c : TileOp) (a : c.a = 1) (n : c.inbound = true) (g : c.g = 0) (h : c.h = 1) (more : c.more desc2)
    (far : if c.virt then True else
      ({ instr := i, desc := desc2, base := c.base desc2, extent := c.extent desc2, index := c.index desc2, inbound := c.inbound } : CopyCmd).farOk = true) :
    TileReady i tileState c 1 := by
  have d : descriptorAt tileState.me (tileState.me.readS 1) = desc2 := by decide +kernel
  constructor
  · rw [a]; decide +kernel
  · rw [a]; unfold Core.mayUse; decide +kernel
  · rw [a, d]; decide +kernel
  · rw [a, d]; exact more
  · rw [a, d]; decide +kernel
  · rw [n, g, h, if_pos rfl]; exact fills_number (by decide +kernel) (by decide +kernel) (by decide +kernel) (by decide +kernel)
  · rw [a, d]; dsimp only; split
    · decide +kernel
    · rename_i v; rw [if_neg v] at far; exact far
  · rw [a, d]; decide +kernel
  · decide +kernel
theorem tile_ready_out (i : Instr) (c : TileOp) (a : c.a = 1) (n : c.inbound = false) (g : c.g = 0) (h : c.h = 4) (more : c.more desc2)
    (far : if c.virt then True else
      ({ instr := i, desc := desc2, base := c.base desc2, extent := c.extent desc2, index := c.index desc2, inbound := c.inbound } : CopyCmd).farOk = true) :
    TileReady i tileState c 4 := by
  have d : descriptorAt tileState.me (tileState.me.readS 1) = desc2 := by decide +kernel
  constructor
  · rw [a]; decide +kernel
  · rw [a]; unfold Core.mayUse; decide +kernel
  · rw [a, d]; decide +kernel
  · rw [a, d]; exact more
  · rw [a, d]; decide +kernel
  · rw [n, g, h, if_neg Bool.false_ne_true]
    exact ⟨drains_number (by decide +kernel) (by decide +kernel) (by decide +kernel), by decide +kernel⟩
  · rw [a, d]; dsimp only; split
    · decide +kernel
    · rename_i v; rw [if_neg v] at far; exact far
  · rw [a, d]; decide +kernel
  · decide +kernel
theorem test_witness_copy_ready : ∃ c, tileOp tileState (.copy 0 0 1 1 0 1) = some c ∧ TileReady (.copy 0 0 1 1 0 1) tileState c 1 :=
  ⟨_, rfl, tile_ready_in _ _ rfl rfl rfl rfl (by decide +kernel) (by decide +kernel)⟩
theorem test_witness_copyo_ready : ∃ c, tileOp tileState (.copyo 0 0 4 1 0 1) = some c ∧ TileReady (.copyo 0 0 4 1 0 1) tileState c 4 :=
  ⟨_, rfl, tile_ready_out _ _ rfl rfl rfl rfl (by decide +kernel) (by decide +kernel)⟩
theorem test_witness_tilef_ready : ∃ c, tileOp tileState (.tilef 0 0 1 1 0 0 0) = some c ∧ TileReady (.tilef 0 0 1 1 0 0 0) tileState c 1 :=
  ⟨_, rfl, tile_ready_in _ _ rfl rfl rfl rfl (by decide +kernel) (by decide +kernel)⟩
theorem indices_usable : Desc.ndim desc2 = 2 ∧ (tileState.me.readS 2).toNat % 4 = 0
    ∧ tileState.me.mayUse (tileState.me.readS 2).toNat (4 * Desc.count desc2 1) := by
  unfold Core.mayUse; decide +kernel
theorem test_witness_gather_ready : ∃ c, tileOp tileState (.gather 0 0 1 1 2 1) = some c ∧ TileReady (.gather 0 0 1 1 2 1) tileState c 1 :=
  ⟨_, rfl, tile_ready_in _ _ rfl rfl rfl rfl indices_usable trivial⟩
theorem test_witness_scattr_ready : ∃ c, tileOp tileState (.scattr 0 0 4 1 2 1) = some c ∧ TileReady (.scattr 0 0 4 1 2 1) tileState c 4 :=
  ⟨_, rfl, tile_ready_out _ _ rfl rfl rfl rfl indices_usable trivial⟩

theorem test_witness_tile_traps : ((onCore (core12 0x40 0x80000)).me.readS 1).toNat % 64 = 0 ∧ ((onCore (core12 0x20 0)).me.readS 1).toNat % 64 ≠ 0
    ∧ 0x80000 < ((onCore (core12 0x40 0x80000)).me.readS 2).toNat + 64 ∧ ((onCore (core12 0x40 0x80000)).me.readS 2).toNat % 64 = 0
    ∧ ¬(onCore (core12 0x10C0 0)).me.mayUse ((onCore (core12 0x10C0 0)).me.readS 1).toNat 64 := by
  unfold Core.mayUse; decide +kernel

/-- TileCommandsHeld: each state of a handle that it names, and a full queue. -/
theorem test_witness_tiles_held : let q : CopyCmd := { instr := .fillh 0 0 1 1 }
    let s := onCore { coreH with c0 := { queue := List.replicate 8 q } }
    (s.me.handle 3).st = 1 ∧ ((s.me.handle 4).st = 2 ∧ (s.me.handle 4).o = 1)
      ∧ ((s.me.handle 1).st = 0 ∧ (s.me.handle 1).o = 1 ∧ 8 ≤ s.me.c0.queue.length) ∧ ((s.me.handle 2).st = 2 ∧ (s.me.handle 2).o = 0)
      ∧ ((s.me.handle 5).st = 0 ∧ (s.me.handle 5).o = 0)
      ∧ ∀ h ∈ [1, 2, 3, 4, 5], (s.me.handle h).ring = none ∧ (s.me.handle h).size ≠ 0 ∧ Desc.tileBytes desc1 ≤ (s.me.handle h).size.toNat := by
  decide +kernel

/-- HandleOperations: the four rows of FLIP, FILLING, a ring member, an undeclared handle; aligned and misaligned entries; both owners. -/
theorem test_witness_handles : let s := onCore { coreH with s := (coreH.s.set 1 0x40).set 2 0x48 }
    ((s.me.handle 2).st = 2 ∧ (s.me.handle 2).o = 0) ∧ ((s.me.handle 1).st = 0 ∧ (s.me.handle 1).o = 1) ∧ ((s.me.handle 5).st = 0 ∧ (s.me.handle 5).o = 0)
      ∧ ((s.me.handle 4).st = 2 ∧ (s.me.handle 4).o = 1) ∧ (s.me.handle 3).st = 1 ∧ (s.me.handle 62).ring ≠ none ∧ (s.me.handle 0).size = 0
      ∧ (s.me.readS 1).toNat % 16 = 0 ∧ (s.me.readS 2).toNat % 16 ≠ 0 := by decide +kernel

/-- RingOperations: no ring; an inbound one whose consumer slot is FULL and one whose is not; an outbound one with a FREE producer slot and
one without; and the last 63 handles, all FREE, for a ring of their own. -/
theorem test_witness_rings : let full : Handle := { size := 64, st := 2, o := 0 }
    let free : Handle := { size := 64, o := 0 }
    let k := { core0 with handles := (core0.handles.set 63 full).set 62 free }
    let s := onCore { k with rings := (k.rings.set 0 (some ⟨63, 1, false, 0, 0⟩)).set 7 (some ⟨62, 1, true, 0, 0⟩) }
    let t := onCore { k with rings := (k.rings.set 0 (some ⟨62, 1, false, 0, 0⟩)).set 7 (some ⟨63, 1, true, 0, 0⟩) }
    let u := onCore { core0 with handles := Vector.replicate 64 { size := 64 } }
    s.me.ring 1 = none ∧ s.me.ring 0 = some ⟨63, 1, false, 0, 0⟩ ∧ ((s.me.handle 63).st = 2 ∧ (s.me.handle 63).o = 0)
      ∧ s.me.ring 7 = some ⟨62, 1, true, 0, 0⟩ ∧ ((s.me.handle 62).st = 0 ∧ (s.me.handle 62).o = 0)
      ∧ t.me.ring 0 = some ⟨62, 1, false, 0, 0⟩ ∧ ¬((t.me.handle 62).st = 2 ∧ (t.me.handle 62).o = 0)
      ∧ t.me.ring 7 = some ⟨63, 1, true, 0, 0⟩ ∧ ¬((t.me.handle 63).st = 0 ∧ (t.me.handle 63).o = 0)
      ∧ u.me.ring 7 = none ∧ (1 : BitVec 6).toNat + (62 : BitVec 6).toNat < 64
      ∧ ∀ i ≤ 62, (u.me.handle (BitVec.ofNat 6 (1 + i))).size ≠ 0 ∧ (u.me.handle (BitVec.ofNat 6 (1 + i))).st = 0
        ∧ (u.me.handle (BitVec.ofNat 6 (1 + i))).ring = none := by decide +kernel

/-- A COLL descriptor of two parts: rank `r`, ADD of n32, group 9, segment 4. -/
def collDesc (r : Nat) : BitVec 256 := BitVec.ofNat 256 (2 ^ 64 * 4 + 2 ^ 96 * 2 + 2 ^ 112 * r + 2 ^ 136 * 3 + 2 ^ 160 * 9)

/-- EngineCommandsAccepted: FILLH and SEND of their handles, a rank that is there and one that is not, SACC of two handles of one size onto
the last yard word, COLL from a FULL into a FREE handle by a descriptor at the bench's end. -/
theorem test_witness_engine_commands :
    let k := { coreH with
      s := (((core0.s.set 1 0x103FFFFC).set 2 7).set 3 0x7FFE0).set 4 8
      bench := core0.bench.write 0x7FFE0 (leBytes 32 (collDesc 1).toNat)
      handles := coreH.handles.set 6 { base := 0x8000, size := 256, st := 2 }
      launch := some { errand := 5, rank := 0, size := 8 } }
    let s : State := { onCore k with hub := { State.reset.hub with
      crews := [{ errand := 5, prio := 0, gang := false, kernel := {}, clusters := [0] }] } }
    s.me.c0.queue.length < 8 ∧ s.coreOfRank s.cur (s.me.readS 2).toNat ≠ none ∧ s.coreOfRank s.cur (s.me.readS 4).toNat = none
      ∧ (∀ h ∈ [4, 6], (s.me.handle h).st = 2 ∧ (s.me.handle h).ring = none ∧ (s.me.handle h).size = 256 ∧ (s.me.handle h).psn = 0)
      ∧ (s.me.readS 1).toNat % 4 = 0 ∧ (s.me.readS 1).toNat + 4 ≤ 0x10400000 ∧ (s.me.readS 3).toNat % 32 = 0 ∧ s.me.mayUse (s.me.readS 3).toNat 32
      ∧ CollDesc.valid (BitVec.ofNat 256 (s.me.bench.num (s.me.readS 3).toNat 32)) = true
      ∧ ((s.me.handle 1).st = 0 ∧ (s.me.handle 1).o = 1 ∧ (s.me.handle 4).size.toNat ≤ (s.me.handle 1).size.toNat) := by
  unfold Core.mayUse; decide +kernel

/-- CopyCommandsMove: FILLH at the head, and a COPY from the bench whose four elements can be read. -/
def copying : State := onCore { coreH with c1 := { queue := [{
  instr := .copy 0 0 3 1 0 0, h := 3, desc := desc1, base := 0, extent := [4] }] } }
theorem test_witness_copy_move : (copying.core 0).ringClear 3 ∧ Mem.wf (copying.core 0).bench = true
    ∧ (copying.engine 0 1).queue = [{ instr := .copy 0 0 3 1 0 0, h := 3, desc := desc1, base := 0, extent := [4] }]
    ∧ (∀ p < 4, (({ instr := .copy 0 0 3 1 0 0, h := 3, desc := desc1, base := 0, extent := [4] } : CopyCmd).element p).2 = true)
    ∧ ∀ p < 4, copying.farRead 0 false (BitVec.ofInt 64 (({ instr := .copy 0 0 3 1 0 0, h := 3, desc := desc1, base := 0, extent := [4] } : CopyCmd).element p).1) 8
      = .ok (List.replicate 8 0) := by
  refine ⟨ringClear_of _ _ rfl, by decide +kernel, by decide +kernel, by decide +kernel, by decide +kernel⟩
/-- Its elements one by one: outside the tile; out to the yard's last bytes and to the own bench; out to virtual memory, to a stack of its own die
and of another one's. -/
def oneOf (i : Instr) (out virt : Bool) (base ext : Nat) : CopyCmd :=
  { instr := i, h := 4, desc := desc1, base := base, extent := [ext], inbound := !out, virt := virt }
theorem test_witness_copy_elements : let o := oneOf (.copyo 0 0 4 1 0 0) true
    (let m := oneOf (.copy 0 0 3 1 0 0) false false 0 0; (m.element 0).2 = false ∧ m.inbound = true)
      ∧ (let m := o false 0x103FFFF8 4; (m.element 0).2 = true ∧ 0x10000000 ≤ (BitVec.ofInt 64 (m.element 0).1 : DWord).toNat
        ∧ (BitVec.ofInt 64 (m.element 0).1 : DWord).toNat + Desc.esize m.desc ≤ 0x10400000 ∧ m.inbound = false)
      ∧ (let m := o false 0x7FFE0 4; (m.element 3).2 = true ∧ (m.element 3).1 = 0x7FFF8 ∧ (copying.core 0).engineOwns 0x7FFF8 8 = true)
      ∧ ((o false 0 0).element 0).2 = false := by decide +kernel
theorem test_witness_copy_far : let m := oneOf (.copyo 0 0 4 1 0 1) true true 0x20000 4
    let s (c : CoreNo) : State := { onHub {} id with cores := State.reset.cores.set c.toNat { coreH with launch := some { errand := 1, size := 8 }, c1 := { queue := [m] } } }
    let place (c : CoreNo) := (((s c).updCore c fun k => k.updHandle m.h fun x => { x with err := 0 }).reachElement c 1 m).engineReach c false 0x20000 8
    (m.element 0).1 = 0x20000 ∧ (m.element 0).2 = true ∧ Desc.esize m.desc = 8
      ∧ (∀ c ∈ [0, 511], ((s c).engine c 1).queue = [m] ∧ (place c).place 0 0x20000 true false (some (clusterOf c)) = .ok (.hbm 0x20000))
      ∧ dieOfStack (0x20000 / (64 * 10 ^ 9)) = dieOf (clusterOf 0) ∧ dieOfStack (0x20000 / (64 * 10 ^ 9)) ≠ dieOf (clusterOf 511) := by decide +kernel
/-- A loft bank is refreshed at some moment of each 64 us: an element that the refresh holds, and one that it does not. -/
theorem test_witness_copy_late : ∃ now, let s := { State.reset with now := now }
    s.operandLate 0 false 0x20000000 8 ≠ 0 ∧ s.operandLate 0 false 0x37FFFFF8 8 = 0 := by
  refine ⟨64000 - Config.loftPhase State.reset.hub.resets 0 % 64000, ?_⟩
  have p : ({ State.reset with now := 64000 - Config.loftPhase State.reset.hub.resets 0 % 64000 } : State).loftPhase 0 = 0 := by
    show (Config.loftPhase State.reset.hub.resets 0 + (64000 - Config.loftPhase State.reset.hub.resets 0 % 64000)) % 64000 = 0
    omega
  have e : localOf (0x20000000 : DWord).toNat 8 = some .loft ∧ localOf (0x37FFFFF8 : DWord).toNat 8 = some .loft := by decide
  have d : dieOf (clusterOf 0) = 0 := by decide
  have z : (State.reset.cluster (clusterOf 0)).mhz = 800 := by decide +kernel
  simp only [State.operandLate, e.1, e.2, d, State.loftWait, p]
  exact ⟨by simp only [State.cluster] at z ⊢; rw [z]; decide, by decide⟩
theorem test_witness_fillh_move : let m : CopyCmd := { instr := .fillh 0 0 3 1, h := 3 }
    ((onCore { coreH with c0 := { queue := [m] } }).engine 0 0).queue = m :: [] ∧ m.moved = false ∧ m.fault = none ∧ ∃ bt g h a, m.instr = .fillh bt g h a :=
  ⟨by decide +kernel, rfl, rfl, _, _, _, _, rfl⟩

/-- CopyCommandsComplete: a moved fill; a moved drain; a moved SACC; a SEND from core 0 to core 1, whose handle takes it whole. -/
theorem test_witness_copy_complete : let f : CopyCmd := { instr := .fillh 0 0 3 1, h := 3, moved := true }
    let d : CopyCmd := { instr := .copyo 0 0 4 1 0 0, h := 4, inbound := false, moved := true }
    let a : CopyCmd := { instr := .sacc 0 4 6 1 5, h := 4, dest := 6, inbound := false, moved := true }
    let x : CopyCmd := { instr := .send 0 0 1 4 2, h := 4, dest := 1, rank := 1, inbound := false }
    let s := onCore { coreH with c0 := { queue := [f] }, c1 := { queue := [d] } }
    let w : State := { onCore { coreH with c1 := { queue := [x] }, launch := some { errand := 5, size := 8 } } with hub := { State.reset.hub with
      crews := [{ errand := 5, prio := 0, gang := false, kernel := {}, clusters := [0] }] } }
    let w := { w with cores := w.cores.set 1 { coreH with launch := some { errand := 5, rank := 1, size := 8 } } }
    (s.engine 0 0).queue = [f] ∧ (s.core 0).matrix.fetches = [] ∧ ((s.core 0).handle 3).fetch = false ∧ (s.engine 0 1).queue = [d] ∧ f.h ≠ d.h
      ∧ ((onCore { coreH with c0 := { queue := [a] } }).engine 0 0).queue = [a]
      ∧ s.hub.egress = [] ∧ (w.engine 0 0).queue = [] ∧ x.toRing = false ∧ (w.engine 0 1).queue = [x] ∧ w.coreOfRank 0 x.rank = some 1 ∧ (w.core 1).status ≠ .contained
      ∧ ((w.core 0).handle 4).size.toNat ≤ ((w.core 1).handle 1).size.toNat ∧ ((w.core 1).handle 1).st = 0 ∧ ((w.core 1).handle 1).o = 1 := by
  decide +kernel

/-! ### Hypotheses of the statements about errands, ports, clerks and the hub -/

def head1 : StepHead := ⟨1, 1⟩

/-- Errand 1 comes to step `i`: nothing is in flight, and the barrier bit does not hold it. -/
theorem atStep_running (i : Instr) (h : Hub → Hub) (he : ∀ b, (h b).errands = b.errands) : (onHub running h).AtStep head1 i := by
  have e : (onHub running h).errand head1.errand = running := by
    show (h _).errands[1] = running
    simp only [he]; rfl
  exact {
    state := by rw [e]; rfl, reason := by rw [e]; rfl, saving := by rw [e]; rfl, kill := by rw [e]; rfl, fetchFault := by rw [e]; rfl
    waitFault := by rw [e]; rfl, waitStep := by rw [e]; rfl, next := by rw [e]; decide
    launch := by rw [e]; intro x m; cases m
    bar := by rw [e]; intro _; rfl
    loft := by rw [e]; intro _ x m; cases m }

/-- The last step that there is, with a step in flight and no barrier. -/
def busy (x : StepInFlight) : Errand := { running with next := 2 ^ 20 - 1, inflight := [x] }
theorem atStep_busy (i : Instr) (x : StepInFlight) (hx : isLaunch x.instr = false) (hi : isLaunch i = false)
    (h1 : ∀ k, i ≠ .joinpt k) (h2 : ∀ k, i ≠ .endStep k) : (onHub (busy x) id).AtStep ⟨1, 0⟩ i := by
  have e : (onHub (busy x) id).errand (⟨1, 0⟩ : StepHead).errand = busy x := rfl
  exact {
    state := by rw [e]; rfl, reason := by rw [e]; rfl, saving := by rw [e]; rfl, kill := by rw [e]; rfl, fetchFault := by rw [e]; rfl
    waitFault := by rw [e]; rfl, waitStep := by rw [e]; rfl, next := by rw [e]; show 2 ^ 20 - 1 < 2 ^ 20; decide
    launch := by rw [e]; intro y m; cases m with | head => exact hx | tail _ m => cases m
    bar := by
      rintro (h | ⟨k, h⟩ | ⟨k, h⟩)
      · cases h
      · exact absurd h (h1 k)
      · exact absurd h (h2 k)
    loft := by intro h; rw [hi] at h; cases h }

/-- ErrandSteps: the steps with no further hypothesis. -/
theorem test_witness_steps_plain : (onHub running id).AtStep head1 (.nop head1) ∧ (onHub running id).AtStep head1 (.goto head1 0xFFFFF)
    ∧ (onHub running id).AtStep head1 (.joinpt head1) ∧ (onHub running id).AtStep head1 (.endStep head1) :=
  ⟨atStep_running _ _ fun _ => rfl, atStep_running _ _ fun _ => rfl, atStep_running _ _ fun _ => rfl, atStep_running _ _ fun _ => rfl⟩

/-- WAIT on a step (in flight as step 3, and not), and on a memory word, met and not, with a step in flight and with none. -/
theorem test_witness_step_wait : let x : StepInFlight := { index := 3, instr := .xfer ⟨1, 0⟩ 0 0 1 }
    let i (st : BitVec 20) : Instr := .wait ⟨1, 0⟩ 1 0 0 st 0 0 0
    let w (v : DWord) : Instr := .wait ⟨1, 0⟩ 0 0 1 0 0x20000 v 0xFF
    (∀ st, (onHub (busy x) id).AtStep ⟨1, 0⟩ (i st)) ∧ (∀ v, (onHub (busy x) id).AtStep ⟨1, 0⟩ (w v)) ∧ (∀ v, (onHub running id).AtStep head1 (w v))
      ∧ (∀ y ∈ (busy x).inflight, y.index ≠ (4 : BitVec 20).toNat) ∧ (∃ y ∈ (busy x).inflight, y.index = (3 : BitVec 20).toNat)
      ∧ (onHub running id).vread 0 0x20000 8 = .ok (List.replicate 8 0) ∧ meets 0 0 0 ∧ ¬meets 0 0 1 ∧ running.inflight = [] := by
  refine ⟨fun _ => atStep_busy _ _ rfl rfl nofun nofun, fun _ => atStep_busy _ _ rfl rfl nofun nofun, fun _ => atStep_running _ _ fun _ => rfl,
    by decide, by decide, by decide +kernel, ?_, ?_, rfl⟩
  · show (if _ then _ else _); rw [if_pos rfl]
  · show ¬(if _ then _ else _); rw [if_pos rfl]; decide

/-- SIGNAL, XFER and LOFT over the last bytes of a page. -/
theorem test_witness_step_moves : (onHub running id).AtStep head1 (.signal head1 1 0x20FF8 5)
    ∧ (onHub running id).AtStep head1 (.xfer head1 0x20FF0 0x30FF0 16) ∧ (onHub running id).AtStep head1 (.loft head1 3 383 0x20FF0 0xFFFF0 16)
    ∧ (onHub running id).AtStep head1 (.loftRel head1 3 383) :=
  ⟨atStep_running _ _ fun _ => rfl, atStep_running _ _ fun _ => rfl, atStep_running _ _ fun _ => rfl, atStep_running _ _ fun _ => rfl⟩
theorem test_witness_step_pages : (onHub running id).translate 0 0x20FF8 true = .hbm 0x20FF8 ∧ (onHub running id).translate 0 0x20FF0 = .hbm 0x20FF0
    ∧ (onHub running id).translate 0 0x30FF0 true = .hbm 0x30FF0 := by decide +kernel
/-- A bay that is free, and one that errand `o` holds: 2 (LOFT waits for nobody, and faults) and 1 (LOFT with REL frees it). -/
theorem test_witness_step_bays : let t (o : RecNo) : Die := { bays := (Vector.replicate 384 none).set 383 (some o) }
    ((onHub running id).die 3).bays.toList.getD 383 none = none ∧ (t 2).bays.toList.getD 383 none = some 2
      ∧ (t 1).bays.toList.getD 383 none = some 1 := by decide +kernel

/-- A kernel of one cluster: its descriptor at 0x20000, an empty launch image at 0x21000. -/
def kernelBytes : Mem :=
  let m := tables.write 0x20000 (leBytes 64 (5 + 2 ^ 160 * 1 + 2 ^ 168 * 1 + 2 ^ 192 * 1))
  let m := m.write 0x20030 (leBytes 8 0x21000)
  m.write 0x21000 (leBytes 8 (1 + 2 ^ 32 * 3640))

/-- LAUNCH: a descriptor that names no clusters; one that can be read, of one cluster, within SAVECL. -/
theorem test_witness_step_launch : (onHub running id).AtStep head1 (.launch head1 0 7 0x20000 0x20100) := atStep_running _ _ fun _ => rfl

/-- A launch image with nothing in it (R388). -/
def imageZeros (n : Nat) : List Byte := List.replicate n 0
def imageBytes : List Byte := [1, 0, 0, 0, 0x38, 0x0E, 0, 0] ++ imageZeros 3632

theorem leNat_zeros (n : Nat) : leNat (imageZeros n) = 0 := by
  induction n with
  | zero => rfl
  | succ n ih =>
    show (0 : Byte).toNat + 256 * leNat (imageZeros n) = 0
    rw [ih]; rfl

theorem imageBytes_field (a n : Nat) (h : 8 ≤ a) : fieldOf imageBytes a n = 0 := by
  obtain ⟨b, rfl⟩ := Nat.exists_eq_add_of_le h
  have e : ((imageBytes.drop (8 + b)).take n) = imageZeros (min n (3632 - b)) := by
    have d : ∀ m, ([1, 0, 0, 0, 0x38, 0x0E, 0, 0] ++ imageZeros m : List Byte).drop (8 + b) = imageZeros (m - b) := by
      intro m
      rw [List.drop_append]
      simp [imageZeros]
    rw [imageBytes, d, imageZeros, List.take_replicate]; rfl
  rw [fieldOf, e, leNat_zeros]

theorem imageBytes_length : imageBytes.length = 3640 := by
  have d : ∀ m, ([1, 0, 0, 0, 0x38, 0x0E, 0, 0] ++ imageZeros m : List Byte).length = 8 + m := by simp [imageZeros]; omega
  rw [imageBytes, d]

theorem imageBytes_parse : (parseImage imageBytes).isSome = true := by
  have z : fieldOf imageBytes 0 4 = 1 := by decide
  have o : fieldOf imageBytes 4 4 = 3640 := by decide
  unfold parseImage
  simp (disch := omega) only [imageBytes_field, imageBytes_length, z, o, imageRecords]
  decide +kernel

theorem kernelBytes_image : { onHub running id with hbm := kernelBytes }.vread 0 0x21000 3640 = .ok imageBytes := by decide +kernel

def kernelState : State := { onHub running id with hbm := kernelBytes }

theorem kernelState_image : kernelState.readImage 1 0x21000 = .ok (some imageBytes) := by
  have h : kernelState.vread (kernelState.errand 1).asid (0x21000 : DWord).toNat 8 = .ok (imageBytes.take 8) := by decide +kernel
  have i : kernelState.vread (kernelState.errand 1).asid (0x21000 : DWord).toNat (fieldOf (imageBytes.take 8) 4 4) = .ok imageBytes := kernelBytes_image
  unfold State.readImage
  rw [if_neg (by decide)]
  simp only [h, Access.bind]
  rw [if_neg (by decide)]
  simp only [i, imageBytes_parse, if_true]

/-- LAUNCH: a descriptor that names no clusters; one of one cluster that can be read, within SAVECL, with a cluster to run on. -/
theorem test_witness_step_kernel : ∃ k, kernelState.readKernel 1 0x20000 0x20100 = .ok (some k) ∧ k.crew ≤ (kernelState.errand 1).savecl.toNat
    ∧ k.crew ≤ kernelState.unfenced.length := by
  have d : kernelState.vread (kernelState.errand 1).asid (0x20000 : DWord).toNat 64 = .ok (kernelBytes.bytes 0x20000 64) := by decide +kernel
  have u : kernelState.vread (kernelState.errand 1).asid (0x20100 : DWord).toNat 256 = .ok (List.replicate 256 0) := by decide +kernel
  have k : kernelOfDescriptor (kernelBytes.bytes 0x20000 64) = some ({ kid := 5, sx := 1, sy := 1, maxred := 1, fitgrow := 8 }, 0, 0x21000) := by
    decide +kernel
  unfold State.readKernel
  simp only [d, u, k, Access.bind, if_true, kernelState_image]
  rw [if_neg (by decide)]
  exact ⟨_, rfl, by decide +kernel, by decide +kernel⟩
theorem test_witness_step_no_kernel : (match (onHub running id).readKernel 1 0x20000 0x20100 with | .ok none => true | _ => false) = true := by
  decide +kernel

/-! ### Hypotheses of the statements about the events of errands and the port operations -/

/-- The eight cores of cluster 0 as given, and errand 1's crew on it. -/
def onCrew (k : Core) (w : Crew) (e : Errand) (h : Hub → Hub) : State :=
  (List.range 8).foldl (fun s i => s.setCore (coreAt 0 i) k) (onHub e fun b => { h b with crews := [w] })

def crew1 : Crew := { errand := 1, prio := 0, gang := false, kernel := { sx := 1, sy := 1 }, clusters := [0] }

/-- ErrandEvents: an XFER that has moved, and a LOFT; an unmet WAIT whose word now holds its value. -/
theorem test_witness_step_completion : let x : StepInFlight := { index := 0xFFFFF, instr := .xfer ⟨1, 0⟩ 0 0 1, started := true, pos := 1, finished := true }
    (onHub (busy x) id).errand 1 = busy x ∧ (busy x).inflight.find? (fun y => y.index == (0xFFFFF : BitVec 20).toNat && y.open) = some x
      ∧ (busy x).state = .running ∧ (busy x).reason = .none ∧ (busy x).waitStep = none := ⟨rfl, by decide, rfl, rfl, rfl⟩
theorem test_witness_wait_poll : let i : Instr := .wait ⟨1, 0⟩ 0 0 1 0 0x20000 0 0xFF
    let e : Errand := { running with waitStep := some (3, i), state := .waiting, reason := .wait }
    e.waitFault = none ∧ e.saving = none ∧ e.killPending = false ∧ e.fetchFault = none ∧ e.inflight = []
      ∧ (onHub e id).vread e.asid 0x20000 8 = .ok (List.replicate 8 0) ∧ meets 0 (leNat (List.replicate 8 0) &&& 0xFF) (0 &&& 0xFF) := by
  refine ⟨rfl, rfl, rfl, rfl, rfl, by decide +kernel, ?_⟩
  show (if _ then _ else _); rw [if_pos rfl]; decide

/-- A cut that every core of the crew is past, and one whose time runs out at this nanosecond. -/
theorem test_witness_cut : let k := { core1 with cut := { asked := some (0, 0), target := some (0, 0), stopped := true }, stopEnded := true }
    let s := onCrew k crew1 { running with cutAsked := some (900000000, true) } id
    (∀ c ∈ crew1.cores, (s.core c).cut.asked ≠ none ∧ (s.core c).cut.target ≠ none ∧ (s.core c).status = .running
        ∧ (s.core c).cut.stopped = true ∧ (s.core c).stopEnded = true ∧ s.enginesIdle c = true ∧ (s.core c).pend = []
        ∧ (s.core c).request = none ∧ (s.core c).buffer = [] ∧ (s.core c).ctl.quantEnd.toNat ≤ (s.cluster (clusterOf c)).committed)
      ∧ crew1.cores ≠ [] ∧ s.hub.crews = [crew1] ∧ (s.errand 1).cutAsked = some (900000000, true) ∧ (s.errand 1).gang = none
      ∧ 900000000 + 100000000 ≤ s.now ∧ (s.errand 1).port = .a ∧ crew1.killed = false := by decide +kernel

/-- A save whose cores have all stopped, and a launch whose cores have all halted. -/
theorem test_witness_save : let w := { crew1 with stopping := true }
    let s := onCrew { core1 with stopEnded := true } w { running with saving := some .host } id
    (∀ c ∈ w.cores, s.saveStopped c = true ∧ s.quantaDone c = true ∧ (s.core c).stopEnded = true ∧ (s.core c).status = .running)
      ∧ (∀ cl ∈ w.clusters, (s.cluster cl).sacc = []) ∧ s.hub.crews = [w] ∧ s.hub.waiting = [] ∧ (s.errand 1).state = .running
      ∧ (s.errand 1).killPending = false ∧ (s.errand 1).join = none ∧ w.cores ≠ [] ∧ (∀ cl ∈ w.clusters, (s.cluster cl).lease = none) := by decide +kernel
theorem test_witness_launch_over : let s := onCrew { core1 with status := .halted } crew1 running id
    s.launchOver crew1 = true ∧ s.hub.crews = [crew1] ∧ s.hub.waiting = [] ∧ s.hub.colls = [] ∧ crew1.residual = none ∧ crew1.faulted = false
      ∧ (s.errand 1).waitStep = none ∧ (s.errand 1).saving = none ∧ (s.errand 1).cutAsked = none ∧ (s.errand 1).killPending = false
      ∧ (∀ cl ∈ crew1.clusters, (s.cluster cl).lease = none) := by decide +kernel

/-- A port write for errand 1 from CPU 3 with the errand's token. -/
def write1 : PortWrite := ⟨.a, 1, 3, 7⟩


/-- The errand obeys its owner, with a lease that lasts one nanosecond more. -/
theorem obeys_onHub (e : Errand) (t : e.token = 7) (st : e.state ≠ .idle) (w : e.waitStep = none) : (onHub e id).Obeys write1 where
  hears := ⟨rfl, rfl, (by decide : 1000000000 < 1000000001)⟩
  token := by have h : (onHub e id).errand write1.errand = e := rfl
              rw [h]; exact t
  started := by have h : (onHub e id).errand write1.errand = e := rfl
                rw [h]; exact st
  waitStep := by have h : (onHub e id).errand write1.errand = e := rfl
                 rw [h]; exact w

/-- It has no crew, and nothing waits. -/
theorem quiet_onHub (e : Errand) (c : e.cutAsked = none) (v : e.saving = none) (j : e.join = none) : (onHub e id).Quiet 1 where
  crew := by intro w m; cases m
  waiting := rfl
  cut := by have h : (onHub e id).errand 1 = e := rfl
            rw [h]; exact c
  saving := by have h : (onHub e id).errand 1 = e := rfl
               rw [h]; exact v
  join := by have h : (onHub e id).errand 1 = e := rfl
             rw [h]; exact j

/-- A control block at the last 64 bytes of HBM: PROG 0x100000, both rings of 64 records, SAVE, 64 clusters, ASID 4095. -/
def ecbBytes : Mem := tables.write (768 * 10 ^ 9 - 64)
  (leBytes 64 (0x100000 + 2 ^ 64 * 0x200000 + 2 ^ 128 * 0x201000 + 2 ^ 192 * 0x300000 + 2 ^ 256 * 64 + 2 ^ 272 * 4095))

/-- ErrandPortOperations: START of an idle record. -/
theorem test_witness_start : let s := { onHub {} id with hbm := ecbBytes }
    let ecb := 768 * 10 ^ 9 - 64
    let f := fun o n => s.hbm.num (ecb + o) n
    s.hub.ready = true ∧ s.hub.active = some .a ∧ s.now < s.hub.leaseEnd ∧ (s.errand 1).state = .idle ∧ ecb % 64 = 0 ∧ ecb + 64 ≤ 768 * 10 ^ 9
      ∧ f 0 8 % 32 = 0 ∧ f 0 8 < 2 ^ 57 ∧ (f 8 8 < 2 ^ 57 ∧ f 8 8 / 16 % 4 = 0) ∧ (f 16 8 < 2 ^ 57 ∧ f 16 8 / 16 % 4 = 0) ∧ f 24 8 % 4096 = 0
      ∧ f 24 8 < 2 ^ 52 ∧ 1 ≤ f 32 2 ∧ f 32 2 ≤ 64 ∧ f 34 2 < 4096 ∧ f 36 28 = 0 := by decide +kernel

/-- JOIN of a running and of a finished errand; PARK, CUT, KILL and the gang operations of a quiet one; RESUME and ADOPT of a parked one. -/
theorem test_witness_obeys : (onHub running id).Obeys write1 ∧ (onHub running id).Quiet 1
    ∧ (onHub { running with state := .done } id).Obeys write1 ∧ (onHub { running with state := .parked, reason := .host } id).Obeys write1
    ∧ (onHub { running with state := .parked, reason := .host } id).Quiet 1 ∧ (onHub { running with state := .waiting, reason := .joinpt } id).Obeys write1
    ∧ (onHub { running with state := .waiting, reason := .joinpt } id).Quiet 1 ∧ (onHub { running with state := .parked, reason := .gang } id).Obeys write1
    ∧ (onHub { running with state := .parked, reason := .gang } id).Quiet 1 :=
  ⟨obeys_onHub _ rfl nofun rfl, quiet_onHub _ rfl rfl rfl, obeys_onHub _ rfl nofun rfl, obeys_onHub _ rfl nofun rfl, quiet_onHub _ rfl rfl rfl,
    obeys_onHub _ rfl nofun rfl, quiet_onHub _ rfl rfl rfl, obeys_onHub _ rfl nofun rfl, quiet_onHub _ rfl rfl rfl⟩
theorem test_witness_join : (0x20FF8 : DWord).toNat % 8 = 0 ∧ (onHub { running with state := .done } id).translate 0 0x20FF8 true = .hbm 0x20FF8
    ∧ failedOver running = false ∧ running.reap = false ∧ running.inGangLaunch = false := by decide +kernel
/-- A gang of this errand alone, and one with no member. -/
theorem gang_onHub (e : Errand) (g : Word) (r : RecNo) : (((onHub e id).errand r).gang == some g) = (r == 1 && e.gang == some g) := by
  by_cases h : r = 1
  · subst h; rfl
  · have n : (1 : Nat) ≠ r.toNat := fun q => h (BitVec.eq_of_toNat_eq q.symm)
    have z : (onHub e id).errand r = {} := by
      show (State.reset.hub.errands.set 1 e)[r.toNat] = {}
      rw [Vector.getElem_set_ne _ _ n]
      show (Vector.replicate 2048 ({} : Errand))[r.toNat] = {}
      rw [Vector.getElem_replicate]
    have f : (r == 1) = false := by simpa using h
    rw [z, f]; rfl
theorem test_witness_gang : (onHub { running with gang := some 9, state := .parked, reason := .gang } id).gangMembers 9 = [1]
    ∧ (onHub running id).gangMembers 9 = [] := by
  simp only [State.gangMembers, gang_onHub]; decide +kernel
/-- GANG STOP of a gang that has been pre-empted, and one that spans packages. -/
theorem test_witness_gang_stop : let e : Errand := { running with gang := some 9, state := .parked, reason := .preempt }
    (onHub e id).Obeys write1 ∧ (onHub e id).Quiet 1 ∧ (onHub e id).gangMembers 9 = [1] ∧ (onHub e id).hub.spanning.contains 9 = false
      ∧ (onHub e fun b => { b with spanning := [9] }).hub.spanning.contains 9 = true ∧ (onHub e id).hub.stopped ≠ [9] := by
  refine ⟨obeys_onHub _ rfl nofun rfl, quiet_onHub _ rfl rfl rfl, ?_⟩
  simp only [State.gangMembers, gang_onHub]; decide +kernel
/-- ADOPT of an errand that a failover parked; a wrong token; the standby port. -/
theorem test_witness_adopt : let e : Errand := { running with state := .parked, reason := .failover }
    (onHub e id).Hears .a ∧ (onHub e id).Quiet 1 ∧ e.waitStep = none ∧ e.adoptTo = (.running, .none) ∧ running.token ≠ 8 ∧ failedOver running = false
      ∧ (onHub running id).hub.active ≠ some .b :=
  ⟨⟨rfl, rfl, (by decide : 1000000000 < 1000000001)⟩, quiet_onHub _ rfl rfl rfl, rfl, rfl, by decide, by decide, by decide⟩
/-- PARK and PARK with CUT of an errand whose crew runs. -/
theorem test_witness_park : let s := onCrew core1 crew1 running id
    s.hub.crews = [crew1] ∧ crew1.errand = 1 ∧ crew1.stopping = false ∧ (s.errand 1).cutAsked = none ∧ (s.errand 1).saving = none ∧ crew1.cores.Nodup
      ∧ s.hub.ready = true ∧ s.hub.active = some .a ∧ s.now < s.hub.leaseEnd ∧ (s.errand 1).token = 7 ∧ (s.errand 1).waitStep = none := by decide +kernel

/-- HubPortOperations: a steward of the errand's address space; a sequencer held for an ACK of class 6. -/
theorem test_witness_orphan_ack : let f : HeldFault := { cls := 6, seq := 0xFFFFFF }
    (onHub running fun b => { b with stewards := [(0, 9, 4)] }).hub.stewards.find? (fun x => x.1 == running.asid) = some (running.asid, 9, 4)
      ∧ (onHub { running with fetchFault := some f } id).Obeys write1 ∧ f.file = none ∧ ({ running with fetchFault := some f } : Errand).inflight = [] :=
  ⟨by decide, obeys_onHub _ rfl nofun rfl, rfl, rfl⟩
/-- RENEW where no port holds the lease; a clerk switch whose image is no image, of a clerk that is idle; the last arena and the last grant. -/
theorem test_witness_hub_writes : let s := onHub running fun b => { b with active := none }
    let t := onHub running id
    s.hub.ready = true ∧ s.hub.active = none ∧ t.led = true ∧ (7 : BitVec 3) ≠ 0 ∧ t.hub.clerkOpen 7 = true ∧ t.hub.clerkAsk.getLsbD 7 = false
      ∧ t.imageOk (0xFFFFFFFFFF * 4096) = false ∧ t.hub.inFlight 7 = false ∧ t.hub.calls = [] ∧ 4095 < 4096 ∧ 2047 < 2048 := by decide +kernel

/-- A call of errand 1 from core 0 with number 5 and the given arguments; its reply goes to handle 1. -/
def callOf (cap : BitVec 3) (args : List Nat) : Call :=
  { errand := 1, core := 0, cap := cap, reply := 1, block := BitVec.ofNat 512 (5 + (args.zipIdx.map fun a => 2 ^ (64 * (a.2 + 1)) * a.1).sum) }
def ref1 : CallRef := ⟨0, 1, 5⟩

/-- That call alone at the wicket, of a crew that runs. -/
def atWicket (c : Call) : State := onCrew core1 crew1 running fun b => { b with wicket := [c] }

theorem calls_atWicket (cap : BitVec 3) (args : List Nat) {i : Option Instr} (a : (callOf cap args).asks = i)
    (o : (onHub running id).hub.clerkOpen cap = true) : (atWicket (callOf cap args)).Calls i (callOf cap args) [] where
  wicket := rfl
  calls := rfl
  asks := a
  fresh := ⟨rfl, rfl, rfl, rfl⟩
  clerk := o
  key := rfl
  room := by show ([] : List JournalEntry).length < 2 ^ 20; decide
  crew := rfl
  core := by show CoreStatus.running ≠ .contained; decide

/-- ClerkCalls: FILE of one page, and of a length that is no whole page. -/
theorem test_witness_call_file : (atWicket (callOf 1 [0, 3, 0x20000, 4096])).Calls (some (.fileRead ref1 3 0x20000 4096)) (callOf 1 [0, 3, 0x20000, 4096]) []
    ∧ (atWicket (callOf 1 [1, 3, 0x20000, 4095])).Calls (some (.fileWrite ref1 3 0x20000 4095)) (callOf 1 [1, 3, 0x20000, 4095]) []
    ∧ (atWicket (callOf 1 [2, 3, 0, 4096])).Calls (some (.fileFlush ref1 3 4096)) (callOf 1 [2, 3, 0, 4096]) [] :=
  ⟨calls_atWicket _ _ (by decide +kernel) (by decide +kernel), calls_atWicket _ _ (by decide +kernel) (by decide +kernel),
    calls_atWicket _ _ (by decide +kernel) (by decide +kernel)⟩
/-- A page cache of four entries at 0x50000: page 3 is in frame 0x60000, and dirty. -/
def pageState (w : Nat) : State := { onHub running (fun b => { b with bar0 := [(0x2000, 0x8001), (0x5000, 0x50000), (0x5008, 4)] }) with
  hbm := tables.write 0x50030 (leBytes 8 w) }
theorem test_witness_file_page : (pageState 0x60012).filePage 3 = .ok (0x60000, 0x50030) ∧ (pageState 0x60012).pageEntry 3 = some 0x50030
    ∧ (pageState 0x60012).translate 0 0x20000 true = .hbm 0x20000 ∧ ((pageState 0x60001).hbm.read 0x50030).toNat % 4 = 1
    ∧ (pageState 0x60001).pageEntry 3 = some 0x50030
    ∧ (pageState 0x60012).pageEntry 4 = none := by decide +kernel
/-- ALLOC of the whole arena, one that does not fit, an alignment that is none, and FREE. -/
theorem test_witness_call_alloc : (atWicket (callOf 3 [0, 64, 64])).Calls (some (.allocCall ref1 64 64)) (callOf 3 [0, 64, 64]) []
    ∧ (atWicket (callOf 3 [1, 64])).Calls (some (.allocFree ref1 64)) (callOf 3 [1, 64]) [] :=
  ⟨calls_atWicket _ _ (by decide +kernel) (by decide +kernel), calls_atWicket _ _ (by decide +kernel) (by decide +kernel)⟩
theorem test_witness_alloc_fits : (64 = 2 ^ 6 ∧ 2 ^ 21 = 2 ^ 21 ∧ ¬∃ p, 6 ≤ p ∧ p ≤ 21 ∧ 65 = 2 ^ p) ∧ (∃ a, a % 64 = 0 ∧ 128 ≤ a ∧ a + 64 ≤ 128 + 64)
    ∧ (¬∃ a, a % 64 = 0 ∧ 128 ≤ a ∧ a + 65 ≤ 128 + 64) ∧ (∃ x ∈ [((0 : BitVec 12), 64, 64)], x.1 = 0 ∧ x.2.1 = 64) := by
  refine ⟨⟨rfl, rfl, ?_⟩, ⟨128, by decide⟩, ?_, by decide⟩
  · rintro ⟨p, h1, h2, h3⟩
    have : ∀ q < 22, 6 ≤ q → 65 ≠ 2 ^ q := by decide
    exact this p (by omega) h1 h3
  · rintro ⟨a, _, h1, h2⟩; omega
/-- TIME, PRINT of 40 bytes and of 41, NOTIFY, STATUS, and a call that asks for nothing. -/
theorem test_witness_calls : (atWicket (callOf 4 [])).Calls (some (.timeCall ref1)) (callOf 4 []) []
    ∧ (atWicket (callOf 5 [0x40000, 40])).Calls (some (.printCall ref1 0x40000 40 (callOf 5 [0x40000, 40]).text)) (callOf 5 [0x40000, 40]) []
    ∧ (atWicket (callOf 6 [0x20FF8, 9])).Calls (some (.notifyCall ref1 0x20FF8 9)) (callOf 6 [0x20FF8, 9]) []
    ∧ (atWicket (callOf 7 [4, 1])).Calls (some (.statusCall ref1 4 1)) (callOf 7 [4, 1]) [] ∧ (atWicket (callOf 1 [3])).Calls none (callOf 1 [3]) [] :=
  ⟨calls_atWicket _ _ (by decide +kernel) (by decide +kernel), calls_atWicket _ _ (by decide +kernel) (by decide +kernel),
    calls_atWicket _ _ (by decide +kernel) (by decide +kernel), calls_atWicket _ _ (by decide +kernel) (by decide +kernel),
    calls_atWicket _ _ (by decide +kernel) (by decide +kernel)⟩
/-- PRINT into a ring of 64 records at 0x40000 with nothing in it, at once and after its record; full after 64. -/
theorem test_witness_print_ring : (onHub running id).translate 0 0x40000 = .hbm 0x40000 ∧ (onHub running id).translate 0 0x40040 true = .hbm 0x40040
    ∧ { onHub running id with hbm := tables.write 0x40040 (leBytes 8 40 ++ List.replicate 56 0) }.translate 0 0x40000 true = .hbm 0x40000
    ∧ ((64 : Nat) + 2 ^ 64 - 0) % 2 ^ 64 = 2 ^ (0 + 6) ∧ ((0 : Nat) + 2 ^ 64 - 0) % 2 ^ 64 ≠ 2 ^ (0 + 6) := by decide +kernel
/-- STATUS: a call that is done, one refused, one not done; and one that there never was. -/
theorem test_witness_journal : let j : List JournalEntry := [⟨1, 4, .done 0, none⟩, ⟨1, 5, .refused, none⟩, ⟨1, 6, .notDone, some 7⟩]
    j.find? (fun x => x.cap.toNat == 1 && x.callno == 4) = some ⟨1, 4, .done 0, none⟩ ∧ j.find? (fun x => x.cap.toNat == 1 && x.callno == 5) = some ⟨1, 5, .refused, none⟩
      ∧ j.find? (fun x => x.cap.toNat == 1 && x.callno == 6) = some ⟨1, 6, .notDone, some 7⟩ ∧ j.find? (fun x => x.cap.toNat == 2 && x.callno == 4) = none := by
  decide +kernel

/-- DECODE: tiles of 8 by 8 and of 1,024 pixels a side, a format that is none, a core of the crew and none, a ring that takes its tiles. -/
def coreT : Core := { core1 with
  handles := core1.handles.set 63 { base := 0x6000, size := 128, ring := some 7 }
  rings := core1.rings.set 7 (some { f := 63, l := 1, out := false }) }
def decodeArgs (dst tile : Nat) : Call := callOf 2 [0x20000, 64, dst, tile, 0]
theorem test_witness_call_decode : (atWicket (decodeArgs (7 * 2 ^ 10 + 7) (8 + 2 ^ 16 * 8))).Calls
    (some (.decodeCall ref1 0x20000 64 (7 * 2 ^ 10 + 7) (8 + 2 ^ 16 * 8) 0)) (decodeArgs (7 * 2 ^ 10 + 7) (8 + 2 ^ 16 * 8)) [] :=
  calls_atWicket _ _ (by decide +kernel) (by decide +kernel)
def job1 (rank : Nat) : DecodeJob :=
  { call := { decodeArgs (7 * 2 ^ 10 + rank) (8 + 2 ^ 16 * 8) with running := true }, ring := 7, rank := rank, fmt := 0, planes := false, tw := 8, th := 8, limit := 0 }
def decodeState (f : Hub → Hub) : State := onCrew coreT crew1 running f
theorem test_witness_decode_core : (decodeState id).decodeCore (job1 7) = some 7 ∧ (decodeState id).decodeCore (job1 8) = none
    ∧ ((decodeState id).core 7).ringTakes 7 (8 * 8 * 2) = true ∧ ((decodeState id).core 7).ringTakes 6 (8 * 8 * 2) = false
    ∧ (3 * 2 ^ 13) / 2 ^ 13 % 4 = 3 ∧ (decodeState id).hub.decodeQueue.length < 1024 := by decide +kernel

/-- ClerkCalls, DECODE of a parked errand: the call asks, the errand has no crew, and of its saved cores one has the ring and one has not. -/
theorem test_witness_decode_parked : let v : SavedCrew := { on := [0], cores := [core1, coreT], clusters := [] }
    let q : LaunchReq := { errand := 1, prio := 0, gang := false, kernel := {}, saved := some v }
    let s := onHub running fun b => { b with wicket := [decodeArgs (7 * 2 ^ 10 + 1) (8 + 2 ^ 16 * 8)], waiting := [q] }
    s.Asks (some (.decodeCall ref1 0x20000 64 (7 * 2 ^ 10 + 1) (8 + 2 ^ 16 * 8) 0)) (decodeArgs (7 * 2 ^ 10 + 1) (8 + 2 ^ 16 * 8)) []
      ∧ s.crewOfErrand 1 = none ∧ s.hub.waiting = [q] ∧ q.saved = some v ∧ v.cores[1]? = some coreT ∧ coreT.ringTakes 7 (8 * 8 * 2) = true
      ∧ v.cores[0]? = some core1 ∧ core1.ringTakes 7 (8 * 8 * 2) = false ∧ s.decodeParked 1 = true ∧ (decodeState id).decodeParked 1 = false := by
  refine ⟨⟨rfl, rfl, by decide +kernel, ⟨rfl, rfl, rfl, rfl⟩, by decide +kernel, rfl, ?_⟩, by decide +kernel⟩
  show ([] : List JournalEntry).length < 2 ^ 20; decide

/-- CallEvents: a clerk that has drained for 10 ms; a job at the queue's head and a free decoder; a tile for a FREE handle; a job's end. -/
theorem test_witness_clerk_timeout : let s := onHub running fun b => { b with clerkSt := b.clerkSt.set 7 1, clerkAt := b.clerkAt.set 7 990000000 }
    s.led = true ∧ s.hub.clerk 7 = 1 ∧ s.hub.clerkAt[7] + 10000000 ≤ s.now := by decide +kernel
theorem test_witness_decode_start : let s := decodeState fun b => { b with decodeQueue := [job1 7] }
    s.hub.decodeQueue = [job1 7] ∧ s.hub.decoders[0] = none ∧ s.decodeParked (job1 7).call.errand = false := by decide +kernel

/-- The 64 bytes of a stream at 0x20000: a frame of 64 by 64 pixels without residual, and one whose OBU is longer than the stream (R411). -/
def streamBytes : List Byte :=
  [18, 0, 10, 9, 0, 0, 0, 2, 175, 255, 128, 0, 136, 50, 7, 16, 30, 0, 0, 0, 151, 254, 18, 0, 50, 255, 3, 16, 30] ++ List.replicate 35 0
def streamState : State := { decodeState id with hbm := tables.write 0x20000 streamBytes }
/-- The frame that comes next in it after `st`. -/
def upNext (st : Av1Stream) : Option CodedFrame :=
  match streamState.upcoming { job1 7 with stream := st } with
  | .ok (.frame x) => some x
  | _ => none
/-- R373, R411: the first frame's samples are half the range, and the second is cut off; its stream is then over. -/
theorem test_decode_stream : (upNext {}).map (fun x => (x.cut, x.stream.bytes.length)) = some (false, 22)
      ∧ ((upNext {}).bind fun x => x.header.map fun h => [h.width, h.height]) = some [64, 64]
      ∧ ((upNext {}).bind fun x => x.header.map fun h => [h.existing.isNone, h.key, h.shown]) = some [true, true, true]
      ∧ ((upNext {}).bind fun x => x.header.bind x.flat) = some 128
      ∧ (((upNext {}).bind fun x => upNext x.stream).map fun x => (x.cut, x.stream.bytes.length)) = some (true, 64) := by decide +kernel
/-- A frame of 9 by 8 pixels, so of two tiles of 8 by 8, all of 128. -/
def frame1 : FrameData := { width := 9, height := 8, depth := 8, mono := true, flat := some 128, source := [] }
/-- Its first tile for a FREE handle of a core of the crew; its last ends a job of one frame. R373, R412: a sample of 128 is 128.0 in BF16, and the
pixels past the frame's edge are zeros. -/
theorem test_witness_decode_tile : let x : FrameInHand := { frame := frame1, corrupt := true }
    let j : DecodeJob := { job1 7 with frame := some x, limit := 1 }
    let s := decodeState fun b => { b with decoders := b.decoders.set 15 (some j) }
    let hd := (s.core 7).handle (BitVec.ofNat 6 (63 + 0))
    s.hub.decoders[15] = some j ∧ j.call.fault = none ∧ (j.cut frame1)[0]? = some (0, 0, 0) ∧ (j.cut frame1)[1]? = some (0, 1, 0)
      ∧ s.decodeCore j = some 7 ∧ (s.core 7).status ≠ .contained ∧ (s.core 7).ringTakes j.ring.toNat (8 * 8 * 2) = true
      ∧ (s.core 7).ring 7 = some { f := 63, l := 1, out := false } ∧ hd.st = 0 ∧ hd.o = 1 ∧ ¬(j.cut frame1).length ≤ 0 + 1
      ∧ (j.cut frame1).length ≤ 1 + 1 ∧ (j.tileBytes { x with corrupt := false } (0, 1, 0)).take 4 = [0, 0x43, 0, 0] := by
  decide +kernel
/-- Frames as the job takes them: the stream's own; one whose header cannot be read; one that shows an existing frame, there and not there; one
that references a corrupt frame. -/
theorem test_witness_decode_frames : let r : Av1Ref := { frame := frame1, corrupt := true, key := true, showable := true, orderHint := 0 }
    let st : Av1Stream := { refs := (Vector.replicate 8 none).set 7 (some r) }
    (job1 7).frame = none ∧ (upNext {}).isSome = true ∧ (upNext { lost := true }) = none ∧ (upNext { bytes := streamBytes.take 13 }).map (·.header) = some none
      ∧ (st.refs[7]?).join = some r ∧ r.corrupt = true ∧ (st.refs[6]?).join = none ∧ Av1.flatBlock [] = false := by decide +kernel
theorem test_witness_decode_end : let c := (job1 7).call
    let s := decodeState fun b => { b with decoders := b.decoders.set 15 (some (job1 7)), calls := [c] }
    s.hub.decoders[15] = some (job1 7) ∧ c.fault = none ∧ s.hub.calls = [c] ∧ c.cap = 2 ∧ c.answer = none ∧ c.lost = false ∧ (job1 7).frame = none
      ∧ (s.crewOfErrand c.errand).isSome = true ∧ (s.core c.core).status ≠ .contained ∧ s.hub.clerkOpen 2 = true
      ∧ (match streamState.upcoming { job1 7 with stream := { bytes := streamBytes } } with | .ok .ended => true | _ => false) = true
      ∧ (match { decodeState id with hbm := tables.write 0x20000 ([10, 9, 128, 0, 0, 2, 175, 255, 128, 0, 136] ++ List.replicate 53 0) }.upcoming (job1 7) with
          | .ok .unsupported => true | _ => false) = true := by decide +kernel
/-- Pages held: a core whose fetch waits for page 3. -/
theorem test_witness_page_held : let f : HeldFault := { file := some 3 }
    (onCore { core0 with fetchFault := some f, hold := .fetch }).me.fetchFault = some f ∧ f.file = some 3
      ∧ (onCore { core0 with fetchFault := some f, hold := .fetch }).me.hold = .fetch := by decide +kernel

/-! ### Hypotheses of the statements about steps, cores, clusters and the package -/

/-- A core of errand 1's address space at 0x100000, where a bundle holds the words given. -/
def coreAtCode : Core := { core1 with pc := 0x100000 }
def coded (k : Core) (words : List Nat) : State :=
  let s := onHub {} id
  { s with cores := s.cores.set 0 k, hbm := tables.write 0x100000 (words.flatMap (leBytes 4)) }

theorem coded_core (k : Core) (ws : List Nat) : (coded k ws).core 0 = k := rfl

/-- The same with the bundle's words in core 0's instruction cache, and its page in the cluster's translation cache. -/
def cachedCode (k : Core) (ws : List Nat) : State :=
  let k := { k with icache := ws.zipIdx.map fun w => { mem := 0, addr := 0x100000 + 4 * w.2, word := w.1 } }
  let s := coded k ws
  s.updCluster 0 fun y => { y with tlb := (s.walked 0 0x100000).toList }

/-- A core that comes to that bundle: held as `hd`, with the registers `s`. -/
def comes (hd : Hold) (s : Vector DWord 32) : Core := { coreAtCode with hold := hd, s := s }
def cachedAt (sl : Slot) (w : Nat) (hd : Hold) (s : Vector DWord 32) : State := cachedCode (comes hd s) [2 ^ sl.index, w]

theorem cachedAt_core (sl : Slot) (w : Nat) (hd : Hold) (s : Vector DWord 32) : (cachedAt sl w hd s).core 0
    = { comes hd s with icache := ([2 ^ sl.index, w].zipIdx.map fun w => { mem := 0, addr := 0x100000 + 4 * w.2, word := w.1 } : List CodeWord) } := rfl

/-- Core 0 comes to a bundle of one word, which its caches hold. -/
theorem atCached (sl : Slot) (w : Nat) (hd : Hold) (s : Vector DWord 32) (hw : w < 2 ^ 31)
    (h : (cachedAt sl w hd s).codeAt 0 0 = .ok (2 ^ sl.index)) (h' : (cachedAt sl w hd s).codeAt 0 1 = .ok w) (f : Fetched)
    (e : (cachedAt sl w hd s).fetch = .bundle f) (m : (cachedAt sl w hd s).codeMisses f = []) (x : f.crosses = false)
    (p : ∀ va ∈ (Fetch.bundle f).pages (cachedAt sl w hd s).me.pc,
      (cachedPage ((cachedAt sl w hd s).cluster (cachedAt sl w hd s).myCluster).tlb (cachedAt sl w hd s).me.theLaunch.asid va).isSome = true) :
    (cachedAt sl w hd s).AtCached 0 sl w none hd where
  status := by rw [cachedAt_core]; rfl
  restart := by rw [cachedAt_core]; rfl
  fetchFault := by rw [cachedAt_core]; rfl
  records := by rw [cachedAt_core]; exact ringClear_of _ _ rfl
  pending := by rw [cachedAt_core]; rfl
  reload := by rw [cachedAt_core]; intro r; cases r
  cut := by rw [cachedAt_core]; rfl
  save := by intro w m; cases m
  hold := by rw [cachedAt_core]; rfl
  pend := by rw [cachedAt_core]; rfl
  issue := by rw [cachedAt_core]; rfl
  stop := by rw [cachedAt_core]; rfl
  restarted := by rw [cachedAt_core]; rfl
  returned := by rw [cachedAt_core]; rfl
  turn := by rw [cachedAt_core]; exact Nat.zero_le _
  sticky := by rw [cachedAt_core]; rfl
  room := by rw [cachedAt_core]; show (0x100000 : DWord).toNat + 12 < 2 ^ 57; decide
  original := by rw [cachedAt_core]; rfl
  header := h
  word := h'
  ext := .inl ⟨rfl, hw⟩
  resident := by
    have c : { cachedAt sl w hd s with cur := 0 } = cachedAt sl w hd s := rfl
    show State.afterFetch _ _ = _
    rw [c, e]; exact State.afterFetch_held m x p

/-- The bundle of word `w` at 0x100000 alone, as fetch meets it. -/
def fetched1 (sl : Slot) (w : Nat) : Fetched := { at_ := 0x100000, header := headerFields (2 ^ sl.index), bad := false, words := [(sl, w, none)], next := 0x100008 }

/-- StepRunsTheDecodedInstruction: a bundle of `li s1, 40`, with nothing held, from the caches and where they are empty; its core's turn; the
routine's; an errand's; each input's. -/
theorem test_witness_bundle : (cachedAt .s 0x0B820028 .none core0.s).AtCached 0 .s 0x0B820028 none .none ∧ decodeSlot .s 0x0B820028 none = .ok (.li 0 1 40) :=
  ⟨atCached _ _ _ _ (by decide) (by decide +kernel) (by decide +kernel) (fetched1 .s 0x0B820028) (by decide +kernel) (by decide +kernel)
    (by decide +kernel) (by decide +kernel), by decide⟩
theorem test_witness_resident : let s := cachedAt .s 0x0B820028 .none core0.s
    let k := s.core 0
    (∀ i < 2, ∃ key ∈ s.codeKey (some (clusterOf 0)) k k.pc i, (cachedWord k.icache key).isSome = true)
      ∧ k.pc.toNat / 4096 = (k.pc.toNat + 4 * 2 - 1) / 4096
      ∧ (∀ va ∈ [k.pc.toNat, k.pc.toNat + 4 * 2 - 1], (cachedPage (s.cluster (clusterOf 0)).tlb k.theLaunch.asid va).isSome = true) := by
  refine ⟨?_, by decide +kernel, by decide +kernel⟩
  intro i h
  match i, h with
  | 0, _ => exact ⟨(0, 0x100000), by decide +kernel, by decide +kernel⟩
  | 1, _ => exact ⟨(0, 0x100004), by decide +kernel, by decide +kernel⟩
/-- R11, R69: a core whose caches are empty takes the bundle's two words as it fetches, and may then issue. -/
theorem test_fetch_fills : let s := coded coreAtCode [2 ^ Slot.s.index, 0x0B820028]
    let t := s.afterFetch s.fetch
    t.me.icache.length = 2 ∧ (t.cluster 0).tlb.length = 1 ∧ t.mayIssue 0 = true ∧ (coreAtCode.arrCtx.isNone && coreAtCode.trapCtx.isNone) = true := by decide +kernel
theorem test_witness_turns : (coded coreAtCode []).agenda = [] ∧ (coded coreAtCode []).whoseTurn = ((0 : CoreNo).toNat, 0) := by decide +kernel
theorem test_witness_turn_micro : let m : Matrix := { running := some microOp, routine := some (routine (Vector.replicate 8 0))
                                                      ustore := Mem.write [] (8 * 9) (leBytes 8 0x9000000000000000) }
    let s := { onMat m with turn := 10 }
    s.whoseTurn = ((0 : CoreNo).toNat, 10) ∧ (s.core 0).matrix.microWord (routine (Vector.replicate 8 0)) = some .uend := by decide +kernel
theorem test_witness_turn_errand : let s := { onHub running id with turn := 64 * 577, hbm := tables.write 0x100000 (leBytes 32 6) }
    s.agenda = [] ∧ s.whoseTurn = (576 + (1 : RecNo).toNat, 0) ∧ (s.errand 1).fetches = true ∧ (s.errand 1).waitStep = none ∧ (s.errand 1).next < 2 ^ 20
      ∧ s.vread (s.errand 1).asid ((s.errand 1).prog + BitVec.ofNat 64 (32 * (s.errand 1).next)).toNat 32 = .ok (leBytes 32 6)
      ∧ decodeStep 1 (leNat (leBytes 32 6)) = .ok (.joinpt ⟨1, 0⟩) := by decide +kernel
theorem test_witness_input : ({ State.reset with agenda := [{ after := 0, ns := 5, input := .op .sliceEnd }] } : State).agenda
    = { after := 0, ns := 5, input := .op .sliceEnd } :: [] ∧ ({ State.reset with agenda := [⟨0, 5, .portWrite .a 4 0 64 0⟩] } : State).agenda
      = ⟨0, 5, .portWrite .a 4 0 64 0⟩ :: [] ∧ ({ State.reset with agenda := [⟨0, 5, .portRead .b 4 8 8⟩] } : State).agenda = ⟨0, 5, .portRead .b 4 8 8⟩ :: [] ∧ (8 : BitVec 12) ≠ 0
    ∧ (let s := { onHub running (fun b => { b with active := none }) with agenda := [⟨0, 5, .renewBoth⟩] }
       s.agenda = ⟨0, 5, .renewBoth⟩ :: [] ∧ s.hub.ready = true ∧ s.hub.active = none) := ⟨rfl, rfl, rfl, by decide, rfl, rfl, rfl⟩

/-- CoreEvents: a pending TRAP and a precise one, with an entry at 0x40 (buffer page 0) and with none; inside a handler already. -/
theorem test_witness_traps : let p : PendingTrap := { source := 5, record := { cause := 0x0B } }
    let k := { core1 with pendingA := [p], ctl := { core1.ctl with trapvec := 0x40 } }
    (k.pendingA = [p] ∧ p.written = false ∧ p.record.cls = 0 ∧ k.status = .running ∧ k.restart = none ∧ k.issue = 0 ∧ k.hold = .none
      ∧ k.theLaunch.residual = none ∧ k.trapCtx = none ∧ k.arrCtx = none) ∧ k.CanEnter ∧ core1.ctl.trapvec.toNat / 16 % 2 ^ 53 = 0
      ∧ ({ k with trapCtx := some {} } : Core).trapCtx ≠ none := by
  unfold Core.CanEnter Core.mayUse; decide +kernel
/-- Results due at this cycle, one and two of them; a timing restart; a containment of a crew's core, and a peer that has waited 10 ms. -/
theorem test_witness_results : let p : Pending := { due := 0, writes := [.s 1 5] }
    (onCore { core1 with pend := [p, p] }).me.pend = [p, p] ∧ p.due ≤ core1.cycleNat ∧ p.events = [] ∧ (onCore { core1 with restart := some 3 }).me.restart = some 3
      ∧ (onCore { core1 with restart := some 3 }).me.pend = [] := by decide +kernel
theorem test_witness_containment : let s := onCrew core1 crew1 running id
    let t := onCrew { core1 with hold := .hwait, holdAt := 990000000 } { crew1 with containedAt := some 990000000 } running id
    let k := { core1 with hold := .bar 2, ctl := { core1.ctl with trapvec := 0x40 } }
    let r := (onCrew core1 crew1 running id).setCore 6 k
    r.core 6 = k ∧ r.crewAt 7 = some crew1 ∧ (∀ e ∈ crew1.cores, e ≠ 7 → e ≠ 6 → (r.core e).hold = .none) ∧ k.CanEnter ∧ s.crewAt 7 = some crew1 ∧ s.hub.crews = [crew1] ∧ s.hub.colls = [] ∧ (s.core 7).status = .running
      ∧ crew1.stopping = false ∧ (6 ∈ crew1.cores ∧ (6 : CoreNo) ≠ 7 ∧ clusterOf 6 = clusterOf 7 ∧ k.hold = .bar 2 ∧ k.status = .running
        ∧ k.theLaunch.residual = none)
      ∧ (∀ d ∈ crew1.cores, (s.core d).hold = .none)
      ∧ t.crewAt 7 = some { crew1 with containedAt := some 990000000 } ∧ (t.core 7).hold ≠ .none ∧ 990000000 + 10000000 ≤ t.now
      ∧ (t.core 7).holdAt + 10000000 ≤ t.now := by
  unfold Core.CanEnter Core.mayUse; decide +kernel
/-- A trap record and a statistics record for rings at 0x40000 with 64 places, empty; STATCFG draining; a window of one cycle that has ended. -/
theorem test_witness_records : let k := { core1 with
      records := [{ cause := 5 }], statRing := [(1, 2)], inForce := { core1.inForce with statcfg := 0x10000, statwin := 1 }
      ctl := { core1.ctl with cycle := 1 }, launch := some { errand := 1, trapring := 0x40000, statring := 0x40000 } }
    let s := { onHub running id with cores := State.reset.cores.set 0 k }
    (k.theLaunch.trapring.toNat / 2 ^ 6 % 2 ^ 51 * 64 = 0x40000 ∧ 2 ^ (k.theLaunch.trapring.toNat % 16 + 6) = 64)
      ∧ s.translate k.theLaunch.asid 0x40000 = .hbm 0x40000 ∧ (s.hbm.num 0x40000 8 + 2 ^ 64 - s.hbm.num 0x40008 8) % 2 ^ 64 ≠ 64
      ∧ s.translate k.theLaunch.asid 0x40040 true = .hbm 0x40040
      ∧ { s with hbm := s.hbm.write 0x40040 (leBytes 8 1 ++ leBytes 8 2) }.translate k.theLaunch.asid 0x40000 true = .hbm 0x40000
      ∧ { s with hbm := s.hbm.write 0x40040 (({ cause := 5 } : TrapRecord).bytes) }.translate k.theLaunch.asid 0x40000 true = .hbm 0x40000
      ∧ k.inForce.statcfg.getLsbD 16 = true ∧ k.launch.isSome = true ∧ k.statStart + k.inForce.statwin.toNat ≤ k.cycleNat
      ∧ core1.inForce.statwin.toNat = 0 := by decide +kernel

/-- CallEvents: an INVOKE of capability 4, granted to errand 1, that waits for room at the wicket. -/
theorem test_witness_wicket_bundle : (cachedAt .s 0x0F401101 .wicket (core0.s.set 1 0x7FFC0)).AtCached 0 .s 0x0F401101 none .wicket :=
  atCached _ _ _ _ (by decide) (by decide +kernel) (by decide +kernel) (fetched1 .s 0x0F401101) (by decide +kernel) (by decide +kernel)
    (by decide +kernel) (by decide +kernel)
theorem test_witness_wicket : let s := cachedAt .s 0x0F401101 .wicket (core0.s.set 1 0x7FFC0)
    let k := s.core 0
    decodeSlot .s 0x0F401101 none = .ok (.invoke 0 1 4 1) ∧ (s.hub.wicket ++ s.hub.calls = []) ∧ (k.readS 1).toNat % 64 = 0
      ∧ k.mayUse (k.readS 1).toNat 64 ∧ 64 ≤ (k.handle 1).size.toNat ∧ (k.handle 1).ring = none ∧ (k.handle 1).st = 0 ∧ (k.handle 1).o = 1
      ∧ s.granted k.theLaunch.errand 4 = true ∧ (s.errand k.theLaunch.errand).journal.length < 2 ^ 20 := by
  unfold Core.mayUse; decide +kernel

/-- HoldReleases: bundles of HWAIT h2 (FULL for the core), of WAITV on yard byte 0 and of MWAIT, each held. -/
theorem test_witness_hwait : (cachedAt .l 0x06010000 .hwait core0.s).AtCached 0 .l 0x06010000 none .hwait
    ∧ decodeSlot .l 0x06010000 none = .ok (.hwait 0 0 0 2) ∧ (coreAtCode.handle 2).st = 2 ∧ (coreAtCode.handle 2).o = 0 ∧ (coreAtCode.handle 2).size ≠ 0 :=
  ⟨atCached _ _ _ _ (by decide) (by decide +kernel) (by decide +kernel) (fetched1 .l 0x06010000) (by decide +kernel) (by decide +kernel)
    (by decide +kernel) (by decide +kernel), by decide, by decide +kernel, by decide +kernel, by decide +kernel⟩
theorem test_witness_waitv : (cachedAt .l 0x07044200 .waitv (core0.s.set 1 0x103FFFFC)).AtCached 0 .l 0x07044200 none .waitv
    ∧ decodeSlot .l 0x07044200 none = .ok (.waitv 0 1 2 0 2) ∧ coreAtCode.arrCtx = none ∧ coreAtCode.buffer = [] ∧ (0x103FFFFC : DWord).toNat % 2 ^ 2 = 0
    ∧ (0x103FFFFC : DWord).toNat + 2 ^ 2 ≤ 0x10400000
    ∧ leNat ((cachedAt .l 0x07044200 .waitv (core0.s.set 1 0x103FFFFC)).yardBytes 0 0x3FFFFC 4) = (core0.readS 2).toNat % 2 ^ 32 :=
  ⟨atCached _ _ _ _ (by decide) (by decide +kernel) (by decide +kernel) (fetched1 .l 0x07044200) (by decide +kernel) (by decide +kernel)
    (by decide +kernel) (by decide +kernel), by decide, rfl, rfl, by decide, by decide, by decide +kernel⟩
theorem test_witness_mwait : (cachedAt .m 0x04000000 .mwait core0.s).AtCached 0 .m 0x04000000 none .mwait
    ∧ decodeSlot .m 0x04000000 none = .ok (.mwait 0) ∧ (cachedAt .m 0x04000000 .mwait core0.s).matrixIdle 0 = true :=
  ⟨atCached _ _ _ _ (by decide) (by decide +kernel) (by decide +kernel) (fetched1 .m 0x04000000) (by decide +kernel) (by decide +kernel)
    (by decide +kernel) (by decide +kernel), by decide, by decide +kernel⟩
/-- MWAIT waits for the array's writes that another die has yet to accept, and for no others of the core (R172). -/
theorem test_mwait_egress : let s (eng : Nat) := onHub running fun b => { b with egress := [{ core := 0, eng := eng, pa := 0, bytes := [1] }] }
    (s 2).matrixIdle 0 = false ∧ (s 1).matrixIdle 0 = true ∧ (s 2).matrixIdle 1 = true := by decide +kernel
/-- A DRAIN of quantum 0, which has committed; latches that load from a handle and from the bench; MAXRED past in a crew that is stopped. -/
theorem test_witness_holds : let s := onCrew { core1 with hold := .drain 3 0 0 0 0 } { crew1 with stopping := true } running id
    (s.core 7).hold = .drain 3 0 0 0 0 ∧ s.drainMet 7 3 0 0 0 0 = true ∧ (s.core 7).pend = [] := by decide +kernel
theorem test_witness_latches : let l : Latch := { loading := true, fmt := 1, k := 16, panel := List.replicate 4096 0, source := { handle := some 2 } }
    let f : Latch := { loading := true, fmt := 1, k := 16, source := { addr := 0x4000 } }
    let s := onMat { latches := ((Vector.replicate 4 {}).set 3 l).set 0 f }
    (s.core 0).matrix.latches[3].loading = true ∧ blockSize l.fmt.toNat = 0 ∧ l.source.handle ≠ none ∧ (s.core 0).matrix.fault = none
      ∧ (s.core 0).matrix.latches[0].loading = true ∧ f.source.handle = none ∧ (s.core 0).ringClear 1 ∧ (s.core 0).matrix.reloading = false := by
  refine ⟨by decide +kernel, by decide, by decide, rfl, by decide +kernel, rfl, ringClear_of _ _ rfl, rfl⟩
theorem test_witness_latch_operand : (match (onMat {}).operand 0 false 0x4000 (16 * 128 * elemBits 1 / 8) with | .ok bs => bs.length == 4096 | _ => false) = true := by
  decide +kernel
theorem test_witness_maxred : let s := onCrew { core1 with ctl := { core1.ctl with cycle := 1 }, issue := 1 } { crew1 with stopping := true } running id
    s.crewStopping 7 = true ∧ s.mustStop 7 = false ∧ (s.core 7).theLaunch.maxred < (s.core 7).cycleNat - (s.core 7).matrix.retiredAt := by decide +kernel

/-- ClusterEvents: eight cores that have ended the quantum, one with a store; a scatter-accumulate command of one word onto the yard's last. -/
theorem test_witness_commit : let s := onCrew { core1 with
      ctl := { core1.ctl with quantEnd := 1 }, buffer := [{ quantum := 1, entries := 1, bytes := [(0x3FFFFF, 5)] }] } crew1 running id
    s.canCommit 0 = true ∧ s.crewHere 0 ≠ [] ∧ (s.cluster 0).committed + 1 = 1 := by decide +kernel
theorem test_witness_sacc : let m : SaccCmd := { core := 7, eng := 0, hi := 1, hv := 2, base := 0x103FFFFC, opc := 5, round := 1 }
    let k := { core1 with handles := (core1.handles.set 1 { base := 0x1000, size := 4, st := 3 }).set 2 { base := 0x2000, size := 4, st := 3 } }
    let s := onCrew k crew1 running id
    let t := s.updCluster 0 fun y => { y with committed := 1, sacc := [m] }
    (t.cluster 0).sacc = [m] ∧ (t.cluster 0).saccRounds < (t.cluster 0).committed ∧ m.round ≤ (t.cluster 0).saccRounds + 1 ∧ m.core = coreAt 0 7 ∧ m.pos = 0
      ∧ ((t.core m.core).handle m.hi).size.toNat = 4 ∧ (m.base.toNat + 4 * (t.core m.core).bench.num 0x1000 4) % 4 = 0
      ∧ m.base.toNat + 4 * (t.core m.core).bench.num 0x1000 4 + 4 ≤ 0x10400000 := by decide +kernel
/-- A barrier that all eight have reached, its quantum committed, and one that has not; a segment with both its parts; a part whose peer is in
another package, and one whose errand is lost. -/
theorem test_witness_barrier : let k := { core1 with hold := .bar 7, arrivals := (Vector.replicate 8 []).set 7 [(40, 1)] }
    let s := (onCrew k crew1 running id).updCluster 0 fun y => { y with committed := 1 }
    7 ∈ s.participants 0 ∧ (s.core 7).hold = .bar 7 ∧ (∀ d ∈ s.participants 0, (s.core d).arrivals[7] = [(40, 1)]) ∧ 1 ≤ (s.cluster 0).committed
      ∧ s.barrierMet 0 7 7 = true ∧ 40 + 4 < 2 ^ 64 ∧ 8 ∉ s.participants 0 ∧ (onCrew k crew1 running id).barrierMet 0 7 7 = false := by decide +kernel
def part (c : CoreNo) (r : Nat) : CollPart := { core := c, eng := 0, hs := 2, hd := 1, desc := collDesc r, data := List.replicate 4 1 }
theorem test_witness_coll : (onHub running fun b => { b with colls := [part 0 0, part 8 1] }).hub.colls = [part 0 0, part 8 1]
    ∧ CollDesc.group (part 0 0).desc = 9 ∧ CollDesc.group (part 8 1).desc = 9 ∧ CollDesc.seg (part 0 0).desc = 4 ∧ CollDesc.seg (part 8 1).desc = 4
    ∧ CollDesc.rank (part 0 0).desc = 0 ∧ CollDesc.rank (part 8 1).desc = 1 ∧ CollDesc.npart (part 0 0).desc = 2 ∧ (part 8 1).key = (part 0 0).key
    ∧ CollDesc.type (part 0 0).desc = 3 ∧ CollDesc.op (part 0 0).desc = 0 ∧ (part 0 0).data.length % 4 = 0 ∧ (part 8 1).core ≠ (part 0 0).core
    ∧ (∀ x ∈ [part 0 0, part 8 1], x.foreign = false ∧ x.gone = false ∧ (onHub running fun b => { b with colls := [part 0 0, part 8 1] }).joinsLost x = false
      ∧ x.hs ≠ x.hd)
    ∧ (let p := { part 0 0 with table := [0, 1] }
       (onHub running fun b => { b with colls := [p] }).hub.colls = [p] ∧ p.foreign = false ∧ p.gone = false ∧ p.remote = true)
    ∧ (let p := { part 0 0 with table := [1 * 2 ^ 16, 5 * 2 ^ 16] }
       (onHub { running with state := .killed } fun b => { b with colls := [p], lostErrands := [1] }).joinsLost p = true ∧ p.remote = false) := by decide +kernel

/-- PowerEvents: requests granted, refused by the heat store, answered with what is left, and given back; the boundary values of each. -/
def onCluster (f : Cluster → Cluster) : State := (onCrew core1 crew1 running id).updCluster 0 f
theorem test_witness_lease : let r (u : DWord) (l : BitVec 2) := ({ core1 with request := some (3, u, l), hold := .sprint } : Core)
    let s := onCrew (r 1 3) crew1 running id
    let t := { s with dies := s.dies.set 0 { melt := 850 } }
    let y := (onCrew (r 0 1) crew1 running id).updCluster 0 fun y => { y with lease := some { level := 3, ends := 1000000001 } }
    let z := (onCrew (r 0 0) crew1 running id).updCluster 0 fun y => { y with lease := some { level := 3, ends := 1000000001 } }
    (clusterOf 7 = 0 ∧ (s.core 7).request = some (3, 1, 3) ∧ (s.core 7).answer = none ∧ (3 : BitVec 2) ≠ 0 ∧ (s.cluster 0).lease = none
      ∧ min (1 : DWord).toNat 4000 ≠ 0 ∧ (s.die 0).melt.toNat < 850 ∧ (s.die 0).refreeze = false ∧ (s.cluster 0).throttled = false)
      ∧ 850 ≤ (t.die 0).melt.toNat ∧ (t.cluster 0).lease = none
      ∧ ((s.updCluster 0 fun y => { y with lease := some { level := 1, ends := 1000000001 } }).core 7).request = some (3, 1, 3) ∧ (1 : BitVec 2) < 3
      ∧ ((y.core 7).request = some (3, 0, 1) ∧ (y.cluster 0).lease = some { level := 3, ends := 1000000001 } ∧ y.now < 1000000001 ∧ (1 : BitVec 2) ≤ 3)
      ∧ (z.core 7).request = some (3, 0, 0) ∧ (z.cluster 0).lease = some { level := 3, ends := 1000000001 } := by decide +kernel
theorem test_witness_sprint_answer : let s := onCrew { core1 with request := some (31, 5, 1), answer := some 5, hold := .sprint } crew1 running id
    (s.core 7).request = some (31, 5, 1) ∧ (s.core 7).answer = some 5 ∧ (s.core 7).pend = [] ∧ (s.core 7).hold = .sprint ∧ (s.core 7).divertDue = false
    ∧ (s.core 7).answerArr = false ∧ ({ core1 with answerArr := true } : Core).answerArr = true ∧ ((31 : BitVec 5).toNat - 24) = 7 := by decide +kernel
theorem test_witness_lease_end : let s := onCluster fun y => { y with lease := some { level := 1, ends := 1000000000 } }
    (s.cluster 0).lease = some { level := 1, ends := 1000000000 } ∧ 1000000000 ≤ s.now ∧ ∀ c ∈ s.crewHere 0, (s.core c).status ≠ .contained := by decide +kernel
theorem test_witness_samples : (949 : BitVec 10).toNat < 950 ∧ 950 ≤ (950 : BitVec 10).toNat
    ∧ ((List.replicate 255 1000000000).filter fun t => 1000000000 < t + 3600000000000).length + 1 ≤ 256
    ∧ 256 < ((List.replicate 256 1000000000).filter fun t => 1000000000 < t + 3600000000000).length + 1
    ∧ ((onCluster id).cluster 0).fenced = false ∧ (onCluster id).led = true := by decide +kernel
/-- Pressure that two decays are due of, and a sag meets; a P3 span that still runs, past its 10 ms too, and one that ended 20 us ago. -/
theorem test_witness_droop : let y (f : Cluster → Cluster) := (onCluster f).cluster 0
    let now := (onCluster id).now
    let a := y fun y => { y with pressure := 3, pressureAt := now - 20000 }
    let b (at_ since : Nat) := y fun y => { y with pressure := 3, pressureAt := at_, p3Since := some since }
    (a.p3Spans = [] ∧ a.p3Since = none ∧ min ((now - a.pressureAt) / 10000) a.pressure.toNat = 2)
      ∧ (let c := b 999995000 999000000; c.p3Spans = [] ∧ now < c.pressureAt + 10000 ∧ now ≤ 999000000 + 10000000)
      ∧ (let s := { onCluster (fun y => { y with pressure := 3, pressureAt := 999994999, p3Since := some 980000000 }) with now := 999999999 }
         980000000 + 10000000 < s.now ∧ s.now < 1000000000 ∧ (s.cluster 0).fenced = false ∧ s.led = true ∧ s.now < 999994999 + 10000)
      ∧ (let c := b 999970000 999970000; c.p3Since = some c.pressureAt ∧ c.pressureAt + 30000 ≤ now ∧ now < c.pressureAt + 1000000000) := by
  decide +kernel
/-- R305: P3, and no sag for 1 ms: a sag of 5 % then finds no pressure, and gives P2. -/
theorem test_droop_after_decay : (match exec (.droopSample 0 50) (onCluster fun y => { y with pressure := 3, pressureAt := 999000000 }) with
    | .next t => some ((t.cluster 0).pressure, (t.cluster 0).pressureAt) | _ => none) = some (2, 1000000000) := by decide +kernel
/-- Windows that end at this nanosecond, and one of three that have ended; a slack that is negative, and below LO = 0. -/
theorem test_witness_windows : let s := onCluster fun y => { y with windowAt := 999950000, slackAt := 999950000, collSeen := true, slack := some (-5) }
    let t := onCluster fun y => { y with slackAt := 999950000, collSeen := true, slack := some 100000000, cap := some 1125 }
    let u := onCluster fun y => { y with slackAt := 999850000 }
    (s.cluster 0).windowAt + 50000 ≤ s.now ∧ (s.cluster 0).slackAt + 50000 ≤ s.now ∧ s.now < (s.cluster 0).slackAt + 100000
      ∧ (s.cluster 0).collSeen = true ∧ (s.cluster 0).slack = some (-5)
      ∧ (-5 : Int) < 1000 * (s.slackReg.toNat % 2 ^ 16 : Nat) ∧ ¬(1000 * (s.slackReg.toNat / 2 ^ 16 % 2 ^ 16 : Nat) : Int) < -5 ∧ (s.cluster 0).cap = none
      ∧ (1000 * (t.slackReg.toNat / 2 ^ 16 % 2 ^ 16 : Nat) : Int) < 100000000 ∧ (t.cluster 0).cap = some 1125
      ∧ (1000 * (t.slackReg.toNat % 2 ^ 16 : Nat) : Int) ≤ 1000 * (t.slackReg.toNat / 2 ^ 16 % 2 ^ 16 : Nat)
      ∧ (u.cluster 0).slackAt + 50000 * (1 + 2) ≤ u.now ∧ u.now < (u.cluster 0).slackAt + 50000 * (1 + 3)
      ∧ ((onCluster fun y => { y with slackAt := 999950001 }).cluster 0).slackAt + 50000 > (onCluster id).now := by decide +kernel
theorem test_witness_temperature : let s := onCluster fun y => { y with throttled := true, throttleAt := some 998000000 }
    let u := onCluster fun y => { y with slackAt := 999960000, throttleAt := some 998000001 }
    ((onCluster id).cluster 0).throttled = false ∧ (759 : BitVec 12).toNat < 760 ∧ 760 ≤ (760 : BitVec 12).toNat ∧ ((onCluster id).cluster 0).throttleAt = none
      ∧ ((onCluster id).cluster 0).lease = none ∧ (s.cluster 0).throttled = true ∧ (735 : BitVec 12).toNat < 736 ∧ 998000000 + 2000000 ≤ s.now
      ∧ u.now < (u.cluster 0).slackAt + 50000 ∧ u.now < 998000001 + 2000000 := by decide +kernel

/-- HubEvents: the host's lease has lapsed; the stewards' has, for the first rank; a launch for a free Fitter; a Fitter past its 2 ms. -/
def launch1 : LaunchReq := { errand := 1, prio := 0, gang := false, kernel := { sx := 1, sy := 1, code := 0x100000 } }
theorem test_witness_failover : let s := onHub running fun b => { b with leaseEnd := 1000000000 }
    s.hub.active = some .a ∧ s.hub.leaseEnd ≤ s.now ∧ s.led = true ∧ s.hub.crews = [] ∧ (s.errand 1).port = .a ∧ (s.errand 1).saving = none
      ∧ (s.errand 2).state = .idle := by decide +kernel
theorem test_witness_takeover : let s := onHub running fun b => { b with steward := { b.steward with expiry := 999600000 } }
    s.hub.ready = true ∧ s.hub.steward.expiry + 100000 * (4 : BitVec 3).toNat ≤ s.now ∧ s.hub.clerkAsk = 0 ∧ s.hub.clerkSt = Vector.replicate 8 0
      ∧ s.now < s.hub.leaseEnd := by decide +kernel
theorem test_witness_fitter : let s := onHub running fun b => { b with fitQueue := [launch1] }
    let j : FitJob := { req := launch1, stage := 1, taken := 998000000 }
    let t := onHub running fun b => { b with fitters := b.fitters.set 3 (some j) }
    s.hub.fitters[3] = none ∧ s.hub.fitQueue = [launch1] ∧ launch1.kernel.config.getLsbD 0 = false ∧ s.lookup launch1.kernel = none
      ∧ s.beingFitted launch1.kernel = false ∧ t.hub.fitters[3] = some j ∧ j.stage = 1 ∧ j.taken + 2000000 ≤ t.now ∧ t.hub.fitters[0] = none
      ∧ t.hub.fitters[1] = none ∧ t.hub.fitters[2] = none := by decide +kernel
/-- A launch that waits for one cluster where cluster 63 alone is free. -/
theorem test_witness_grant : let w : Crew := { crew1 with errand := 2, clusters := (List.range 63).map (BitVec.ofNat 6) }
    let s := onHub running fun b => { b with waiting := [launch1], crews := [w] }
    s.hub.waiting = [launch1] ∧ launch1.parked = false ∧ launch1.gang = false ∧ launch1.saved = none ∧ launch1.residual = none ∧ launch1.kernel.roles = []
      ∧ launch1.kernel.crew = 1 ∧ s.freeClusters = [63] ∧ (s.errand launch1.errand).state = .running := by decide +kernel
theorem test_witness_inval_attest : let s (host : Bool) := onHub running fun b => { b with
      invals := [5], egress := [{ host := host, core := 0, eng := 0, pa := 0, bytes := [1] }] }
    (onHub running fun b => { b with invals := [5] }).hub.invals = 5 :: [] ∧ (∀ w ∈ (s true).hub.egress, w.host = true)
    ∧ (∃ w ∈ (s false).hub.egress, w.host = false)
    ∧ (let s := onHub running fun b => { b with attest := true, attestHead := List.replicate 256 0 }
       s.hub.attest = true ∧ s.hub.attestHead.length = 256) := by decide +kernel

/-- PackageEvents: a package that is down; the standby port and the active one; the last byte of HBM and one past it; a flit in order and out of
order, and while a gang is stopped. -/
theorem test_witness_package : State.reset.hub.ready = false ∧ State.reset.hub.recov = false ∧ (onHub running id).hub.active ≠ some .b
    ∧ (onHub running id).hub.active = some .a ∧ (onHub running id).led = true ∧ (768 * 10 ^ 9 - 1 : DWord).toNat + [(5 : Byte)].length ≤ 768 * 10 ^ 9
    ∧ 768 * 10 ^ 9 < (768 * 10 ^ 9 : DWord).toNat + [(5 : Byte)].length ∧ 1 = State.reset.hub.linkSeq[15] + 1 ∧ 2 ≠ State.reset.hub.linkSeq[15] + 1
    ∧ State.reset.hub.stopped = []
    ∧ (let s := onHub running fun b => { b with stopped := [9], linkHeld := b.linkHeld.set 15 [(1, 5)] }
       s.hub.stopped ≠ [] ∧ 2 = s.hub.linkSeq[15] + s.hub.linkHeld[15].length + 1 ∧ 1 ≠ s.hub.linkSeq[15] + s.hub.linkHeld[15].length + 1) := by
  decide +kernel

/-- StepKeepsMemory and EncodingsRoundTrip: a state whose memories hold something, a step of it, and instructions of each encoding. -/
theorem test_witness_round_trip : (Instr.li 0 1 40).wf = true ∧ encodeS (.li 0 1 40) = some 0x0B820028 ∧ (Instr.copy 0 0 63 31 1 7).wf = true
    ∧ (encodeC (.copy 0 0 63 31 1 7)).isSome = true ∧ (encodeV (.vext 0 0 1 2 2 31)).isSome = true ∧ (encodeU (.upass 255)).isSome = true
    ∧ (encodeE (.joinpt ⟨7, 1⟩)).isSome = true ∧ (encodeP (.resume write1)).isSome = true
    ∧ decodeSlot .s (0x8B860000 % 2 ^ 32) (some 0x10000000) = .ok (.liExt 0 3 0x10000000) := by decide +kernel

/-- PackageEvents: an image without a body. Its signatures are the boot ROM's to judge, and the fused minimum is the chip's: where these let it
pass, the images of a flash that holds it are accepted, and empty ones never are; so every clause of boot has its flash. -/
def goodImage : List Byte := leBytes 4 0x49424D47 ++ List.replicate 12 0 ++ Sha.sha384 []
def imagePart (img : List Byte) (at_ n : Nat) : List Byte := fitBytes n (img.drop at_)
def flashOf (f : Nat → Bool) : State := State.reset.updHub fun h => { h with flash := Vector.ofFn fun i => if f i then goodImage else [] }
theorem goodImage_fields : leNat (imagePart goodImage 0 4) = 0x49424D47 ∧ leNat (imagePart goodImage 4 2) = 0 ∧ leNat (imagePart goodImage 12 4) = 0
    ∧ leNat (imagePart goodImage 8 4) = 0 ∧ (imagePart goodImage 16672 224).all (· == 0) = true ∧ imagePart goodImage 16896 0 = []
    ∧ imagePart goodImage 16 48 = Sha.sha384 [] := by decide +kernel
theorem flashOf_image (f : Nat → Bool) (i : Nat) (h : i < 18) : (flashOf f).hub.flash.toList.getD i [] = if f i then goodImage else [] := by
  show (Vector.ofFn (n := 18) fun i => if f i then goodImage else []).toList.getD i [] = _
  simp [h]
theorem test_witness_boot (r : Config.rsaSigned (imagePart goodImage 0 64) (imagePart goodImage 64 384) = true)
    (s : Config.slhSigned (imagePart goodImage 0 64) (imagePart goodImage 448 16224) = true) (v : Config.minSvn 0 = 0) (f : Nat → Bool) (i : Nat)
    (h : i < 18) : imageAccepted (imagePart ((flashOf f).hub.flash.toList.getD i [])) = f i ∧ (flashOf f).hub.ready = false ∧ (flashOf f).hub.recov = false := by
  refine ⟨?_, rfl, rfl⟩
  rw [flashOf_image f i h]
  cases f i with
  | true =>
    obtain ⟨a, b, c, d, e, g, k⟩ := goodImage_fields
    simp only [if_true, imageAccepted, a, b, c, d, e, g, k, r, s, v, beq_self_eq_true, Bool.and_self, Nat.zero_le, decide_true]
  | false =>
    have z : leNat (imagePart [] 0 4) = 0 := by decide
    simp [imageAccepted, z]

/-- HubPortOperations: the same image at 0x10000 of HBM. -/
def imageState : State := { onHub running id with hbm := Mem.write [] 0x10000 goodImage }
theorem test_witness_clerk_image (r : Config.rsaSigned (imageState.hbm.bytes 0x10000 64) (imageState.hbm.bytes (0x10000 + 64) 384) = true)
    (s : Config.slhSigned (imageState.hbm.bytes 0x10000 64) (imageState.hbm.bytes (0x10000 + 448) 16224) = true) (v : Config.minSvn 0 = 0) :
    imageState.imageOk (0x10 * 4096) = true := by
  obtain ⟨a, b, c, d, e, g, k⟩ : leNat (imageState.hbm.bytes 0x10000 4) = 0x49424D47 ∧ leNat (imageState.hbm.bytes (0x10000 + 4) 2) = 0
      ∧ leNat (imageState.hbm.bytes (0x10000 + 12) 4) = 0 ∧ leNat (imageState.hbm.bytes (0x10000 + 8) 4) = 0
      ∧ (imageState.hbm.bytes (0x10000 + 16672) 224).all (· == 0) = true ∧ imageState.hbm.bytes (0x10000 + 16896) 0 = []
      ∧ imageState.hbm.bytes (0x10000 + 16) 48 = Sha.sha384 [] := by decide +kernel
  simp only [State.imageOk, imageAccepted, Nat.add_zero, a, b, c, d, e, g, k, r, s, v, beq_self_eq_true, Bool.and_self, Nat.zero_le, decide_true,
    show 0x10 * 4096 = 0x10000 from rfl]

/-- HubEvents: a kernel of one HALT, with its residual, and one whose CSIZE allows no residual (REASON 2). -/
def fitKernel1 (csize : Nat) : Kernel := { sx := 1, sy := 1, code := 0x100000, csize := csize, fitgrow := 8 }
def fitState : State := { onHub running id with hbm := tables.write 0x100000 ([1, 0x07800000].flatMap (leBytes 4)) }
theorem test_witness_fitted : (match fitState.fitKernel 1 (fitKernel1 8) with
    | .fitted _ bs _ n _ => bs.length == 2 && fitState.hub.residualBytes + n ≤ 512 * 2 ^ 20 | _ => false) = true
    ∧ (match fitState.fitKernel 1 (fitKernel1 0) with | .failed r => r == 2 | _ => false) = true ∧ fitState.hub.directory < 8192
    ∧ fitState.hub.cache = [] := by decide +kernel

/-! ### Single steps, with results that the spec's tables and rules print -/

/-- The table of R74. -/
theorem test_bfx_past_the_top : after (exec (.bfx ⟨0, 3, 1, 8, 60⟩) (onCore (core12 0xF000000000000000 0))) (·.s[3]) = some 0xF := by decide +kernel
theorem test_bfxs_signed : after (exec (.bfxs ⟨0, 3, 1, 4, 60⟩) (onCore (core12 0xF000000000000000 0))) (·.s[3]) = some 0xFFFFFFFFFFFFFFFF := by decide +kernel
theorem test_bfi_past_the_top : after (exec (.bfi ⟨0, 3, 1, 4, 62⟩) (onCore (core12 0xF 0))) (·.s[3]) = some 0xC000000000000000 := by decide +kernel
theorem test_bfxv_whole : after (exec (.bfxv 0 3 1 2 0) (onCore (core12 0x1234 0x4000))) (·.s[3]) = some 0x1234 := by decide +kernel
/-- R72: the sum wraps. R58: s0 takes nothing. R73: −2^63 by −1, on its way with latency 20. -/
theorem test_add_wraps : after (exec (.add ⟨0, 1, 1, 2, 0⟩) (onCore (core12 0xFFFFFFFFFFFFFFFF 2))) (·.s[1]) = some 1 := by decide +kernel
theorem test_s0_stays : after (exec (.li 0 0 5) (onCore core0)) (·.s) = some core0.s := by decide +kernel
theorem test_divs_corner : after (exec (.divs ⟨0, 3, 1, 2, 0⟩) (onCore (core12 0x8000000000000000 0xFFFFFFFFFFFFFFFF))) (·.pend)
    = some [{ due := 20, writes := [.s 3 0x8000000000000000] }] := by decide +kernel
/-- R84: a trip count of 0 falls through and stays 0; one of 2 branches back and leaves 1. -/
theorem test_loop_zero : after (exec (.loop 0 0 0x3FFFC) (onCore core0)) (fun k => (k.pc, k.n[0])) = some (0x1008, 0) := by decide +kernel
theorem test_loop_taken : after (exec (.loop 0 5 0x3FFFC) (onCore { core0 with n := core0.n.set 5 2 })) (fun k => (k.pc, k.n[5])) = some (0xFF0, 1) := by
  decide +kernel
/-- R272: a misaligned load goes to the handler at 0x40, saves its pc, and leaves its record. -/
theorem test_align_trap : after (exec (.lds ⟨0, 3, 1, 0⟩) (onCore { core12 4 0 with ctl := { core0.ctl with trapvec := 0x40 } }))
    (fun k => (k.pc, k.trapCtx.map (·.ret), k.records.map (·.cause), k.s[3])) = some (0x40, some 0x1000, [0x07], 0) := by decide +kernel
/-- R269, R272: without an entry the core stops. -/
theorem test_trap_without_entry : after (exec (.lds ⟨0, 3, 1, 0⟩) (onCore (core12 4 0))) (·.status) = some .stopped := by decide +kernel
/-- R78: a store of the last bytes of the bench, little-endian. -/
theorem test_stsx_bytes : after (exec (.stsx 0 1 2 0 0 1) (onCore (core12 0xABCD 0x7FFFE))) (·.bench) = some [(0x7FFFE, 0xCD), (0x7FFFF, 0xAB)] := by
  decide +kernel
/-- R126: a count of the lane's width gives zero. R127: −0 equals +0. -/
theorem test_vshl_past_the_lane : after (exec (.vshl ⟨0, 3, 3, 1, 2, 2, 0⟩) (onCore { core0 with v := (core0.v.set 1 1).set 2 32 }))
    (fun k => k.pend.map (·.writes)) = some [[.v 3 0]] := by decide +kernel
theorem test_vceq_zeros : after (exec (.vceq ⟨0, 0, 1, 1, 2, 0, 0⟩) (onCore { core0 with v := core0.v.set 1 0x80000000 }))
    (fun k => k.pend.map (·.writes)) = some [[.k 1 0xFF]] := by decide +kernel
/-- R124: 100 + 100 saturates in i8 and raises SAT. -/
theorem test_vadd_saturates : after (exec (.vaddArith ⟨0, 5, 3, 1, 2, 0, 0⟩ ⟨0, 1⟩) (onCore { core0 with v := (core0.v.set 1 100).set 2 100 }))
    (fun k => k.pend.map fun p => (p.writes, p.flags)) = some [([.v 3 127], Fl.sat)] := by decide +kernel
/-- R182, R200: FLIP of a FULL handle of the core. R202: HPOIS needs O = 0. -/
theorem test_flip : after (exec (.flip 0 2) (onCore core0)) (fun k => ((k.handle 2).st, (k.handle 2).o)) = some (0, 1) := by decide +kernel
theorem test_hpois : after (exec (.hpois 0 1 0) (onCore { core0 with ctl := { core0.ctl with trapvec := 0x40 } })) (fun k => (k.records.map (·.cause), (k.handle 1).psn))
    = some ([0x06], 0) := by decide +kernel
/-- R142: KSET of 37 lanes. -/
theorem test_kset : after (exec (.kset 0 1 1) (onCore (core12 37 0))) (·.k[1]) = some 0x1FFFFFFFFF := by decide +kernel

/-- R407, R408: in recovery after a refused clerk image the alert line is asserted and only HEALTH answers over I3C. -/
theorem test_i3c_in_recovery : let s : State := State.reset.recover false 4
    s.alert = true ∧ s.i3cRead 0x100 = some 0x408 ∧ s.i3cRead 0x200 = some 0 ∧ s.i3cRead 0x1000 = none := by decide +kernel

/-! ### The words of the opcode table, read and run -/

theorem test_table_word : decodeTableWord 32 0x0B820028 = some (.li 0 1 40) ∧ decodeTableWord 64 0x100000008B860000 = some (.liExt 0 3 0x10000000)
    ∧ decodeTableWord 64 0x9000000000000000 = some .uend := by decide +kernel
theorem test_table_word_runs : after (step (State.reset.withFetchWord 32 0x0B820028)) (·.s[1]) = some 40 := by decide +kernel
theorem test_table_micro_runs : after (step (State.reset.withFetchWord 64 0x9000000000000000)) (·.matrix.running) = some none := by decide +kernel

end Sys2Proof.Tests
end

namespace Sys2Proof.Machine

/-! ### Quotients and remainders as numbers (R73) -/

theorem divSigned_eq (a b : DWord) :
    divSigned a b = if b = 0 then BitVec.ofInt 64 (-1) else BitVec.ofInt 64 (a.toInt.tdiv b.toInt) := by
  have quotient : a.sdiv b = BitVec.ofInt 64 (a.toInt.tdiv b.toInt) :=
    BitVec.eq_of_toInt_eq (by rw [BitVec.toInt_sdiv, BitVec.toInt_ofInt])
  rw [divSigned, quotient]
  rfl

theorem divUnsigned_eq (a b : DWord) :
    divUnsigned a b = if b = 0 then BitVec.ofNat 64 (2 ^ 64 - 1) else BitVec.ofNat 64 (a.toNat / b.toNat) := by
  have quotient : a / b = BitVec.ofNat 64 (a.toNat / b.toNat) := by
    rw [← BitVec.toNat_udiv, BitVec.ofNat_toNat, BitVec.setWidth_eq]
  rw [divUnsigned, quotient]
  rfl

theorem remSigned_eq (a b : DWord) :
    remSigned a b = if b = 0 then a else BitVec.ofInt 64 (a.toInt.tmod b.toInt) := by
  have remainder : a.srem b = BitVec.ofInt 64 (a.toInt.tmod b.toInt) := by
    rw [← BitVec.toInt_srem, BitVec.ofInt_toInt]
  rw [remSigned, remainder]

theorem remUnsigned_eq (a b : DWord) :
    remUnsigned a b = if b = 0 then a else BitVec.ofNat 64 (a.toNat % b.toNat) := by
  have remainder : a % b = BitVec.ofNat 64 (a.toNat % b.toNat) := by
    rw [← BitVec.toNat_umod, BitVec.ofNat_toNat, BitVec.setWidth_eq]
  rw [remUnsigned, remainder]

/-- The low half of a product is the product of the numbers, cut to 64 bits (R72). -/
theorem mul_eq_ofNat (a b : DWord) : a * b = BitVec.ofNat 64 (a.toNat * b.toNat) := by
  rw [BitVec.ofNat_mul, BitVec.ofNat_toNat, BitVec.ofNat_toNat, BitVec.setWidth_eq, BitVec.setWidth_eq]

/-! ### Register-form operations whose result comes later -/

/-- At the start of an issue the operands and the result's register are those of the state before it (R71). -/
theorem State.alu_beginSolo (s : State) (slot words : Nat) (o : SReg) (lat : Nat) (f : DWord → DWord → DWord) :
    (s.beginSolo slot words).alu o lat f
      = .done ((s.beginSolo slot words).setMe ((s.beginSolo slot words).me.push lat
          (s.scalar o.d (f (s.me.readS o.a) (s.me.operand o.f o.b))))) := by
  rw [State.alu, State.readS_beginSolo, State.operand_beginSolo, State.sWrite_beginSolo]

/-- An operation that issues as `alu` with latency `lat` and function `g` computes whatever function has the values of `g`. -/
theorem aluRegLater_of_alu {i : SReg → Instr} {lat : Nat} {f g : DWord → DWord → DWord} (two_le : 2 ≤ lat)
    (issues : ∀ o s, exec (i o) s = s.solo 1 1 fun t => t.alu o lat g) (values : ∀ a b, g a b = f a b) :
    AluRegLater i lat f := by
  intro o s room
  have result := s.alu_beginSolo 1 1 o lat g
  rw [values] at result
  rw [issues]
  exact s.solo_later 1 1 lat two_le room result

/-- Settles O2: each operation issues as one `alu`, whose function has the value that R72 or R73 gives. -/
theorem scalarProductsAndQuotients : Obligations.ScalarProductsAndQuotients :=
  ⟨aluRegLater_of_alu (by decide) (fun _ _ => rfl) mul_eq_ofNat,
    aluRegLater_of_alu (by decide) (fun _ _ => rfl) fun _ _ => rfl,
    aluRegLater_of_alu (by decide) (fun _ _ => rfl) fun _ _ => rfl,
    aluRegLater_of_alu (by decide) (fun _ _ => rfl) divSigned_eq,
    aluRegLater_of_alu (by decide) (fun _ _ => rfl) divUnsigned_eq,
    aluRegLater_of_alu (by decide) (fun _ _ => rfl) remSigned_eq,
    aluRegLater_of_alu (by decide) (fun _ _ => rfl) remUnsigned_eq⟩

end Sys2Proof.Machine

namespace Sys2Proof.Machine

/-! ### Operations that change their core, or trap, within their issue -/

/-- An operation that is done with a change `f` of its core changes it by `f` within its issue. -/
theorem changes_of_done {i : Instr} {s : State} {slot words : Nat} {op : State → OpRes} {f : Core → Core}
    (issues : exec i s = s.solo slot words op)
    (result : op (s.beginSolo slot words) = .done ((s.beginSolo slot words).updMe f)) : Changes i s slot words f := by
  rw [Changes, issues]
  simp only [State.solo, result]

/-- An operation that has a trap takes it, with no other effect (R266). -/
theorem traps_of_trap {i : Instr} {s : State} {slot words : Nat} {op : State → OpRes} {t : TrapRecord}
    (issues : exec i s = s.solo slot words op) (result : op (s.beginSolo slot words) = .trap t) : Traps i s slot words t := by
  rw [Traps, issues]
  simp only [State.solo, result]

@[simp] theorem State.handle_beginSolo (s : State) (slot words : Nat) (h : BitVec 6) :
    (s.beginSolo slot words).me.handle h = s.me.handle h := by
  simp [State.beginSolo, Core.handle]

/-! ### Handles: declared, and the FLIP rows of R182 -/

theorem Handle.declared_of_size_ne {x : Handle} (size : x.size ≠ 0) : x.declared = true := bne_iff_ne.2 size

theorem Handle.not_declared_of_size_eq {x : Handle} (size : x.size = 0) : x.declared = false := by
  rw [Handle.declared, size]
  rfl

theorem Handle.flipped_full_mine {x : Handle} (st : x.st = 2) (o : x.o = 0) : x.flipped = some { x with st := 0, o := 1 } := by
  simp [Handle.flipped, Hs.full, Hs.free, st, o]

theorem Handle.flipped_full_engine {x : Handle} (st : x.st = 2) (o : x.o = 1) : x.flipped = some { x with o := 0 } := by
  simp [Handle.flipped, Hs.full, st, o]

theorem Handle.flipped_free_engine {x : Handle} (st : x.st = 0) (o : x.o = 1) : x.flipped = some { x with o := 0 } := by
  simp [Handle.flipped, Hs.full, Hs.free, st, o]

theorem Handle.flipped_free_mine {x : Handle} (st : x.st = 0) (o : x.o = 0) : x.flipped = some { x with st := 2, o := 1 } := by
  simp [Handle.flipped, Hs.full, Hs.free, st, o]

/-- FILLING and DRAINING have no FLIP row. -/
theorem Handle.flipped_busy {x : Handle} (st : x.st = 1 ∨ x.st = 3) : x.flipped = none := by
  obtain st | st := st <;> simp [Handle.flipped, Hs.full, Hs.free, st]

/-! ### FLIP, HARM and HPOIS (R200, R202, R204) -/

/-- Operation `i` in slot C0 has a precise trap with `cause` that names handle `h` (HV and HND of R263). -/
def TrapsNaming (i : Instr) (s : State) (cause : BitVec 5) (h : BitVec 6) : Prop :=
  ∃ t : TrapRecord, t.cause = cause ∧ t.hv = true ∧ t.hnd = h ∧ Traps i s 5 1 t

/-- The trap at an acceptance names its handle. -/
theorem trapsNaming_of_copyTrap {i : Instr} {s : State} {h : BitVec 6} {op : State → OpRes} {cause : BitVec 5} {opcode : Nat}
    (issues : exec i s = s.solo 5 1 op)
    (result : op (s.beginSolo 5 1) = .trap ((s.beginSolo 5 1).copyTrap cause opcode h)) : TrapsNaming i s cause h :=
  ⟨_, rfl, rfl, rfl, traps_of_trap issues result⟩

section
variable (bt : BitVec 2) {h : BitVec 6} {s : State}

/-- The handle that an issue changes is the handle of the state before it. -/
theorem updMe_updHandle_beginSolo (f : Handle → Handle) :
    ((s.beginSolo 5 1).updMe fun k => k.updHandle h f)
      = (s.beginSolo 5 1).updMe fun k => k.setHandle h (f (s.me.handle h)) := by
  rw [← s.handle_beginSolo 5 1 h]
  rfl

theorem flip_changes {x : Handle} (size : (s.me.handle h).size ≠ 0) (ring : (s.me.handle h).ring = none)
    (row : (s.me.handle h).flipped = some x) : Changes (.flip bt h) s 5 1 fun k => k.setHandle h x :=
  changes_of_done (op := opFlip bt h) rfl (by simp [opFlip, Handle.declared_of_size_ne size, ring, row])

theorem flip_traps_undeclared (size : (s.me.handle h).size = 0) : TrapsNaming (.flip bt h) s Cause.protection h :=
  trapsNaming_of_copyTrap (op := opFlip bt h) (opcode := 0x08) rfl (by simp [opFlip, Handle.not_declared_of_size_eq size])

theorem flip_traps_member (ring : (s.me.handle h).ring ≠ none) : TrapsNaming (.flip bt h) s Cause.protection h :=
  trapsNaming_of_copyTrap (op := opFlip bt h) (opcode := 0x08) rfl (by simp [opFlip, Option.isSome_iff_ne_none.2 ring])

theorem flip_traps_no_row (row : (s.me.handle h).flipped = none) : TrapsNaming (.flip bt h) s Cause.protection h :=
  trapsNaming_of_copyTrap (op := opFlip bt h) (opcode := 0x08) rfl (by simp [opFlip, row])

theorem harmOff_changes (size : (s.me.handle h).size ≠ 0) :
    Changes (.harmOff bt h) s 5 1 fun k => k.setHandle h { s.me.handle h with arm := false } :=
  changes_of_done (op := opHarmOff bt h) rfl
    (by simp [opHarmOff, Handle.declared_of_size_ne size, updMe_updHandle_beginSolo])

theorem harmOff_traps_undeclared (size : (s.me.handle h).size = 0) : TrapsNaming (.harmOff bt h) s Cause.protection h :=
  trapsNaming_of_copyTrap (op := opHarmOff bt h) (opcode := 0x0A) rfl
    (by simp [opHarmOff, Handle.not_declared_of_size_eq size])

theorem harm_changes {a : BitVec 5} (size : (s.me.handle h).size ≠ 0) (aligned : (s.me.readS a).toNat % 16 = 0) :
    Changes (.harm bt h a) s 5 1 fun k => k.setHandle h { s.me.handle h with arm := true, entry := s.me.readS a } :=
  changes_of_done (op := opHarm bt h a) rfl
    (by simp [opHarm, Handle.declared_of_size_ne size, aligned, updMe_updHandle_beginSolo])

theorem harm_traps_undeclared (a : BitVec 5) (size : (s.me.handle h).size = 0) :
    TrapsNaming (.harm bt h a) s Cause.protection h :=
  trapsNaming_of_copyTrap (op := opHarm bt h a) (opcode := 0x0A) rfl
    (by simp [opHarm, Handle.not_declared_of_size_eq size])

/-- The record of a misaligned entry carries the entry as its address, too (FADDR of R263). -/
theorem harm_traps_misaligned {a : BitVec 5} (size : (s.me.handle h).size ≠ 0) (misaligned : (s.me.readS a).toNat % 16 ≠ 0) :
    TrapsNaming (.harm bt h a) s Cause.align h := by
  have result : opHarm bt h a (s.beginSolo 5 1)
      = .trap { (s.beginSolo 5 1).mkTrap Cause.align 0x0A (some (s.me.readS a)) with hv := true, hnd := h } := by
    simp [opHarm, Handle.declared_of_size_ne size, misaligned]
  exact ⟨_, rfl, rfl, rfl, traps_of_trap rfl result⟩

theorem hpois_changes {c : BitVec 1} (size : (s.me.handle h).size ≠ 0) (mine : (s.me.handle h).o = 0) :
    Changes (.hpois bt h c) s 5 1 fun k => k.setHandle h { s.me.handle h with psn := if c = 0 then 1 else 0, abort := false } := by
  have psn : ~~~c = if c = 0 then 1 else 0 := by decide +revert
  exact changes_of_done (op := opHpois bt h c) rfl (by simp [opHpois, Handle.declared_of_size_ne size, mine, psn])

theorem hpois_traps_undeclared (c : BitVec 1) (size : (s.me.handle h).size = 0) :
    TrapsNaming (.hpois bt h c) s Cause.protection h :=
  trapsNaming_of_copyTrap (op := opHpois bt h c) (opcode := 0x0E) rfl
    (by simp [opHpois, Handle.not_declared_of_size_eq size])

theorem hpois_traps_engine_side {c : BitVec 1} (size : (s.me.handle h).size ≠ 0) (engine : (s.me.handle h).o = 1) :
    TrapsNaming (.hpois bt h c) s Cause.ownership h :=
  trapsNaming_of_copyTrap (op := opHpois bt h c) (opcode := 0x0E) rfl
    (by simp [opHpois, Handle.declared_of_size_ne size, engine])

end

/-- Settles O37: each clause is the rule of its operation where the handle is as the clause says. -/
theorem handleOperations : Obligations.HandleOperations := by
  intro bt h s
  refine ⟨fun size ring => ⟨?_, ?_, ?_, ?_, ?_⟩, ?_, ?_, ?_, ?_, ?_, ?_, ?_⟩
  · exact fun st o => flip_changes bt size ring (Handle.flipped_full_mine st o)
  · exact fun st o => flip_changes bt size ring (Handle.flipped_free_engine st o)
  · exact fun st o => flip_changes bt size ring (Handle.flipped_free_mine st o)
  · exact fun st o => flip_changes bt size ring (Handle.flipped_full_engine st o)
  · exact fun busy => flip_traps_no_row bt (Handle.flipped_busy busy)
  · exact flip_traps_member bt
  · exact fun size => ⟨flip_traps_undeclared bt size, harmOff_traps_undeclared bt size,
      fun a => harm_traps_undeclared bt a size, fun c => hpois_traps_undeclared bt c size⟩
  · exact harmOff_changes bt
  · exact fun _ size aligned => harm_changes bt size aligned
  · exact fun _ size misaligned => harm_traps_misaligned bt size misaligned
  · exact fun _ size mine => hpois_changes bt size mine
  · exact fun _ size engine => hpois_traps_engine_side bt size engine

end Sys2Proof.Machine
